-- ==== Sys2Proof/Word.lean ====
section
/-! DEFINITION. The basic vocabulary of the WL96: bytes, slots, segments, lines, trip inputs and the two kinds of
frame that arrive from outside. Quantities (per mille, flow, pascal, milliseconds) are Nat or Int throughout, as
"All quantities in this manual are integers" (00_scope.md); only frame bytes and the check are bit vectors. -/

namespace Sys2Proof

/-- One character of a frame carries one byte (R209). -/
abbrev Byte := BitVec 8

/-- A slot number of the Well Table, 0 to 95 (R2). -/
abbrev Slot := Fin 96

/-- The four field loop segments (00_scope.md, Numbering Conventions). -/
inductive Seg where
  | a | b | c | d
  deriving DecidableEq, Repr

/-- The four segments in the order of their names. -/
def Seg.all : List Seg := [.a, .b, .c, .d]

/-- The two collection lines; an outlet is a line (00_scope.md). -/
inductive Line where
  | engine | flare
  deriving DecidableEq, Repr

/-- The five trip inputs (R92). -/
inductive Trip where
  | trip0 | trip1 | trip2 | trip3 | flareFault
  deriving DecidableEq, Repr

/-- The five trip inputs in the order of the trip input set (R209). -/
def Trip.all : List Trip := [.trip0, .trip1, .trip2, .trip3, .flareFault]

/-- A complete field frame as it stands on a segment's line, its delimiter left out (R211). `src` and `dst` are the
bytes on the line, that is, the addresses with their bits reversed; `check` is the check received, low byte first on the
line. The payload length byte is the length of `payload`. -/
structure FieldFrame where
  src : Byte
  dst : Byte
  kind : Byte
  payload : List Byte
  check : BitVec 16
  deriving DecidableEq, Repr

/-- A complete plant frame, its delimiter left out (R214). The two length bytes are the length of `payload`. -/
structure PlantFrame where
  kind : Byte
  tag : Byte
  payload : List Byte
  check : BitVec 16
  deriving DecidableEq, Repr

/-- The value of the range's nearer end when `x` lies outside `lo` to `hi` (R1, "clamped to"). -/
def clampNat (lo hi x : Nat) : Nat := if x < lo then lo else if hi < x then hi else x

/-- `clampNat` for signed quantities (R1). -/
def clampInt (lo hi x : Int) : Int := if x < lo then lo else if hi < x then hi else x

/-- The distance between two positions (R160). -/
def dist (x y : Nat) : Nat := if x ≤ y then y - x else x - y

/-- A counter that stops at its greatest value (00_scope.md, "Counters described as saturating"). -/
def satInc (cap n : Nat) : Nat := if n < cap then n + 1 else cap

end Sys2Proof
end

