-- ==== Sys2Proof/Syntax.lean ====
section
/-! DEFINITION. The commands: one constructor for each row of spec/opcode_table.json, in the table's order. A command is
something that reaches the WL96 from outside (a frame, a pin, a timer that runs out, the end of a transmission) or the
taking of a turn by one of its blocks; each is one whole and indivisible step (95_what_each_step_holds.md). -/

namespace Sys2Proof

/-- The commands of the WL96. The rows of the plant computer's commands (`loadWell` to `malformed`) carry no operand: a
row executes the first frame of the receive buffer (R191), and the operands stand in that frame's payload (R215). -/
inductive Instr where
  /-- RESET_ASSERTED (R208). -/
  | resetAsserted
  /-- RESET_RELEASED (R188): the level of the ADDR strap at the release. -/
  | resetReleased (strapHigh : Bool)
  /-- PLANT_FRAME_RECEIVED (R189): the frame as received, its check included. -/
  | plantFrameReceived (f : PlantFrame)
  /-- PLANT_FRAME_ABANDONED (R189). -/
  | plantFrameAbandoned
  /-- LOAD_WELL (R20): the load form stands first in the receive buffer. -/
  | loadWell
  /-- LOAD_WELL_VACATE (R27): the vacate form stands first in the receive buffer. -/
  | loadWellVacate
  /-- LOAD_SEGMENT (R130). -/
  | loadSegment
  /-- LOAD_SITE (R196). -/
  | loadSite
  /-- UNLOCK (R193). -/
  | unlock
  /-- LOAD_LIMITS (R194). -/
  | loadLimits
  /-- LOAD_CONDITION (R105). -/
  | loadCondition
  /-- READ_WELL (R197). -/
  | readWell
  /-- READ_LINE (R197). -/
  | readLine
  /-- READ_SEGMENT (R197). -/
  | readSegment
  /-- READ_SEGMENT_CLEAR (R198). -/
  | readSegmentClear
  /-- READ_CONDITION_LEVELS (R197). -/
  | readConditionLevels
  /-- READ_IN_SERVICE_STACK (R197). -/
  | readInServiceStack
  /-- READ_PENDING_SET (R199). -/
  | readPendingSet
  /-- READ_CONDITION_PAIR (R126). -/
  | readConditionPair
  /-- READ_ROLE (R174). -/
  | readRole
  /-- READ_SITE (R197). -/
  | readSite
  /-- READ_LIMITS (R197). -/
  | readLimits
  /-- READ_LINK (R197). -/
  | readLink
  /-- READ_LINK_CLEAR (R198). -/
  | readLinkClear
  /-- READ_LINE_STATE (R197). -/
  | readLineState
  /-- DEMAND (R83). -/
  | demand
  /-- MODE_RUN (R200). -/
  | modeRun
  /-- MODE_HOLD (R200). -/
  | modeHold
  /-- FORCE (R28). -/
  | force
  /-- RELEASE (R29). -/
  | release
  /-- CLEAR (R117). -/
  | clear
  /-- DISMISS (R119). -/
  | dismiss
  /-- BUDGET_RESET (R173). -/
  | budgetReset
  /-- RESTART (R201). -/
  | restart
  /-- MALFORMED (R192). -/
  | malformed
  /-- UPLINK_FRAME_SENT (R206). -/
  | uplinkFrameSent
  /-- POLL (R143): segment `g` takes its turn on an idle line. -/
  | poll (g : Seg)
  /-- SET (R163): segment `g` takes its turn on an idle line. -/
  | set (g : Seg)
  /-- PRESENCE_TIMER_EXPIRY (R142). -/
  | presenceTimerExpiry (g : Seg)
  /-- PRESENCE (R137): segment `g` sends a due PRESENCE on an idle line. -/
  | presence (g : Seg)
  /-- FRAME_TRANSMITTED (R133): the frame segment `g` is transmitting completes. -/
  | frameTransmitted (g : Seg)
  /-- ARBITRATION_LOSS (R181): segment `g` reads dominant where it sent recessive; `winner` is the winner's source
  address as a plain number. -/
  | arbitrationLoss (g : Seg) (winner : Nat)
  /-- SAMPLE (R135): a SAMPLE frame completes on segment `g`. -/
  | sample (g : Seg) (f : FieldFrame)
  /-- ECHO (R136): an ECHO frame completes on segment `g`. -/
  | echo (g : Seg) (f : FieldFrame)
  /-- REPLY_TIMEOUT (R133): the reply window of segment `g` closes with no frame begun. -/
  | replyTimeout (g : Seg)
  /-- OTHER_CONTROLLER_FRAME (R183): a frame from the other controller address completes on segment `g`. -/
  | otherControllerFrame (g : Seg) (f : FieldFrame)
  /-- STRAY_FRAME (R144): a wellhead frame outside any window completes on segment `g`. -/
  | strayFrame (g : Seg) (f : FieldFrame)
  /-- FIELD_CHECK_FAILURE (R129): a complete frame on segment `g` fails its check. -/
  | fieldCheckFailure (g : Seg) (f : FieldFrame)
  /-- FIELD_FRAME_ABANDONED (R129): the frame under reception on segment `g` is abandoned. -/
  | fieldFrameAbandoned (g : Seg)
  /-- OVERHEARD_TIMEOUT (R146): the timeout of the overheard transaction of segment `g` runs out. -/
  | overheardTimeout (g : Seg)
  /-- SILENCE_TAKEOVER (R178): the silence timer expires. -/
  | silenceTakeover
  /-- MOVE_TIMEOUT (R170): the move timeout of the well in slot `i` passes. -/
  | moveTimeout (i : Slot)
  /-- TRIP_FILTER_EXPIRY (R92): the verification timer of input `t` expires. -/
  | tripFilterExpiry (t : Trip)
  /-- TRIP_INPUT_CHANGE (R93): the raw level of input `t` becomes high or low. -/
  | tripInputChange (t : Trip) (high : Bool)
  /-- REPORT_TIMER (R102): the report timer expires. -/
  | reportTimer
  /-- DEMAND_TIMEOUT (R84): the demand timeout passes. -/
  | demandTimeout
  /-- REPLY_OF_WRONG_KIND (R134): a good frame of the wrong kind or length completes on segment `g`. -/
  | replyOfWrongKind (g : Seg) (f : FieldFrame)
  /-- OWN_ADDRESS_FRAME (R145): a frame of the controller's own address, not its own, completes on segment `g`. -/
  | ownAddressFrame (g : Seg) (f : FieldFrame)
  deriving DecidableEq, Repr

end Sys2Proof
end

