-- ==== Sys2Proof/Decode.lean ====
section
/-! DEFINITION. No row of spec/opcode_table.json gives bits: a command reaches the WL96 as a frame, a pin or a timer, not as an
instruction word. So no word spells a command. The frames themselves are read in Machine/Formats.lean and Machine/Operands.lean. -/

namespace Sys2Proof

/-- The command a table word spells: none. -/
def decodeTableWord (_nbits _w : Nat) : Option Instr := none

end Sys2Proof
end

