-- ==== Sys2Proof/Config.lean ====
section
/-! DEFINITION. The figures the manual fixes for every WL96. The manual leaves no result of a command open, so there is
no free value here; the conventions the model fixes are in notes/assumptions. -/

namespace Sys2Proof.Config

/-- A Command Queue holds 0 to 16 entries (R152). -/
def queueCap : Nat := 16

/-- The receive buffer holds 0 to 8 frames (R190). -/
def bufferCap : Nat := 8

/-- The urgent uplink queue holds 0 to 16 frames (R203). -/
def urgentCap : Nat := 16

/-- The routine uplink queue holds 0 to 64 frames (R203). -/
def routineCap : Nat := 64

/-- Segment, queue and link counters are 16-bit and saturating (R150, R152, R207, R33). -/
def counterCap : Nat := 65535

/-- The miss count, the excursion counts and the line verification counts are 0 to 15 (R7, R10, R81). -/
def countCap : Nat := 15

/-- A recurrence count is 0 to 255 (R108). -/
def recurrenceCap : Nat := 255

/-- The presence timer of a duty segment, in ms (R142). -/
def presenceMs : Nat := 500

/-- The offset of the silence time in force at address 251, in ms (R177). -/
def silenceOffsetMs : Nat := 1000

/-- The controller addresses (00_scope.md, Field Addresses; R174). -/
def lowAddress : Nat := 250

/-- See `lowAddress`. -/
def highAddress : Nat := 251

/-- The broadcast destination of PRESENCE (R211). -/
def broadcast : Nat := 255

/-- Source numbers of the engine line, the flare line and the site (00_scope.md, Site Source Numbers). -/
def engineSource : Nat := 96

/-- See `engineSource`. -/
def flareSource : Nat := 97

/-- See `engineSource`. -/
def siteSource : Nat := 98

/-- The greatest payload of a plant downlink frame (R189) and of a field frame (R129). -/
def maxPlantPayload : Nat := 240

/-- See `maxPlantPayload`. -/
def maxFieldPayload : Nat := 24

/-- A READ of PENDING SET returns up to eight records (R199). -/
def readPendingCap : Nat := 8

end Sys2Proof.Config
end

