-- ==== Sys2Proof/Machine/State.lean ====
section
/-! DEFINITION. The state of the WL96 as plain data, block by block in the order of the manual's block diagram, the
reasons a step could stop, and the state right after power-on reset. -/

namespace Sys2Proof.Machine

/-- One value for each segment. -/
structure PerSeg (α : Type) where
  a : α
  b : α
  c : α
  d : α
  deriving DecidableEq, Repr

/-- One value for each line. -/
structure PerLine (α : Type) where
  engine : α
  flare : α
  deriving DecidableEq, Repr

/-- One value for each trip input. -/
structure PerTrip (α : Type) where
  trip0 : α
  trip1 : α
  trip2 : α
  trip3 : α
  flareFault : α
  deriving DecidableEq, Repr

/-! ## Names -/

/-- The role (R175). -/
inductive Role where
  | duty | standby
  deriving DecidableEq, Repr

/-- The mode (R200). -/
inductive Mode where
  | hold | run
  deriving DecidableEq, Repr

/-- The classes of a SET (R152). -/
inductive Cls where
  | protective | forced | balance | trim
  deriving DecidableEq, Repr

/-- The eight well states (R13). -/
inductive WellState where
  | vacant | parked | listed | silent | shut | manual | held | tracking
  deriving DecidableEq, Repr

/-- The permitted outlets of a well (R3). -/
inductive Permit where
  | engine | flare | both
  deriving DecidableEq, Repr

/-- The wellhead fault codes (R6). -/
inductive WellFault where
  | actuator | analyzer | pressureSensor | supplyLow
  deriving DecidableEq, Repr

/-- The four well kinds an excursion is counted for (R10). -/
inductive ExcKind where
  | hot | oxygen | vacuum | actuator
  deriving DecidableEq, Repr

/-- The six hold reasons (R9). -/
inductive Reason where
  | hot | oxygen | vacuum | actuator | silent | noOutlet
  deriving DecidableEq, Repr

/-- The eleven kinds of condition, in kind order (R104). -/
inductive CondKind where
  | hotGas | oxygenHigh | actuatorFault | vacuumLost | wellSilent | engineLineLost | noOutlet | lineOxygenHigh
  | engineBlendLow | flareBlendLow | roleConflict
  deriving DecidableEq, Repr

/-- How a move or a balancing move ends (R91, R172). -/
inductive Ending where
  | settled | short | timedOut | superseded | abandoned | notMade
  deriving DecidableEq, Repr

/-- The status of a line (R80). -/
inductive LineStatus where
  | normal | low | oxygen | noFlow | lost | fault
  deriving DecidableEq, Repr

/-- The actions of the balancing pass (R91). -/
inductive BalAction where
  | o2Excess | blendLow | promotion | throttle
  deriving DecidableEq, Repr

/-- The phases of a balancing move (R91). -/
inductive BalPhase where
  | queued | moving
  deriving DecidableEq, Repr

/-- The bit rates of a segment (R128). -/
inductive BitRate where
  | b9600 | b19200 | b38400
  deriving DecidableEq, Repr

/-- The verification intervals of a trip input (R76). -/
inductive TripInterval where
  | off | ms250 | ms500 | s1 | s2 | s4 | s8 | s16
  deriving DecidableEq, Repr

/-- The trim outcomes of a REPORT (R51, R58, R67). -/
inductive TrimOutcome where
  | applied | stepClamped | rangeClamped | deadband | noChange | holdMode | notTracking | noGas | moving | standby
  deriving DecidableEq, Repr

/-- The outcome of a RESPONSE: ACCEPTED, REPLY or a refusal code (R192, 10_frame_and_record_formats.md 10.7). -/
inductive RespOutcome where
  | accepted | reply | range | duplicate | inUse | collision | closed | shut | notPermitted | notDuty | noSlot
  | nothing | notCurrent | notPending | stillActive | protectedGroup | malformed
  deriving DecidableEq, Repr

/-- The causes of a ROLE notice (R187). -/
inductive RoleCause where
  | takeover | arbitration | yielded
  deriving DecidableEq, Repr

/-! ## The Well Table -/

/-- The configuration fields of a loaded slot (R3). -/
structure WellCfg where
  address : Nat
  seg : Seg
  inService : Bool
  permitted : Permit
  pmin : Nat
  pmax : Nat
  /-- Step limit s. -/
  step : Nat
  /-- Gain g, in sixteenths. -/
  gain : Nat
  /-- CH4 target t. -/
  ch4Target : Nat
  /-- Deadband db. -/
  deadband : Nat
  /-- O2 soft ceiling os. -/
  o2Soft : Nat
  /-- Balance ceiling bn. -/
  balanceCeiling : Nat
  /-- Assumed flow a. -/
  assumedFlow : Nat
  deriving DecidableEq, Repr

/-- The gas block with its derived balance (R6, R35). -/
structure GasBlock where
  ch4 : Nat
  co2 : Nat
  o2 : Nat
  balance : Nat
  deriving DecidableEq, Repr

/-- The last sample of a well together with its sample time, which is present exactly when it is (R6). -/
structure Sample where
  gas : Option GasBlock
  pressure : Int
  temperature : Option Int
  flow : Nat
  flowMeasured : Bool
  position : Nat
  moving : Bool
  faults : List WellFault
  time : Nat
  deriving DecidableEq, Repr

/-- The set of hold reasons a well holds (R9). -/
structure Holds where
  hot : Bool
  oxygen : Bool
  vacuum : Bool
  actuator : Bool
  silent : Bool
  noOutlet : Bool
  deriving DecidableEq, Repr

/-- One value for each of the four excursion kinds (R10, R41). -/
structure PerExc (α : Type) where
  hot : α
  oxygen : α
  vacuum : α
  actuator : α
  deriving DecidableEq, Repr

/-- The move record (R11). -/
structure MoveRec where
  target : Nat
  outlet : Line
  cls : Cls
  travel : Nat
  start : Nat
  deriving DecidableEq, Repr

/-- The pending protective field (R12). -/
structure PendingProt where
  target : Nat
  outlet : Line
  deriving DecidableEq, Repr

/-- The record of a loaded slot: configuration and working fields (R3 to R12). The queued flag (R12) has its one home in
the segment queue: it is yes exactly while the queue holds an entry for the slot (R153), see `State.queued`. -/
structure Well where
  cfg : WellCfg
  outlet : Line
  target : Option Nat
  last : Option Sample
  answering : Bool
  missCount : Nat
  forced : Bool
  holds : Holds
  excursions : PerExc Nat
  move : Option MoveRec
  pendingProt : Option PendingProt
  deriving DecidableEq, Repr

/-! ## Segment Controllers and Command Queues -/

/-- The seven settings of a segment (R130). Bit n of the pattern is entry n, 1 for P and 0 for C (R215). -/
structure SegSettings where
  pattern : BitVec 8
  rate : BitRate
  replyTimeout : Nat
  missLimit : Nat
  budget : Nat
  moveTimeout : Nat
  settleTolerance : Nat
  deriving DecidableEq, Repr

/-- The kinds of transaction (06_field_loop_segments.md 6.3). -/
inductive TxnKind where
  | poll | set | presence
  deriving DecidableEq, Repr

/-- What the beginning of a transaction changed, kept so that a loss of arbitration leaves it "not begun" (R181). -/
structure Undo where
  /-- The pattern pointer before it advanced; absent when nothing is to be put back. -/
  pointer : Option (Fin 8)
  position : Option Slot
  round : Fin 8
  /-- The transaction counter rose and has not been cleared since. -/
  counted : Bool
  deriving DecidableEq, Repr

/-- The transaction in flight on a segment (R132, R133). -/
structure Txn where
  kind : TxnKind
  /-- The slot for which the transaction was begun (R134); absent for PRESENCE. -/
  slot : Option Slot
  dest : Nat
  began : Nat
  /-- The reply timeout the transaction began with (R131). -/
  timeout : Nat
  /-- The time base reading at which the reply window opened; absent while the frame is being transmitted. -/
  window : Option Nat
  undo : Undo
  deriving DecidableEq, Repr

/-- The overheard transaction of a standby segment (R146). -/
structure Overheard where
  kind : TxnKind
  dest : Nat
  src : Nat
  /-- Target, outlet and class carried by an overheard SET; an outlet or class byte that names none is absent. -/
  target : Nat
  outlet : Option Line
  cls : Option Cls
  /-- The time base reading at the end of the overheard frame, and the reply timeout loaded then (R131). -/
  ended : Nat
  timeout : Nat
  deriving DecidableEq, Repr

/-- An entry of a Command Queue (R152). -/
structure Entry where
  slot : Slot
  target : Nat
  outlet : Line
  cls : Cls
  sent : Bool
  deriving DecidableEq, Repr

/-- The sent copy of a Command Queue (R152). -/
structure SentCopy where
  slot : Slot
  target : Nat
  outlet : Line
  cls : Cls
  travel : Nat
  deriving DecidableEq, Repr

/-- The counters of a segment: five of the Segment Controller (R150), Sample Intake's rejected-sample counter (R33) and
three of the Command Queue (R152). -/
structure SegCounters where
  transactions : Nat
  misses : Nat
  checkErrors : Nat
  foreignReplies : Nat
  arbitrationLosses : Nat
  drops : Nat
  evictions : Nat
  echoFailures : Nat
  rejected : Nat
  deriving DecidableEq, Repr

/-- A Segment Controller with the Command Queue beside it (R130, R140 to R152). -/
structure Segment where
  settings : SegSettings
  /-- The bit rate the line works at: a LOAD SEGMENT during a transaction takes effect at the next transmission (R131). -/
  rateInForce : BitRate
  pointer : Fin 8
  position : Option Slot
  round : Fin 8
  txn : Option Txn
  /-- The frame on the transmit output; the output rests recessive when there is none (R128, R151). -/
  sending : Option FieldFrame
  overheard : Option Overheard
  /-- The time base reading at which the presence timer last started; absent while it does not run (R142). -/
  presenceTimer : Option Nat
  presenceDue : Bool
  queue : List Entry
  outstanding : Nat
  budgetInForce : Nat
  sentCopy : Option SentCopy
  counters : SegCounters
  deriving DecidableEq, Repr

/-! ## Settings -/

/-- The site settings (R196). -/
structure SiteSettings where
  maxSampleAge : Nat
  verify : PerExc Nat
  hysteresis : Nat
  balanceInterval : Nat
  demandTimeout : Nat
  reportInterval : Nat
  verifyLineOxygen : Nat
  verifyEngineLow : Nat
  verifyFlareLow : Nat
  intervals : PerTrip TripInterval
  silence : Nat
  deriving DecidableEq, Repr

/-- The protected limit group (R194). In `mask` the field `flareFault` is always false: the mask selects among TRIP0 to
TRIP3 (R94). In `activeLow` true stands for active low. -/
structure Limits where
  hotGas : Int
  oxygenHard : Nat
  vacuumLoss : Int
  engineMin : Nat
  engineO2Max : Nat
  flareMin : Nat
  mask : PerTrip Bool
  activeLow : PerTrip Bool
  deriving DecidableEq, Repr

/-! ## The Line Balancer -/

/-- The verification filter of a trip input with the raw level of its pin (R92, R93). -/
structure TripFilter where
  rawHigh : Bool
  accepted : Bool
  candidate : Option Bool
  /-- The time base reading of the timer's last expiry, or of its start. -/
  timer : Nat
  /-- The first expiry after a reset takes the sampled state at once (R93). -/
  awaitingFirst : Bool
  deriving DecidableEq, Repr

/-- The blend record of a line (R79, R80); `evaluated` is the time of the last evaluation since the reset. -/
structure LineRecord where
  status : LineStatus
  contributors : Nat
  sf : Nat
  sm : Nat
  so : Nat
  ch4 : Option Nat
  o2 : Option Nat
  evaluated : Option Nat
  deriving DecidableEq, Repr

/-- The verification counts of the three line kinds (R81). -/
structure LineCounts where
  lineOxygen : Nat
  engineLow : Nat
  flareLow : Nat
  deriving DecidableEq, Repr

/-- The balancing move (R91). -/
structure BalMove where
  slot : Slot
  action : BalAction
  target : Nat
  outlet : Line
  phase : BalPhase
  deriving DecidableEq, Repr

/-- The Line Balancer's own items (04_line_blending_and_rerouting.md, opening list). -/
structure Balancer where
  counts : LineCounts
  /-- The demand held: flow and engines running (R83). -/
  demand : Option (Nat × Nat)
  /-- The arrival time of the last DEMAND accepted since the reset (R84). -/
  demandArrival : Option Nat
  move : Option BalMove
  /-- The result and time of the last balancing end (R91). -/
  lastEnd : Option (Ending × Nat)
  /-- The time base reading at the last power-on reset or RESTART, from which the balance interval first runs (R85). -/
  resetTime : Nat
  /-- The time base reading of the report timer's last expiry, or of its start (R77). -/
  reportTimer : Nat
  lineLost : Bool
  flareFault : Bool
  deriving DecidableEq, Repr

/-! ## The Condition Controller -/

/-- A condition record (R106). -/
structure CondRec where
  kind : CondKind
  source : Nat
  level : Nat
  raised : Nat
  taken : Option Nat
  recurrence : Nat
  measured : Option Int
  limit : Option Int
  attached : Bool
  deriving DecidableEq, Repr

/-- The level and mask of a kind (R105). -/
structure KindSetting where
  level : Nat
  masked : Bool
  deriving DecidableEq, Repr

/-- The Condition Controller: settings in kind order, the pending set kept in taking order (R110), and the in-service
stack, its top first (R112). -/
structure Conditions where
  kinds : Vector KindSetting 11
  waiting : List CondRec
  stack : List CondRec
  deriving DecidableEq, Repr

/-! ## The Role Unit -/

/-- The Role Unit (R174 to R177). -/
structure RoleUnit where
  role : Role
  /-- The ADDR strap as read at the last release of RESET: high gives address 251 (R174). -/
  strapHigh : Bool
  /-- The time base reading at which the silence timer last started or restarted; absent while it is stopped (R176). -/
  silenceStart : Option Nat
  /-- Time and segment of the last complete frame of the other controller since the reset (R174). -/
  lastOther : Option (Nat × Seg)
  deriving DecidableEq, Repr

/-! ## Uplink frames (R51, R102, R125, R187, R192, R197) -/

/-- The clamp markers of a REPORT (R34). -/
structure ClampMarks where
  position : Bool
  flow : Bool
  pressure : Bool
  temperature : Bool
  deriving DecidableEq, Repr

/-- A REPORT (R51). -/
structure Report where
  slot : Slot
  address : Nat
  seg : Seg
  role : Role
  sample : Sample
  marks : ClampMarks
  state : WellState
  holds : Holds
  forced : Bool
  target : Option Nat
  outlet : Line
  missCount : Nat
  excursions : PerExc Bool
  raised : PerExc Bool
  moveEnd : Option Ending
  command : Option Cls
  trimOutcome : TrimOutcome
  step : Int
  deriving DecidableEq, Repr

/-- The block of a LINE summary about one line (R102). -/
structure LineBlock where
  status : LineStatus
  contributors : Nat
  rosterSize : Nat
  sf : Nat
  ch4 : Option Nat
  o2 : Option Nat
  evaluated : Option Nat
  deriving DecidableEq, Repr

/-- A LINE summary (R102). -/
structure LineSummary where
  time : Nat
  role : Role
  mode : Mode
  lines : PerLine LineBlock
  counts : LineCounts
  demand : Option (Nat × Nat)
  demandAge : Option Nat
  lineLost : Bool
  flareFault : Bool
  accepted : PerTrip Bool
  candidates : PerTrip Bool
  combination : Bool
  balancing : Option BalMove
  lastEnd : Option (Ending × Nat)
  deriving DecidableEq, Repr

/-- A CONDITION notice (R125). -/
structure CondNotice where
  kind : CondKind
  source : Nat
  address : Option (Nat × Seg)
  level : Nat
  raised : Nat
  taken : Nat
  recurrence : Nat
  measured : Option Int
  limit : Option Int
  depth : Nat
  waiting : Nat
  deriving DecidableEq, Repr

/-- A ROLE notice (R187). -/
structure RoleNotice where
  time : Nat
  role : Role
  previous : Role
  cause : RoleCause
  own : Nat
  other : Option (Nat × Seg)
  /-- Moves abandoned and protective commands made, for TAKEOVER. -/
  takeover : Option (Nat × Nat)
  /-- Entries removed, for ARBITRATION and YIELD. -/
  removed : Option Nat
  deriving DecidableEq, Repr

/-- The link counters (R207). -/
structure LinkCounters where
  executed : Nat
  checkErrors : Nat
  overruns : Nat
  protectionErrors : Nat
  routineDiscards : Nat
  urgentDiscards : Nat
  deriving DecidableEq, Repr

/-- Where a condition record stands (R126). -/
inductive CondPlace where
  | pending | inService
  deriving DecidableEq, Repr

/-- What a READ of a well record returns beside its slot (R2). -/
structure WellView where
  record : Well
  queued : Bool
  place : Option (Line × Nat)
  deriving DecidableEq, Repr

/-- What a READ of a segment returns (R130, R150, R152). -/
structure SegView where
  settings : SegSettings
  pointer : Fin 8
  position : Option Slot
  round : Fin 8
  txn : Option (TxnKind × Nat × Nat)
  queue : List Entry
  outstanding : Nat
  budgetInForce : Nat
  sentCopy : Option SentCopy
  moves : List (Slot × MoveRec)
  counters : SegCounters
  deriving DecidableEq, Repr

/-- The data of a RESPONSE whose outcome is REPLY (R197). -/
inductive ReadData where
  | well (slot : Slot) (state : WellState) (view : Option WellView)
  | line (l : Line) (record : LineRecord) (roster : List Slot) (counts : List Nat)
  | segment (g : Seg) (view : SegView)
  | levels (kinds : List KindSetting)
  | stack (records : List CondRec)
  | waiting (count : Nat) (records : List (CondRec × Bool))
  | pair (found : Option (CondRec × CondPlace))
  | role (address : Nat) (role : Role) (silenceMs : Nat) (elapsed : Option Nat) (lastOther : Option (Nat × Seg))
  | site (settings : SiteSettings)
  | limits (limits : Limits)
  | link (mode : Mode) (unlocked : Bool) (buffer urgent routine : Nat) (reserved : Bool) (counters : LinkCounters)
  | lineState (demand : Option (Nat × Nat)) (demandAge : Option Nat) (lineLost flareFault : Bool)
      (trips : PerTrip TripFilter) (balancing : Option BalMove) (lastEnd : Option (Ending × Nat))
  deriving DecidableEq, Repr

/-- A RESPONSE (R192). -/
structure Response where
  tag : Byte
  kind : Byte
  outcome : RespOutcome
  time : Nat
  data : Option ReadData
  deriving DecidableEq, Repr

/-- A frame of an uplink queue (R204, R205). -/
inductive Uplink where
  | response (r : Response)
  | report (r : Report)
  | line (l : LineSummary)
  | condition (n : CondNotice)
  | role (n : RoleNotice)
  deriving DecidableEq, Repr

/-- The Plant Link (09_plant_link.md, opening list). The transmitter holds the frame it is sending. -/
structure Link where
  buffer : List PlantFrame
  reserved : Bool
  unlocked : Bool
  mode : Mode
  urgent : List Uplink
  routine : List Uplink
  transmitter : Option Uplink
  counters : LinkCounters
  deriving DecidableEq, Repr

/-! ## The machine -/

/-- The whole state. `pending` is the queue of commands that wait, first in, first out. `evalAsked` and `protMade` are
the model's own wires between the blocks: the line evaluations handed to the Line Balancer and not yet made (R19), false
between commands, and a running count of the PROTECTIVE SETs made, read as a difference within one command (R51, R187). -/
structure State where
  pending : List Instr
  /-- RESET is held active (R208). -/
  held : Bool
  /-- The time base, ms (R38). -/
  timeBase : Nat
  wells : Vector (Option Well) 96
  rosters : PerLine (List Slot)
  segs : PerSeg Segment
  site : SiteSettings
  limits : Limits
  trips : PerTrip TripFilter
  lines : PerLine LineRecord
  balancer : Balancer
  conds : Conditions
  unit : RoleUnit
  link : Link
  evalAsked : PerLine Bool
  protMade : Nat
  deriving DecidableEq, Repr

/-- The reasons a step could stop with a fault. There is none: the manual names no event that stops the WL96, and every
command has an effect in every state (assumption 1). -/
inductive Fault where
  deriving DecidableEq, Repr

/-- The reasons a command could be refused. -/
inductive Refusal where
  /-- Raised by an arm of `exec` whose command has no meaning yet. Safe: the model stops. No arm raises it now. -/
  | notModelled (mnemonic : String)
  deriving DecidableEq, Repr

/-! ## Values after power-on reset -/

/-- The same value on every segment. -/
def PerSeg.all {α : Type} (x : α) : PerSeg α := ⟨x, x, x, x⟩

/-- The same value on both lines. -/
def PerLine.all {α : Type} (x : α) : PerLine α := ⟨x, x⟩

/-- The same value for every trip input. -/
def PerTrip.fill {α : Type} (x : α) : PerTrip α := ⟨x, x, x, x, x⟩

/-- The settings of a segment after power-on reset (R130): the pattern P C P C P C P C has P at even entries. -/
def SegSettings.reset : SegSettings where
  pattern := 0x55#8
  rate := .b19200
  replyTimeout := 200
  missLimit := 3
  budget := 600
  moveTimeout := 120
  settleTolerance := 10

/-- All counters of a segment at 0 (R151, R152, R33). -/
def SegCounters.zero : SegCounters where
  transactions := 0
  misses := 0
  checkErrors := 0
  foreignReplies := 0
  arbitrationLosses := 0
  drops := 0
  evictions := 0
  echoFailures := 0
  rejected := 0

/-- A segment after a reset that leaves it the settings `x` (R151, R152). -/
def Segment.start (x : SegSettings) : Segment where
  settings := x
  rateInForce := x.rate
  pointer := 0
  position := none
  round := 0
  txn := none
  sending := none
  overheard := none
  presenceTimer := none
  presenceDue := false
  queue := []
  outstanding := 0
  budgetInForce := x.budget
  sentCopy := none
  counters := .zero

/-- The site settings after power-on reset (R38, R41, R76, R177). -/
def SiteSettings.reset : SiteSettings where
  maxSampleAge := 600
  verify := ⟨2, 3, 3, 2⟩
  hysteresis := 20
  balanceInterval := 120
  demandTimeout := 30
  reportInterval := 10
  verifyLineOxygen := 4
  verifyEngineLow := 4
  verifyFlareLow := 4
  intervals := .fill .s1
  silence := 3

/-- The limit group after power-on reset (R41, R76): the mask is empty and every input active high. -/
def Limits.reset : Limits where
  hotGas := 60
  oxygenHard := 60
  vacuumLoss := -250
  engineMin := 450
  engineO2Max := 40
  flareMin := 180
  mask := .fill false
  activeLow := .fill false

/-- A trip filter restarted by a reset at time `t` (R93, R103). The raw level is the pin's. -/
def TripFilter.restarted (rawHigh : Bool) (t : Nat) : TripFilter where
  rawHigh := rawHigh
  accepted := false
  candidate := none
  timer := t
  awaitingFirst := true

/-- A line's blend record after either reset (R80, R103). -/
def LineRecord.reset : LineRecord where
  status := .noFlow
  contributors := 0
  sf := 0
  sm := 0
  so := 0
  ch4 := none
  o2 := none
  evaluated := none

/-- The Line Balancer's items after a reset at time `t` (R103). -/
def Balancer.start (t : Nat) : Balancer where
  counts := ⟨0, 0, 0⟩
  demand := none
  demandArrival := none
  move := none
  lastEnd := none
  resetTime := t
  reportTimer := t
  lineLost := false
  flareFault := false

/-- Default levels in kind order, every mask clear (R104, R105). -/
def Conditions.defaultKinds : Vector KindSetting 11 :=
  #v[⟨0, false⟩, ⟨1, false⟩, ⟨3, false⟩, ⟨4, false⟩, ⟨5, false⟩, ⟨0, false⟩, ⟨0, false⟩, ⟨1, false⟩, ⟨2, false⟩,
     ⟨3, false⟩, ⟨6, false⟩]

/-- The Condition Controller after power-on reset (R127). -/
def Conditions.reset : Conditions where
  kinds := Conditions.defaultKinds
  waiting := []
  stack := []

/-- The Role Unit after a reset at time `t` (R188). -/
def RoleUnit.start (strapHigh : Bool) (t : Nat) : RoleUnit where
  role := .standby
  strapHigh := strapHigh
  silenceStart := some t
  lastOther := none

/-- Every link counter at 0 (R208). -/
def LinkCounters.zero : LinkCounters where
  executed := 0
  checkErrors := 0
  overruns := 0
  protectionErrors := 0
  routineDiscards := 0
  urgentDiscards := 0

/-- The Plant Link after power-on reset (R208). -/
def Link.reset : Link where
  buffer := []
  reserved := false
  unlocked := false
  mode := .hold
  urgent := []
  routine := []
  transmitter := none
  counters := .zero

/-- The machine right after power-on reset: RESET has just been released with the ADDR strap low and every trip input
low (DESIGN CHOICE, assumption 2: the levels of the pins come from outside). Time base 0 (R38), every slot VACANT
(R30), role STANDBY (R188), mode HOLD (R208). -/
def State.reset : State where
  pending := []
  held := false
  timeBase := 0
  wells := Vector.replicate 96 none
  rosters := .all []
  segs := .all (Segment.start .reset)
  site := .reset
  limits := .reset
  trips := .fill (TripFilter.restarted false 0)
  lines := .all .reset
  balancer := .start 0
  conds := .reset
  unit := .start false 0
  link := .reset
  evalAsked := .all false
  protMade := 0

end Sys2Proof.Machine
end

