-- ==== Sys2Proof/Machine/Formats.lean ====
section
/-! DEFINITION. Frames as bytes: the check (R210), bit-reversed addresses and field frames (R211 to R213), plant frames
(R214) and the codes of R209. -/

namespace Sys2Proof

open Machine

/-! ## The check (R210) -/

/-- One covered bit: combined with the register's lowest bit, shifted, and combined with 8408h if it was 1 (R210). -/
def crcBit (r : BitVec 16) (bit : Bool) : BitVec 16 :=
  if xor bit (r.getLsbD 0) then (r >>> 1) ^^^ 0x8408#16 else r >>> 1

/-- One covered byte, least significant bit first (R210). -/
def crcByte (r : BitVec 16) (b : Byte) : BitVec 16 :=
  crcBit (crcBit (crcBit (crcBit (crcBit (crcBit (crcBit (crcBit r (b.getLsbD 0)) (b.getLsbD 1)) (b.getLsbD 2))
    (b.getLsbD 3)) (b.getLsbD 4)) (b.getLsbD 5)) (b.getLsbD 6)) (b.getLsbD 7)

/-- The check over the covered bytes, from FFFFh (R210). -/
def crc (bytes : List Byte) : BitVec 16 := bytes.foldl crcByte 0xFFFF#16

/-! ## Numbers and codes (R209) -/

/-- The low `n` bytes of a number, least significant first (R209). -/
def leBytes : Nat → Nat → List Byte
  | 0, _ => []
  | n + 1, x => BitVec.ofNat 8 x :: leBytes n (x / 256)

/-- A signed quantity in two's complement, `n` bytes, least significant first (R209). -/
def leSigned (n : Nat) (x : Int) : List Byte := leBytes n (x % (256 ^ n : Nat)).toNat

/-- The byte at offset `i` of a payload, as a number. -/
def byteAt (p : List Byte) (i : Nat) : Nat := (p.getD i 0).toNat

/-- The two-byte quantity at offset `i`, least significant byte first (R209). -/
def wordAt (p : List Byte) (i : Nat) : Nat := byteAt p i + 256 * byteAt p (i + 1)

/-- A two's complement byte as a signed quantity (R209). -/
def signed8 (x : Nat) : Int := if x < 128 then x else (x : Int) - 256

/-- A two's complement pair of bytes as a signed quantity (R209). -/
def signed16 (x : Nat) : Int := if x < 32768 then x else (x : Int) - 65536

/-- Segment codes (R209). -/
def segOfCode : Nat → Option Seg
  | 1 => some .a
  | 2 => some .b
  | 3 => some .c
  | 4 => some .d
  | _ => none

/-- Segment codes (R209). -/
def segCode : Seg → Nat
  | .a => 1
  | .b => 2
  | .c => 3
  | .d => 4

/-- Outlet codes (R209). -/
def lineOfCode : Nat → Option Line
  | 1 => some .engine
  | 2 => some .flare
  | _ => none

/-- Outlet codes (R209). -/
def lineCode : Line → Nat
  | .engine => 1
  | .flare => 2

/-- Permitted outlets (R209). -/
def permitOfCode : Nat → Option Permit
  | 1 => some .engine
  | 2 => some .flare
  | 3 => some .both
  | _ => none

/-- Class codes (R209). -/
def clsCode : Cls → Nat
  | .protective => 1
  | .forced => 2
  | .balance => 3
  | .trim => 4

/-- Class codes (R209). -/
def clsOfCode : Nat → Option Cls
  | 1 => some .protective
  | 2 => some .forced
  | 3 => some .balance
  | 4 => some .trim
  | _ => none

/-- Fault codes (R209). -/
def faultOfCode : Nat → Option WellFault
  | 1 => some .actuator
  | 2 => some .analyzer
  | 3 => some .pressureSensor
  | 4 => some .supplyLow
  | _ => none

/-- The kinds in kind order, numbered from 0 (R104). -/
def Machine.CondKind.idx : CondKind → Fin 11
  | .hotGas => 0
  | .oxygenHigh => 1
  | .actuatorFault => 2
  | .vacuumLost => 3
  | .wellSilent => 4
  | .engineLineLost => 5
  | .noOutlet => 6
  | .lineOxygenHigh => 7
  | .engineBlendLow => 8
  | .flareBlendLow => 9
  | .roleConflict => 10

/-- Condition kind codes 1 to 11, in kind order (R209). -/
def condKindOfCode : Nat → Option CondKind
  | 1 => some .hotGas
  | 2 => some .oxygenHigh
  | 3 => some .actuatorFault
  | 4 => some .vacuumLost
  | 5 => some .wellSilent
  | 6 => some .engineLineLost
  | 7 => some .noOutlet
  | 8 => some .lineOxygenHigh
  | 9 => some .engineBlendLow
  | 10 => some .flareBlendLow
  | 11 => some .roleConflict
  | _ => none

/-- Verification interval codes (R215). -/
def intervalOfCode : Nat → Option TripInterval
  | 0 => some .off
  | 1 => some .ms250
  | 2 => some .ms500
  | 3 => some .s1
  | 4 => some .s2
  | 5 => some .s4
  | 6 => some .s8
  | 7 => some .s16
  | _ => none

/-- Bit rate codes (R215). -/
def rateOfCode : Nat → Option BitRate
  | 1 => some .b9600
  | 2 => some .b19200
  | 3 => some .b38400
  | _ => none

/-! ## Field frames (R211 to R213) -/

/-- The bits of a byte in reverse order (R211). -/
def reverseByte (b : Byte) : Byte :=
  BitVec.ofBoolListBE [b.getLsbD 0, b.getLsbD 1, b.getLsbD 2, b.getLsbD 3, b.getLsbD 4, b.getLsbD 5, b.getLsbD 6,
    b.getLsbD 7]

/-- The address a byte on the line stands for (R212). -/
def addressOf (b : Byte) : Nat := (reverseByte b).toNat

/-- The byte on the line of an address (R211). -/
def addressByte (n : Nat) : Byte := reverseByte (BitVec.ofNat 8 n)

/-- The bytes a field frame's check covers: all after the delimiter up to the last payload byte (R210). -/
def FieldFrame.covered (f : FieldFrame) : List Byte :=
  f.src :: f.dst :: f.kind :: BitVec.ofNat 8 f.payload.length :: f.payload

/-- The check received equals the check computed (R210). -/
def FieldFrame.checkGood (f : FieldFrame) : Bool := crc f.covered == f.check

/-- The source address of a frame (R212). -/
def FieldFrame.source (f : FieldFrame) : Nat := addressOf f.src

/-- The destination address of a frame (R212). -/
def FieldFrame.destination (f : FieldFrame) : Nat := addressOf f.dst

/-- A frame the controller sends carries the check computed over it (R210). -/
def FieldFrame.make (src dst kind : Nat) (payload : List Byte) : FieldFrame :=
  let f : FieldFrame := ⟨addressByte src, addressByte dst, BitVec.ofNat 8 kind, payload, 0#16⟩
  { f with check := crc f.covered }

/-- All characters of a field frame as they travel, the delimiter 5Ah first (R211). -/
def FieldFrame.characters (f : FieldFrame) : List Byte := 0x5A#8 :: f.covered ++ leBytes 2 f.check.toNat

/-- A POLL frame (R132, R213). -/
def FieldFrame.poll (own dest : Nat) : FieldFrame := .make own dest 1 []

/-- A SET frame (R132, R213). -/
def FieldFrame.set (own dest : Nat) (target : Nat) (outlet : Line) (cls : Cls) : FieldFrame :=
  .make own dest 3 (leBytes 2 target ++ leBytes 1 (lineCode outlet) ++ leBytes 1 (clsCode cls))

/-- A PRESENCE frame carries the role DUTY (R132, R213). -/
def FieldFrame.presence (own : Nat) : FieldFrame := .make own Config.broadcast 5 (leBytes 1 1)

/-- The frame is a SAMPLE of an allowed length (R213). -/
def FieldFrame.isSample (f : FieldFrame) : Bool :=
  f.kind == 2#8 && decide (14 ≤ f.payload.length) && decide (f.payload.length ≤ Config.maxFieldPayload)

/-- The frame is an ECHO of the allowed length (R213). -/
def FieldFrame.isEcho (f : FieldFrame) : Bool := f.kind == 4#8 && f.payload.length == 3

/-- The frame is a POLL of the allowed length (R213). -/
def FieldFrame.isPoll (f : FieldFrame) : Bool := f.kind == 1#8 && f.payload.length == 0

/-- The frame is a SET of the allowed length (R213). -/
def FieldFrame.isSet (f : FieldFrame) : Bool := f.kind == 3#8 && f.payload.length == 4

/-- The target and outlet an ECHO carries; an outlet byte other than 1 or 2 names none (R212, R213). -/
def FieldFrame.echoTarget (f : FieldFrame) : Nat := wordAt f.payload 0

/-- See `echoTarget`. -/
def FieldFrame.echoOutlet (f : FieldFrame) : Option Line := lineOfCode (byteAt f.payload 2)

/-- A SAMPLE as received, before any clamp (R32). -/
structure RawSample where
  gas : Option (Nat × Nat × Nat)
  pressure : Int
  temperature : Option Int
  flow : Option Nat
  position : Nat
  moving : Bool
  faultBytes : List Nat
  deriving DecidableEq, Repr

/-- The SAMPLE payload of R213. Flag bits 4 to 7 are not read (R212). -/
def RawSample.parse (p : List Byte) : RawSample :=
  let flags := p.getD 0 0
  { gas := if flags.getLsbD 0 then some (wordAt p 1, wordAt p 3, wordAt p 5) else none
    pressure := signed16 (wordAt p 7)
    temperature := if flags.getLsbD 1 then some (signed8 (byteAt p 9)) else none
    flow := if flags.getLsbD 2 then some (wordAt p 10) else none
    position := wordAt p 12
    moving := flags.getLsbD 3
    faultBytes := (p.drop 14).map (·.toNat) }

/-! ## Plant frames (R214, R215) -/

/-- The bytes a plant frame's check covers: length, kind, tag and payload (R210). -/
def PlantFrame.covered (f : PlantFrame) : List Byte := leBytes 2 f.payload.length ++ f.kind :: f.tag :: f.payload

/-- The check received equals the check computed (R210). -/
def PlantFrame.checkGood (f : PlantFrame) : Bool := crc f.covered == f.check

/-- A plant frame with the check computed over it, as the plant computer sends one (R214). -/
def PlantFrame.make (kind tag : Nat) (payload : List Byte) : PlantFrame :=
  let f : PlantFrame := ⟨BitVec.ofNat 8 kind, BitVec.ofNat 8 tag, payload, 0#16⟩
  { f with check := crc f.covered }

/-- The payload lengths each command kind carries (R215). -/
def commandLengths : Nat → List Nat
  | 1 => [20, 1]
  | 2 => [11]
  | 3 => [22]
  | 4 => [1]
  | 5 => [12]
  | 6 => [3]
  | 7 => [4]
  | 8 => [3]
  | 9 => [1]
  | 10 => [4]
  | 11 => [1]
  | 12 => [2]
  | 13 => [2]
  | 14 => [1]
  | 15 => [0]
  | _ => []

/-- The frame has the shape of a command: one of the fifteen kinds, with a payload length the kind carries (R192). -/
def PlantFrame.wellShaped (f : PlantFrame) : Bool := (commandLengths f.kind.toNat).contains f.payload.length

/-- The frame is a well-shaped command of kind `k` (R215). -/
def PlantFrame.isKind (f : PlantFrame) (k : Nat) : Bool := f.wellShaped && f.kind.toNat == k

end Sys2Proof
end

