-- ==== Sys2Proof/Machine/Flags.lean ====
section
/-! DEFINITION. Accessors, and everything the manual derives instead of storing: well states (R13), roster order (R18),
open outlets, the line-lost combination (R94), line status (R80), sample ages (R38), addresses and silence times. -/

namespace Sys2Proof.Machine

/-! ## Families of values -/

/-- The value of segment `g`. -/
def PerSeg.get {α : Type} (p : PerSeg α) : Seg → α
  | .a => p.a
  | .b => p.b
  | .c => p.c
  | .d => p.d

/-- The family with segment `g`'s value replaced. -/
def PerSeg.put {α : Type} (p : PerSeg α) (g : Seg) (x : α) : PerSeg α :=
  match g with
  | .a => { p with a := x }
  | .b => { p with b := x }
  | .c => { p with c := x }
  | .d => { p with d := x }

/-- Every value changed by `f`. -/
def PerSeg.map {α β : Type} (f : α → β) (p : PerSeg α) : PerSeg β := ⟨f p.a, f p.b, f p.c, f p.d⟩

/-- The value of line `l`. -/
def PerLine.get {α : Type} (p : PerLine α) : Line → α
  | .engine => p.engine
  | .flare => p.flare

/-- The family with line `l`'s value replaced. -/
def PerLine.put {α : Type} (p : PerLine α) (l : Line) (x : α) : PerLine α :=
  match l with
  | .engine => { p with engine := x }
  | .flare => { p with flare := x }

/-- The value of input `t`. -/
def PerTrip.get {α : Type} (p : PerTrip α) : Trip → α
  | .trip0 => p.trip0
  | .trip1 => p.trip1
  | .trip2 => p.trip2
  | .trip3 => p.trip3
  | .flareFault => p.flareFault

/-- The family with input `t`'s value replaced. -/
def PerTrip.put {α : Type} (p : PerTrip α) (t : Trip) (x : α) : PerTrip α :=
  match t with
  | .trip0 => { p with trip0 := x }
  | .trip1 => { p with trip1 := x }
  | .trip2 => { p with trip2 := x }
  | .trip3 => { p with trip3 := x }
  | .flareFault => { p with flareFault := x }

/-- The family given by a function of the input. -/
def PerTrip.ofFn {α : Type} (f : Trip → α) : PerTrip α :=
  ⟨f .trip0, f .trip1, f .trip2, f .trip3, f .flareFault⟩

/-- The value of excursion kind `k`. -/
def PerExc.get {α : Type} (p : PerExc α) : ExcKind → α
  | .hot => p.hot
  | .oxygen => p.oxygen
  | .vacuum => p.vacuum
  | .actuator => p.actuator

/-- The family with kind `k`'s value replaced. -/
def PerExc.put {α : Type} (p : PerExc α) (k : ExcKind) (x : α) : PerExc α :=
  match k with
  | .hot => { p with hot := x }
  | .oxygen => { p with oxygen := x }
  | .vacuum => { p with vacuum := x }
  | .actuator => { p with actuator := x }

/-- Whether a reason is held (R9). -/
def Holds.get (h : Holds) : Reason → Bool
  | .hot => h.hot
  | .oxygen => h.oxygen
  | .vacuum => h.vacuum
  | .actuator => h.actuator
  | .silent => h.silent
  | .noOutlet => h.noOutlet

/-- The set with a reason added or removed; adding one already held changes nothing (R9). -/
def Holds.put (h : Holds) (r : Reason) (x : Bool) : Holds :=
  match r with
  | .hot => { h with hot := x }
  | .oxygen => { h with oxygen := x }
  | .vacuum => { h with vacuum := x }
  | .actuator => { h with actuator := x }
  | .silent => { h with silent := x }
  | .noOutlet => { h with noOutlet := x }

/-- No reason held. -/
def Holds.empty : Holds := ⟨false, false, false, false, false, false⟩

/-- All slots, ascending. -/
def allSlots : List Slot := List.finRange 96

/-! ## Wells -/

/-- The permitted outlets contain line `l` (R3). -/
def Permit.allows (p : Permit) (l : Line) : Bool :=
  match p, l with
  | .both, _ => true
  | .engine, .engine => true
  | .flare, .flare => true
  | _, _ => false

/-- The derivation of R13: the first line of its table whose condition holds. -/
def wellState : Option Well → WellState
  | none => .vacant
  | some w =>
    if !w.cfg.inService then .parked
    else if w.last.isNone then .listed
    else if !w.answering then .silent
    else if w.holds.hot || w.holds.noOutlet then .shut
    else if w.forced then .manual
    else if w.holds.oxygen || w.holds.vacuum || w.holds.actuator || w.holds.silent then .held
    else .tracking

/-- The states that stand on a roster (R17). -/
def WellState.onRoster : WellState → Bool
  | .tracking | .held | .shut | .manual => true
  | .vacant | .parked | .listed | .silent => false

/-- The working states of LOAD WELL (01_the_well_table.md 1.4). -/
def WellState.working : WellState → Bool
  | .listed | .silent | .shut | .manual | .held | .tracking => true
  | .vacant | .parked => false

/-- The roster a slot with this record stands on (R17). -/
def rosterLine (o : Option Well) : Option Line :=
  match o with
  | none => none
  | some w => if (wellState (some w)).onRoster then some w.outlet else none

/-- The gas block of a record's last sample. -/
def gasOf (o : Option Well) : Option GasBlock := o.bind fun w => w.last.bind (·.gas)

/-- Slot `i` with gas block `x` stands before slot `j` with gas block `y`, counted from the lean end (R18). -/
def leanBefore (x : Option GasBlock) (i : Slot) (y : Option GasBlock) (j : Slot) : Bool :=
  match x, y with
  | some p, some q =>
    if p.ch4 = q.ch4 then (if p.o2 = q.o2 then decide (i < j) else decide (q.o2 < p.o2)) else decide (p.ch4 < q.ch4)
  | some _, none => true
  | none, some _ => false
  | none, none => decide (i < j)

/-- The travel of an entry with target `t` for the well (R160). -/
def travelOf (w : Well) (t : Nat) : Nat :=
  match w.target, w.last with
  | some x, _ => dist t x
  | none, some q => dist t q.position
  | none, none => if t ≤ 1000 - t then 1000 - t else t

/-! ## Readings of the state -/

/-- The record of slot `i`. -/
def State.well (s : State) (i : Slot) : Option Well := s.wells[i.val]

/-- Segment `g`. -/
def State.seg (s : State) (g : Seg) : Segment := s.segs.get g

/-- The own address: 250 for a strap read low, 251 for high (R174). -/
def State.ownAddress (s : State) : Nat := if s.unit.strapHigh then Config.highAddress else Config.lowAddress

/-- The other controller address (R174). -/
def State.otherAddress (s : State) : Nat := if s.unit.strapHigh then Config.lowAddress else Config.highAddress

/-- The silence time in force, ms (R177). -/
def silenceMs (strapHigh : Bool) (seconds : Nat) : Nat :=
  seconds * 1000 + if strapHigh then Config.silenceOffsetMs else 0

/-- The silence time in force (R177). -/
def State.silenceInForce (s : State) : Nat := silenceMs s.unit.strapHigh s.site.silence

/-- The role is DUTY. -/
def State.isDuty (s : State) : Bool := decide (s.unit.role = .duty)

/-- A line is an open outlet: ENGINE unless line-lost status is set, FLARE unless flare fault status is set
(00_scope.md, Open Outlet; R28). -/
def State.isOpen (s : State) : Line → Bool
  | .engine => !s.balancer.lineLost
  | .flare => !s.balancer.flareFault

/-- A sample taken at time `t` is fresh (R38). -/
def State.fresh (s : State) (t : Nat) : Bool := decide (s.timeBase - t ≤ s.site.maxSampleAge * 1000)

/-- The line-lost combination for a mask and the accepted states (R94). -/
def combinationOf (mask : PerTrip Bool) (trips : PerTrip TripFilter) : Bool :=
  (mask.trip0 || mask.trip1 || mask.trip2 || mask.trip3) &&
  (!mask.trip0 || trips.trip0.accepted) && (!mask.trip1 || trips.trip1.accepted) &&
  (!mask.trip2 || trips.trip2.accepted) && (!mask.trip3 || trips.trip3.accepted)

/-- The line-lost combination is satisfied (R94). -/
def State.combination (s : State) : Bool := combinationOf s.limits.mask s.trips

/-- A raw level read through a polarity: ACTIVE is true (R92). -/
def readLevel (activeLow rawHigh : Bool) : Bool := xor rawHigh activeLow

/-- The verification interval in ms; off has none (R76). -/
def TripInterval.ms : TripInterval → Option Nat
  | .off => none
  | .ms250 => some 250
  | .ms500 => some 500
  | .s1 => some 1000
  | .s2 => some 2000
  | .s4 => some 4000
  | .s8 => some 8000
  | .s16 => some 16000

/-- The demand held at this moment: absent once the demand timeout has passed since its arrival (R84). -/
def State.demandNow (s : State) : Option (Nat × Nat) :=
  match s.balancer.demand, s.balancer.demandArrival with
  | some d, some t => if s.timeBase - t < s.site.demandTimeout * 1000 then some d else none
  | _, _ => none

/-- The demand's age, where a DEMAND has been accepted since the last reset (R84). -/
def State.demandAge (s : State) : Option Nat := s.balancer.demandArrival.map (s.timeBase - ·)

/-- The last balancing end with the time elapsed since it (R102). -/
def State.lastEndElapsed (s : State) : Option (Ending × Nat) :=
  s.balancer.lastEnd.map fun e => (e.1, s.timeBase - e.2)

/-- The entry a queue holds for slot `i` (R153). -/
def Segment.entryOf (q : Segment) (i : Slot) : Option Entry := q.queue.find? fun e => decide (e.slot = i)

/-- The entry the segment queue of the well in slot `i` holds for it. -/
def State.entryOf (s : State) (i : Slot) : Option Entry := (s.well i).bind fun w => (s.seg w.cfg.seg).entryOf i

/-- The queued flag of slot `i` (R12, R153). -/
def State.queued (s : State) (i : Slot) : Bool := (s.entryOf i).isSome

/-- The PROTECTIVE entry of slot `i`, if it has one. -/
def State.protEntryOf (s : State) (i : Slot) : Option Entry :=
  (s.entryOf i).filter fun e => decide (e.cls = .protective)

/-- The target and outlet of the PROTECTIVE command standing for slot `i`, in its queue or its pending field. -/
def State.protCommand (s : State) (i : Slot) : Option PendingProt :=
  match s.protEntryOf i with
  | some e => some ⟨e.target, e.outlet⟩
  | none => (s.well i).bind (·.pendingProt)

/-- A SET transaction to slot `i` is in flight (R20, R132). -/
def State.setInFlight (s : State) (i : Slot) : Bool :=
  Seg.all.any fun g =>
    match (s.seg g).txn with
    | some t => decide (t.kind = .set) && decide (t.slot = some i)
    | none => false

/-- The move records of segment `g`'s wells, in slot order (R152). -/
def State.movesOf (s : State) (g : Seg) : List (Slot × MoveRec) :=
  allSlots.filterMap fun i =>
    match s.well i with
    | some w => if w.cfg.seg = g then w.move.map fun m => (i, m) else none
    | none => none

/-- The non-protective travel of segment `g`: that of its non-protective move records, and of the sent copy when the SET
in flight is non-protective (R162). -/
def State.nonProtTravel (s : State) (g : Seg) : Nat :=
  ((s.movesOf g).map fun m => if m.2.cls = .protective then 0 else m.2.travel).sum +
    match (s.seg g).sentCopy with
    | some c => if c.cls = .protective then 0 else c.travel
    | none => 0

/-- The travel of a queue entry as its well's record stands (R160). -/
def State.entryTravel (s : State) (e : Entry) : Nat :=
  match s.well e.slot with
  | some w => travelOf w e.target
  | none => 0

/-- An entry is sendable at the head of segment `g`'s queue (R161). -/
def State.sendable (s : State) (g : Seg) (e : Entry) : Bool :=
  decide (e.cls = .protective) ||
    decide (s.entryTravel e + (s.seg g).outstanding ≤ (s.seg g).budgetInForce)

/-- A non-protective entry, not on the line, whose travel alone exceeds the budget in force (R161). -/
def State.overBudget (s : State) (g : Seg) (e : Entry) : Bool :=
  !decide (e.cls = .protective) && !e.sent && decide ((s.seg g).budgetInForce < s.entryTravel e)

/-- A slot that carries `address`, loaded, in service and on segment `g` (R3, R146). -/
def State.wellAt (s : State) (g : Seg) (address : Nat) : Option Slot :=
  allSlots.find? fun i =>
    match s.well i with
    | some w => w.cfg.inService && decide (w.cfg.seg = g) && decide (w.cfg.address = address)
    | none => false

/-- The addressed well of a transaction of segment `g` at the moment its reply is judged (R134). -/
def State.addressedWell (s : State) (g : Seg) (t : Txn) : Option Slot :=
  match t.slot with
  | none => none
  | some i =>
    match s.well i with
    | some w =>
      if w.cfg.inService && decide (w.cfg.seg = g) && decide (w.cfg.address = t.dest) then some i else none
    | none => none

/-! ## Line status (R80) -/

/-- The status of the ENGINE line from its blends (R80). -/
def engineStatus (lineLost : Bool) (lim : Limits) (ch4 o2 : Option Nat) : LineStatus :=
  if lineLost then .lost
  else match ch4, o2 with
    | some m, some o => if lim.engineO2Max < o then .oxygen else if m < lim.engineMin then .low else .normal
    | _, _ => .noFlow

/-- The status of the FLARE line from its blends (R80). -/
def flareStatus (flareFault : Bool) (lim : Limits) (ch4 : Option Nat) : LineStatus :=
  if flareFault then .fault
  else match ch4 with
    | some m => if m < lim.flareMin then .low else .normal
    | none => .noFlow

end Sys2Proof.Machine
end

