-- ==== Sys2Proof/Machine/Ops.lean ====
section
/-! DEFINITION. The named operations over the state: one updater per block, the Well Table's way of writing a record
(which keeps the rosters, R17 to R19), counters, the time base, and the offers to the uplink queues (R203 to R206).
Every other operation of the model is composed of these. -/

namespace Sys2Proof.Machine

/-! ## Updaters -/

/-- Segment `g` changed by `f`. -/
def State.modSeg (s : State) (g : Seg) (f : Segment → Segment) : State := { s with segs := s.segs.put g (f (s.segs.get g)) }

/-- The Line Balancer's items changed by `f`. -/
def State.modBalancer (s : State) (f : Balancer → Balancer) : State := { s with balancer := f s.balancer }

/-- The Condition Controller changed by `f`. -/
def State.modConds (s : State) (f : Conditions → Conditions) : State := { s with conds := f s.conds }

/-- The Role Unit changed by `f`. -/
def State.modUnit (s : State) (f : RoleUnit → RoleUnit) : State := { s with unit := f s.unit }

/-- The Plant Link changed by `f`. -/
def State.modLink (s : State) (f : Link → Link) : State := { s with link := f s.link }

/-- Trip input `t` changed by `f`. -/
def State.modTrip (s : State) (t : Trip) (f : TripFilter → TripFilter) : State :=
  { s with trips := s.trips.put t (f (s.trips.get t)) }

/-- The blend record of line `l` written. -/
def State.setLine (s : State) (l : Line) (r : LineRecord) : State := { s with lines := s.lines.put l r }

/-- The site settings written. -/
def State.setSite (s : State) (x : SiteSettings) : State := { s with site := x }

/-- The limit group written. -/
def State.setLimits (s : State) (x : Limits) : State := { s with limits := x }

/-- The time base stands at `t` or past it: what the expiry of a timer due at `t` tells (assumption 4). -/
def State.advanceTo (s : State) (t : Nat) : State := { s with timeBase := if s.timeBase < t then t else s.timeBase }

/-- One more PROTECTIVE SET has been made (R51, R187). -/
def State.countProt (s : State) : State := { s with protMade := s.protMade + 1 }

/-- A saturating 16-bit counter one higher. -/
def counterInc (n : Nat) : Nat := satInc Config.counterCap n

/-- The counters of segment `g` changed by `f`. -/
def State.modCounters (s : State) (g : Seg) (f : SegCounters → SegCounters) : State :=
  s.modSeg g fun q => { q with counters := f q.counters }

/-- The link counters changed by `f`. -/
def State.modLinkCounters (s : State) (f : LinkCounters → LinkCounters) : State :=
  s.modLink fun k => { k with counters := f k.counters }

/-! ## The Well Table -/

/-- Slot `i` placed in a list ordered by `before` (R18, R19). -/
def placeOn (before : Slot → Slot → Bool) (i : Slot) : List Slot → List Slot
  | [] => [i]
  | j :: r => if before i j then i :: j :: r else j :: placeOn before i r

/-- The order of R18 over a Well Table. -/
def leanOrder (wells : Vector (Option Well) 96) (i j : Slot) : Bool :=
  leanBefore (gasOf wells[i.val]) i (gasOf wells[j.val]) j

/-- Slot `i` taken from its place on roster `l` and set where its record puts it, if its record puts it there (R19). -/
def placeRoster (wells : Vector (Option Well) 96) (i : Slot) (l : Line) (roster : List Slot) : List Slot :=
  let others := roster.filter fun j => !decide (j = i)
  if rosterLine wells[i.val] = some l then placeOn (leanOrder wells) i others else others

/-- An evaluation of line `l` is handed to the Line Balancer (R19). -/
def State.askEval (s : State) (l : Line) : State := { s with evalAsked := s.evalAsked.put l true }

/-- `askEval` for a roster that may be none. -/
def State.askEvalOf (s : State) (o : Option Line) : State :=
  match o with
  | some l => s.askEval l
  | none => s

/-- The record of slot `i` is written: the state is derived again, both rosters follow (R17, R19), and a join, a leave
or a change of roster asks for an evaluation of each line touched. -/
def putWell (s : State) (i : Slot) (w : Option Well) : State :=
  let before := rosterLine (s.well i)
  let wells := s.wells.set i.val w i.isLt
  let s' : State :=
    { s with
      wells := wells
      rosters := ⟨placeRoster wells i .engine s.rosters.engine, placeRoster wells i .flare s.rosters.flare⟩ }
  if before = rosterLine w then s' else (s'.askEvalOf before).askEvalOf (rosterLine w)

/-- The record of slot `i`, if it is loaded, changed by `f`. -/
def modWell (s : State) (i : Slot) (f : Well → Well) : State :=
  match s.well i with
  | some w => putWell s i (some (f w))
  | none => s

/-- A hold reason added to or removed from the well in slot `i` (R9). -/
def setReason (i : Slot) (r : Reason) (x : Bool) (s : State) : State :=
  modWell s i fun w => { w with holds := w.holds.put r x }

/-- The pending protective field of slot `i` written or removed (R12). -/
def setPending (i : Slot) (p : Option PendingProt) (s : State) : State := modWell s i fun w => { w with pendingProt := p }

/-! ## The uplink (R203 to R206) -/

/-- An idle transmitter takes a frame at once, the first of the urgent queue before the first of the routine one
(R206). -/
def Link.pump (k : Link) : Link :=
  match k.transmitter with
  | some _ => k
  | none =>
    match k.urgent with
    | f :: r => { k with transmitter := some f, urgent := r }
    | [] =>
      match k.routine with
      | f :: r => { k with transmitter := some f, routine := r }
      | [] => k

/-- The routine queue's fill, the reserved place counted (R191, R203). -/
def Link.routineFill (k : Link) : Nat := k.routine.length + if k.reserved then 1 else 0

/-- A REPORT or LINE offered to the routine queue (R204). -/
def Link.offerRoutine (k : Link) (f : Uplink) : Link :=
  if k.routineFill < Config.routineCap then Link.pump { k with routine := k.routine ++ [f] }
  else { k with counters := { k.counters with routineDiscards := counterInc k.counters.routineDiscards } }

/-- A CONDITION or ROLE notice offered to the urgent queue (R205). -/
def Link.offerUrgent (k : Link) (f : Uplink) : Link :=
  if k.urgent.length < Config.urgentCap then Link.pump { k with urgent := k.urgent ++ [f] }
  else { k with counters := { k.counters with urgentDiscards := counterInc k.counters.urgentDiscards } }

/-- The RESPONSE joins the end of the routine queue in the reserved place, and the reservation ends (R191). -/
def Link.joinResponse (k : Link) (r : Response) : Link :=
  Link.pump { k with reserved := false, routine := k.routine ++ [.response r] }

/-- `Link.offerRoutine` on the state. -/
def offerRoutine (f : Uplink) (s : State) : State := s.modLink (·.offerRoutine f)

/-- `Link.offerUrgent` on the state. -/
def offerUrgent (f : Uplink) (s : State) : State := s.modLink (·.offerUrgent f)

end Sys2Proof.Machine
end

