-- ==== Sys2Proof/Machine/Conditions.lean ====
section
/-! DEFINITION. The Condition Controller: raising (R107), recurrences (R108), taking (R113, R114), notices (R125),
withdrawal (R111), detachment (R109), and the settings of LOAD CONDITION (R105). The removal effects of CLEAR and DISMISS
(R116) stand in Machine/Trips.lean, since they reach the lines. -/

namespace Sys2Proof.Machine

/-- The record is that of the pair (R107). -/
def CondRec.isPair (r : CondRec) (k : CondKind) (src : Nat) : Bool := decide (r.kind = k) && decide (r.source = src)

/-- The level and mask of a kind (R105). -/
def Conditions.setting (c : Conditions) (k : CondKind) : KindSetting := c.kinds[k.idx.val]

/-- The record of a pair, pending or in service (R107). -/
def Conditions.find (c : Conditions) (k : CondKind) (src : Nat) : Option CondRec :=
  match c.waiting.find? (·.isPair k src) with
  | some r => some r
  | none => c.stack.find? (·.isPair k src)

/-- A record of the pair is attached: pending or in service, and not detached (R43, R109). -/
def State.attachedRec (s : State) (k : CondKind) (src : Nat) : Bool :=
  match s.conds.find k src with
  | some r => r.attached
  | none => false

/-- A record of the pair is pending or in service. -/
def State.hasRec (s : State) (k : CondKind) (src : Nat) : Bool := (s.conds.find k src).isSome

/-- Taking order: by level, then source, then kind order (R110). -/
def CondRec.takenBefore (x y : CondRec) : Bool :=
  if x.level = y.level then
    (if x.source = y.source then decide (x.kind.idx < y.kind.idx) else decide (x.source < y.source))
  else decide (x.level < y.level)

/-- A record placed in a pending set kept in taking order (R110). -/
def placeRec (r : CondRec) : List CondRec → List CondRec
  | [] => [r]
  | x :: xs => if r.takenBefore x then r :: x :: xs else x :: placeRec r xs

/-- A pending set brought into taking order (R110). -/
def sortRecs (l : List CondRec) : List CondRec := l.foldr placeRec []

/-- The slot a source number names (00_scope.md, Site Source Numbers). -/
def slotOfSource (src : Nat) : Option Slot := if h : src < 96 then some ⟨src, h⟩ else none

/-- The kind is one of the five well kinds (R104). -/
def CondKind.isWell : CondKind → Bool
  | .hotGas | .oxygenHigh | .actuatorFault | .vacuumLost | .wellSilent => true
  | .engineLineLost | .noOutlet | .lineOxygenHigh | .engineBlendLow | .flareBlendLow | .roleConflict => false

/-- The source every record of a kind has, for a kind that is not a well kind (R104). -/
def CondKind.fixedSource : CondKind → Nat
  | .engineLineLost | .lineOxygenHigh | .engineBlendLow => Config.engineSource
  | .flareBlendLow => Config.flareSource
  | .noOutlet | .roleConflict => Config.siteSource
  | .hotGas | .oxygenHigh | .actuatorFault | .vacuumLost | .wellSilent => 0

/-- The source is one the kind can have (R117). -/
def CondKind.admits (k : CondKind) (src : Nat) : Bool :=
  if k.isWell then decide (src < 96) else decide (src = k.fixedSource)

/-- The CONDITION notice of a record just taken (R125). -/
def noticeOf (s : State) (r : CondRec) : CondNotice where
  kind := r.kind
  source := r.source
  address :=
    if r.kind.isWell then
      match slotOfSource r.source with
      | some i => (s.well i).map fun w => (w.cfg.address, w.cfg.seg)
      | none => none
    else none
  level := r.level
  raised := r.raised
  taken := s.timeBase
  recurrence := r.recurrence
  measured := r.measured
  limit := r.limit
  depth := s.conds.stack.length
  waiting := s.conds.waiting.length

/-- A pending record is eligible: its kind's mask is clear and its level is lower than every level in service (R114). -/
def Conditions.eligible (c : Conditions) (r : CondRec) : Bool :=
  !(c.setting r.kind).masked && c.stack.all fun x => decide (r.level < x.level)

/-- Taking one record: onto the stack with its taken time, and its notice offered (R114). -/
def takeRec (r : CondRec) (s : State) : State :=
  let s := s.modConds fun c =>
    { c with
      waiting := c.waiting.filter fun x => !x.isPair r.kind r.source
      stack := { r with taken := some s.timeBase } :: c.stack }
  offerUrgent (.condition (noticeOf s r)) s

/-- An evaluation of taking, made only while the role is DUTY (R113). The pending set stands in taking order, so its first
eligible record is the one R114 takes. -/
def evalTaking (s : State) : State :=
  if s.isDuty then
    match s.conds.waiting.find? s.conds.eligible with
    | some r => takeRec r s
    | none => s
  else s

/-- The recurrence count of the pair's record one higher, stopping at 255 (R108), and the record attached (R107). -/
def bumpRec (k : CondKind) (src : Nat) (s : State) : State :=
  let up : CondRec → CondRec := fun r =>
    if r.isPair k src then { r with recurrence := satInc Config.recurrenceCap r.recurrence, attached := true } else r
  s.modConds fun c => { c with waiting := c.waiting.map up, stack := c.stack.map up }

/-- A new record, at the level of its kind (R107). -/
def newRec (s : State) (k : CondKind) (src : Nat) (measured limit : Option Int) : CondRec where
  kind := k
  source := src
  level := (s.conds.setting k).level
  raised := s.timeBase
  taken := none
  recurrence := 0
  measured := measured
  limit := limit
  attached := true

/-- Raising a condition (R107): a new pending record and an evaluation of taking, or a recurrence of the record that
stands, which is attached if it was detached. -/
def raiseCond (k : CondKind) (src : Nat) (measured limit : Option Int) (s : State) : State :=
  if s.hasRec k src then bumpRec k src s
  else evalTaking (s.modConds fun c => { c with waiting := placeRec (newRec s k src measured limit) c.waiting })

/-- Withdrawal of the pair's pending record, with its evaluation of taking (R111). -/
def withdraw (k : CondKind) (src : Nat) (s : State) : State :=
  if s.conds.waiting.any (·.isPair k src) then
    evalTaking (s.modConds fun c => { c with waiting := c.waiting.filter fun r => !r.isPair k src })
  else s

/-- Withdrawal of every pending record whose source is the slot, and detachment of those in service (R109, R111). -/
def withdrawSlot (i : Slot) (s : State) : State :=
  let found := s.conds.waiting.any fun r => decide (r.source = i.val)
  let s := s.modConds fun c =>
    { c with
      waiting := c.waiting.filter fun r => !decide (r.source = i.val)
      stack := c.stack.map fun r => if r.source = i.val then { r with attached := false } else r }
  if found then evalTaking s else s

/-- The level and mask of a kind written, its pending records at the new level, and taking evaluated if either changed
(R105). -/
def loadCondition (k : CondKind) (x : KindSetting) (s : State) : State :=
  if s.conds.setting k = x then s
  else evalTaking (s.modConds fun c =>
    { c with
      kinds := c.kinds.set k.idx.val x k.idx.isLt
      waiting := sortRecs (c.waiting.map fun r => if r.kind = k then { r with level := x.level } else r) })

end Sys2Proof.Machine
end

