-- ==== Sys2Proof/Machine/Queues.lean ====
section
/-! DEFINITION. The Command Queues: how entries enter, replace one another and leave (R153 to R158), pending protective
fields (R156, R157), the budget (R161, R162) and the ends of moves (R172). Echoes are in Machine/Moves.lean, since they
call the open-outlet rule. -/

namespace Sys2Proof.Machine

/-- The entry belongs to the protective group (R153). -/
def Entry.isProt (e : Entry) : Bool := decide (e.cls = .protective)

/-- An entry set at the end of the protective group (R153). -/
def joinProt (e : Entry) (q : List Entry) : List Entry := q.takeWhile (·.isProt) ++ e :: q.dropWhile (·.isProt)

/-- The queue without slot `i`'s entry; the entries behind it close up. -/
def dropSlot (i : Slot) (q : List Entry) : List Entry := q.filter fun e => !decide (e.slot = i)

/-- Slot `i`'s entry replaced in its place (R154). -/
def replaceSlot (i : Slot) (e : Entry) (q : List Entry) : List Entry := q.map fun x => if x.slot = i then e else x

/-- The outstanding balancing move ends: its end time and result are the last balancing end (R91). -/
def endBalancing (r : Ending) (s : State) : State :=
  match s.balancer.move with
  | some _ => s.modBalancer fun b => { b with move := none, lastEnd := some (r, s.timeBase) }
  | none => s

/-- The outstanding balancing move is slot `i`'s, in either phase (R91). -/
def State.balancingOf (s : State) (i : Slot) : Bool :=
  match s.balancer.move with
  | some b => decide (b.slot = i)
  | none => false

/-- The outstanding balancing move is QUEUED for slot `i`, so that a BALANCE entry of that slot is its entry (R91). -/
def State.balancingQueued (s : State) (i : Slot) : Bool :=
  match s.balancer.move with
  | some b => decide (b.slot = i) && decide (b.phase = .queued)
  | none => false

/-- The outstanding balancing move is MOVING with slot `i`'s move record (R91). -/
def State.balancingMoving (s : State) (i : Slot) : Bool :=
  match s.balancer.move with
  | some b => decide (b.slot = i) && decide (b.phase = .moving)
  | none => false

/-- What an entry's leaving without an echo brings, by class: a BALANCE entry ends its balancing move NOT MADE (R158). -/
def leaveEffects (e : Entry) (s : State) : State :=
  if e.cls = .balance && s.balancingQueued e.slot then endBalancing .notMade s else s

/-- The entry a protective arrival at a full queue evicts: the last non-protective one not marked sent (R156). -/
def lastEvictable (q : List Entry) : Option Entry := (q.filter fun e => !e.isProt && !e.sent).getLast?

/-- A protective arrival for a well with no entry, by cases 2 and 3 of R156; none is case 4. -/
def protEnter (g : Seg) (e : Entry) (s : State) : Option State :=
  if (s.seg g).queue.length < Config.queueCap then
    some (s.modSeg g fun q => { q with queue := joinProt e q.queue })
  else
    match lastEvictable (s.seg g).queue with
    | some v =>
      some (leaveEffects v (s.modSeg g fun q =>
        { q with
          queue := joinProt e (dropSlot v.slot q.queue)
          counters := { q.counters with evictions := counterInc q.counters.evictions } }))
    | none => none

/-- A new PROTECTIVE entry replaces the entry held for its well: in its place if that is PROTECTIVE, else at the end of the
protective group (R154). -/
def protReplace (g : Seg) (old e : Entry) (s : State) : State :=
  leaveEffects old (s.modSeg g fun q =>
    { q with
      queue := if old.isProt then replaceSlot e.slot e q.queue else joinProt e (dropSlot e.slot q.queue) })

/-- The examination of R157 over a list of slots: each pending protective field of an answering well of the segment enters
as a protective arrival, and the examination stops at the first that finds no place. -/
def examineFrom (g : Seg) : List Slot → State → State
  | [], s => s
  | i :: rest, s =>
    match s.well i with
    | none => examineFrom g rest s
    | some w =>
      if decide (w.cfg.seg = g) && w.answering then
        match w.pendingProt with
        | none => examineFrom g rest s
        | some p =>
          let e : Entry := ⟨i, p.target, p.outlet, .protective, false⟩
          match (s.seg g).entryOf i with
          | some old => examineFrom g rest (setPending i none (protReplace g old e s))
          | none =>
            match protEnter g e s with
            | some s' => examineFrom g rest (setPending i none s')
            | none => s
      else examineFrom g rest s

/-- The pending protective fields of a segment are examined in slot order; in STANDBY they wait (R156, R157). -/
def examinePending (g : Seg) (s : State) : State := if s.isDuty then examineFrom g allSlots s else s

/-- What follows an entry's departure without an echo: its effects by class and the examination of R157 (R158). -/
def departed (g : Seg) (e : Entry) (s : State) : State := examinePending g (leaveEffects e s)

/-- The entry of slot `i` removed from segment `g`'s queue with the effects of R158, uncounted. -/
def removeEntry (g : Seg) (i : Slot) (s : State) : State :=
  match (s.seg g).entryOf i with
  | some e => departed g e (s.modSeg g fun q => { q with queue := dropSlot i q.queue })
  | none => s

/-- A PROTECTIVE SET handed to the queue of the well in slot `i` (R154, R156): it replaces an entry, enters the queue, or
is held in the pending protective field. In STANDBY no entry enters a queue. -/
def arriveProt (i : Slot) (target : Nat) (outlet : Line) (s : State) : State :=
  match s.well i with
  | none => s
  | some w =>
    let g := w.cfg.seg
    let e : Entry := ⟨i, target, outlet, .protective, false⟩
    let held := setPending i (some ⟨target, outlet⟩) s
    if !s.isDuty then held
    else
      match (s.seg g).entryOf i with
      | some old => examinePending g (setPending i none (protReplace g old e s))
      | none =>
        if !w.answering then held
        else
          match protEnter g e s with
          | some s' =>
            let s' := setPending i none s'
            if (s.seg g).queue.length < Config.queueCap then s' else examinePending g s'
          | none => held

/-- A SET of class FORCED, BALANCE or TRIM handed to the queue of the well in slot `i` (R154, R155): it replaces a
non-protective entry in its place, joins the end, or is dropped at a full queue, which is a departure like any other (R158,
assumption 39). The rules that make SETs hand none to a well with a PROTECTIVE entry (R154), which is left as it
stands. -/
def arriveOther (i : Slot) (target : Nat) (outlet : Line) (cls : Cls) (s : State) : State :=
  match s.well i with
  | none => s
  | some w =>
    let g := w.cfg.seg
    let e : Entry := ⟨i, target, outlet, cls, false⟩
    match (s.seg g).entryOf i with
    | some old =>
      if old.isProt then leaveEffects e s
      else departed g old (s.modSeg g fun q => { q with queue := replaceSlot i e q.queue })
    | none =>
      if (s.seg g).queue.length < Config.queueCap then s.modSeg g fun q => { q with queue := q.queue ++ [e] }
      else departed g e (s.modCounters g fun c => { c with drops := counterInc c.drops })

/-- The loaded budget comes into force once the non-protective travel is at or below it (R162). -/
def refreshBudget (g : Seg) (s : State) : State :=
  if s.nonProtTravel g ≤ (s.seg g).settings.budget then
    s.modSeg g fun q => { q with budgetInForce := q.settings.budget }
  else s

/-- Non-protective heads whose travel alone exceeds the budget in force are removed as they are found at the head, counted
as drops (R161). -/
def dropOverBudget (g : Seg) : Nat → State → State
  | 0, s => s
  | n + 1, s =>
    match (s.seg g).queue with
    | [] => s
    | e :: rest =>
      if s.overBudget g e then
        dropOverBudget g n (departed g e (s.modSeg g fun q =>
          { q with
            queue := rest
            counters := { q.counters with drops := counterInc q.counters.drops } }))
      else s

/-- The head of segment `g`'s queue is looked at (R161, R172): over-budget heads leave. A queue holds at most 16 entries, so
the bound is never reached. -/
def testHead (g : Seg) (s : State) : State := dropOverBudget g (Config.queueCap + 1) s

/-- Steps 1 to 3 of a move's end (R172): the record is removed, its travel released, and a balancing move it belongs to ends with
the same ending. -/
def releaseMove (i : Slot) (r : Ending) (s : State) : State :=
  match s.well i with
  | none => s
  | some w =>
    match w.move with
    | none => s
    | some m =>
      let g := w.cfg.seg
      let s := putWell s i (some { w with move := none })
      let s := s.modSeg g fun q => { q with outstanding := q.outstanding - m.travel }
      let s := refreshBudget g s
      if s.balancingMoving i then endBalancing r s else s

/-- A move ends (R172), and the head of its segment's queue is looked at again. -/
def endMove (i : Slot) (r : Ending) (s : State) : State :=
  match s.well i with
  | none => s
  | some w => if w.move.isSome then testHead w.cfg.seg (releaseMove i r s) else s

/-- Every move record of the slots in the list ends, the queues not touched (R173, R178). -/
def releaseMoves (r : Ending) : List Slot → State → State
  | [], s => s
  | i :: rest, s => releaseMoves r rest (releaseMove i r s)

end Sys2Proof.Machine
end

