-- ==== Sys2Proof/Machine/Outlets.lean ====
section
/-! DEFINITION. Where a well's gas goes: the outlet of a protective SET (R48), routing and the open-outlet rule (R100), the
site's NO OUTLET (R101) and the diversion (R96). -/

namespace Sys2Proof.Machine

/-- The outlet a protective SET names, none where no SET may be made (R48). An outlet field that an ECHO has set to a line not permitted
is named as it stands (assumption 44). -/
def State.protOutlet (s : State) (i : Slot) : Option Line :=
  match s.well i with
  | none => none
  | some w =>
    let base := match s.protCommand i with
      | some p => p.outlet
      | none => w.outlet
    if base = .engine && s.balancer.lineLost then (if w.cfg.permitted.allows .flare then some .flare else none)
    else some base

/-- A PROTECTIVE SET with the outlet of R48; where R48 gives none, no SET is made. -/
def makeProt (i : Slot) (target : Nat) (s : State) : State :=
  match s.protOutlet i with
  | some o => arriveProt i target o s.countProt
  | none => s

/-- The PROTECTIVE SET of the well in slot `i` on the line awaiting its echo, its entry gone at a yield (R100, R185). -/
def State.sentProt (s : State) (i : Slot) : Option SentCopy :=
  match s.well i with
  | none => none
  | some w =>
    match (s.seg w.cfg.seg).sentCopy with
    | some c => if c.slot = i && c.cls = .protective then some c else none
    | none => none

/-- The routing of a well (R100): the outlet of its PROTECTIVE entry or pending field, or of its PROTECTIVE SET awaiting
echo, and otherwise its outlet field. -/
def State.routing (s : State) (i : Slot) : Option Line :=
  match s.well i with
  | none => none
  | some w =>
    match s.protCommand i with
    | some p => some p.outlet
    | none =>
      match s.sentProt i with
      | some c => some c.outlet
      | none => some w.outlet

/-- The open-outlet rule at one well, the site not yet examined (R100). -/
def applyOutletRule (i : Slot) (s : State) : State :=
  match s.well i, s.routing i with
  | some w, some l =>
    if (wellState (some w)).onRoster then
      if s.isOpen l then (if w.holds.noOutlet then setReason i .noOutlet false s else s)
      else if w.holds.noOutlet then s
      else
        let s := setReason i .noOutlet true s
        if s.isDuty then makeProt i w.cfg.pmin s else s
    else s
  | _, _ => s

/-- The number of loaded wells holding NO OUTLET (R101). -/
def State.noOutletCount (s : State) : Nat :=
  (allSlots.filter fun i =>
    match s.well i with
    | some w => w.holds.noOutlet
    | none => false).length

/-- The examination of the site after an application of the open-outlet rule (R101); `byChange` tells that it follows a
change of line-lost or flare fault status. -/
def examineSite (byChange : Bool) (s : State) : State :=
  if !s.isOpen .engine && !s.isOpen .flare && decide (0 < s.noOutletCount) then
    if s.hasRec .noOutlet Config.siteSource then
      (if byChange then bumpRec .noOutlet Config.siteSource s else s)
    else raiseCond .noOutlet Config.siteSource (some s.noOutletCount) none s
  else s

/-- The open-outlet rule applied to one well, and the site examined (R100, R101). -/
def outletRuleAt (i : Slot) (s : State) : State := examineSite false (applyOutletRule i s)

/-- The rule applied in turn to the slots of a list. -/
def applyOutletRules : List Slot → State → State
  | [], s => s
  | i :: rest, s => applyOutletRules rest (applyOutletRule i s)

/-- The roster members: ENGINE, then FLARE, each from the lean end. The manual gives the rule no order (assumption 13). -/
def State.members (s : State) : List Slot := s.rosters.engine ++ s.rosters.flare

/-- The open-outlet rule applied to every roster member, and the site examined (R100, R101). -/
def outletRuleAll (byChange : Bool) (s : State) : State := examineSite byChange (applyOutletRules s.members s)

/-- A well the diversion takes: permitted FLARE and not holding HOT (R96). -/
def State.diverts (s : State) (i : Slot) : Bool :=
  match s.well i with
  | some w => w.cfg.permitted.allows .flare && !w.holds.hot
  | none => false

/-- The target of a well's diversion SET: that of its standing protective command, else its target field within its range
(R96). A roster member's target field is known (R37). -/
def State.diversionTarget (s : State) (i : Slot) : Nat :=
  match s.protCommand i with
  | some p => p.target
  | none =>
    match s.well i with
    | some w => clampNat w.cfg.pmin w.cfg.pmax (w.target.getD w.cfg.pmin)
    | none => 0

/-- Diversion SETs for the slots of a list, in its order (R96). -/
def divertAll : List Slot → State → State
  | [], s => s
  | i :: rest, s =>
    divertAll rest (if s.diverts i then arriveProt i (s.diversionTarget i) .flare s.countProt else s)

/-- The diversion of R96: the ENGINE roster from its lean end. -/
def diversion (s : State) : State := divertAll s.rosters.engine s

end Sys2Proof.Machine
end

