-- ==== Sys2Proof/Machine/Lines.lean ====
section
/-! DEFINITION. Line evaluation (R77 to R82), the balancing pass (R85 to R90) and LINE summaries (R102). -/

namespace Sys2Proof.Machine

/-- What a contributor brings to its line (R78). -/
structure Contrib where
  slot : Slot
  flow : Nat
  ch4 : Nat
  o2 : Nat
  deriving DecidableEq, Repr

/-- Slot `i` as a contributor: its gas block is present and its sample fresh (R78). -/
def State.contribOf (s : State) (i : Slot) : Option Contrib :=
  match (s.well i).bind (·.last) with
  | some q =>
    match q.gas with
    | some x => if s.fresh q.time then some ⟨i, q.flow, x.ch4, x.o2⟩ else none
    | none => none
  | none => none

/-- The contributors of line `l`, in roster order (R78). -/
def State.contribs (s : State) (l : Line) : List Contrib := (s.rosters.get l).filterMap s.contribOf

/-- The sum Sf (R79). -/
def sumFlow (cs : List Contrib) : Nat := (cs.map (·.flow)).sum

/-- The sum Sm (R79). -/
def sumCh4 (cs : List Contrib) : Nat := (cs.map fun c => c.flow * c.ch4).sum

/-- The sum So (R79). -/
def sumO2 (cs : List Contrib) : Nat := (cs.map fun c => c.flow * c.o2).sum

/-- A blend: the weighted sum over the flow, truncated, absent where the flow is 0 (R79). -/
def blend (weighted flow : Nat) : Option Nat := if flow = 0 then none else some (weighted / flow)

/-- The status of line `l` from its blends (R80). -/
def State.statusOf (s : State) (l : Line) (ch4 o2 : Option Nat) : LineStatus :=
  match l with
  | .engine => engineStatus s.balancer.lineLost s.limits ch4 o2
  | .flare => flareStatus s.balancer.flareFault s.limits ch4

/-- The blend record an evaluation of line `l` writes: steps 1 to 3 of R77. -/
def State.lineRecordOf (s : State) (l : Line) : LineRecord :=
  let cs := s.contribs l
  let ch4 := blend (sumCh4 cs) (sumFlow cs)
  let o2 := blend (sumO2 cs) (sumFlow cs)
  { status := s.statusOf l ch4 o2
    contributors := cs.length
    sf := sumFlow cs
    sm := sumCh4 cs
    so := sumO2 cs
    ch4 := ch4
    o2 := o2
    evaluated := some s.timeBase }

/-! ## Line conditions (R81) -/

/-- The count of a line kind (R81). -/
def LineCounts.get (c : LineCounts) : CondKind → Nat
  | .lineOxygenHigh => c.lineOxygen
  | .engineBlendLow => c.engineLow
  | .flareBlendLow => c.flareLow
  | _ => 0

/-- The count of a line kind written. -/
def LineCounts.put (c : LineCounts) (k : CondKind) (n : Nat) : LineCounts :=
  match k with
  | .lineOxygenHigh => { c with lineOxygen := n }
  | .engineBlendLow => { c with engineLow := n }
  | .flareBlendLow => { c with flareLow := n }
  | _ => c

/-- The verification count of a line kind (R76). -/
def SiteSettings.verifyLine (x : SiteSettings) : CondKind → Nat
  | .lineOxygenHigh => x.verifyLineOxygen
  | .engineBlendLow => x.verifyEngineLow
  | .flareBlendLow => x.verifyFlareLow
  | _ => 0

/-- The line's count of kind `k` set to `n`. -/
def setLineCount (k : CondKind) (n : Nat) (s : State) : State :=
  s.modBalancer fun b => { b with counts := b.counts.put k n }

/-- One line kind treated by the evaluation's status (R81): counted toward verification and raised, counted as a
recurrence, or reset with its pending record withdrawn (R82). -/
def treatLineKind (k : CondKind) (matches' : Bool) (measured : Option Nat) (limit : Nat) (s : State) : State :=
  let src := k.fixedSource
  if matches' then
    if s.hasRec k src then bumpRec k src (setLineCount k 0 s)
    else
      let n := satInc Config.countCap (s.balancer.counts.get k)
      if s.site.verifyLine k ≤ n then
        raiseCond k src (measured.map fun m => (m : Int)) (some (limit : Int)) (setLineCount k 0 s)
      else setLineCount k n s
  else withdraw k src (setLineCount k 0 s)

/-- Step 4 of an evaluation of line `l`, by the record just written (R81), the two ENGINE kinds in kind order (assumption 46). -/
def treatLine (l : Line) (r : LineRecord) (s : State) : State :=
  match l with
  | .engine =>
    let s := treatLineKind .lineOxygenHigh (decide (r.status = .oxygen)) r.o2 s.limits.engineO2Max s
    treatLineKind .engineBlendLow (decide (r.status = .low)) r.ch4 s.limits.engineMin s
  | .flare => treatLineKind .flareBlendLow (decide (r.status = .low)) r.ch4 s.limits.flareMin s

/-! ## The balancing pass (R85 to R91) -/

/-- A balancing pass is made (R85). -/
def State.passDue (s : State) : Bool :=
  s.isDuty && decide (s.link.mode = .run) && s.balancer.move.isNone &&
    decide (s.site.balanceInterval * 1000 ≤
      s.timeBase - (match s.balancer.lastEnd with
        | some e => e.2
        | none => s.balancer.resetTime))

/-- The common conditions of a candidate whose SET would name outlet `o` (R86). -/
def State.candidate (s : State) (i : Slot) (o : Line) : Bool :=
  match s.well i with
  | some w =>
    (s.contribOf i).isSome && w.move.isNone && w.pendingProt.isNone &&
      (match s.entryOf i with
        | some e => decide (e.cls = .trim)
        | none => true) &&
      w.cfg.permitted.allows o && s.isOpen o
  | none => false

/-- The derived state of slot `i`. -/
def State.stateOf (s : State) (i : Slot) : WellState := wellState (s.well i)

/-- The state is TRACKING or HELD. -/
def State.trackingOrHeld (s : State) (i : Slot) : Bool :=
  decide (s.stateOf i = .tracking) || decide (s.stateOf i = .held)

/-- The target of actions 1 to 3: the target field within its range (R86). -/
def State.balanceTarget (s : State) (i : Slot) : Nat :=
  match s.well i with
  | some w => clampNat w.cfg.pmin w.cfg.pmax (w.target.getD w.cfg.pmin)
  | none => 0

/-- Contributor `x` is the better candidate of action 1: higher O2, then lower CH4, then lower slot (R87). -/
def Contrib.leanerO2 (x y : Contrib) : Bool :=
  if x.o2 = y.o2 then (if x.ch4 = y.ch4 then decide (x.slot < y.slot) else decide (x.ch4 < y.ch4))
  else decide (y.o2 < x.o2)

/-- The best of a list of contributors by R87. -/
def bestO2 : List Contrib → Option Contrib
  | [] => none
  | c :: rest =>
    match bestO2 rest with
    | some d => if c.leanerO2 d then some c else some d
    | none => some c

/-- Action 1, engine O2 excess (R87). A well barred by R86 yields to the next best (assumption 36). -/
def State.actionO2 (s : State) : Option BalMove :=
  match s.lines.engine.o2 with
  | some o =>
    if s.limits.engineO2Max < o then
      (bestO2 ((s.contribs .engine).filter fun c => s.trackingOrHeld c.slot && s.candidate c.slot .flare)).map fun c =>
        ⟨c.slot, .o2Excess, s.balanceTarget c.slot, .flare, .queued⟩
    else none
  | none => none

/-- Action 2, engine blend low (R88). -/
def State.actionLow (s : State) : Option BalMove :=
  match s.lines.engine.ch4 with
  | some m =>
    if m < s.limits.engineMin then
      (s.rosters.engine.find? fun i => s.trackingOrHeld i && s.candidate i .flare).map fun i =>
        ⟨i, .blendLow, s.balanceTarget i, .flare, .queued⟩
    else none
  | none => none

/-- The trigger of action 3, promotion (R89). -/
def State.promotionTrigger (s : State) : Bool :=
  !s.balancer.lineLost &&
    (match s.demandNow with
      | some d => decide (1 ≤ d.2) && decide (s.lines.engine.sf < d.1)
      | none => false) &&
    ((match s.lines.engine.ch4 with
      | some m => decide (s.limits.engineMin + s.site.hysteresis ≤ m)
      | none => false) || decide (s.lines.engine.status = .noFlow))

/-- The projected blend of a candidate is high enough, and its flow above 0 (R89). -/
def State.promotable (s : State) (i : Slot) : Bool :=
  match s.contribOf i with
  | some c =>
    decide (0 < c.flow) &&
      decide (s.limits.engineMin + s.site.hysteresis ≤
        (s.lines.engine.sm + c.flow * c.ch4) / (s.lines.engine.sf + c.flow))
  | none => false

/-- Action 3, promotion: the FLARE roster from its rich end (R89). -/
def State.actionPromote (s : State) : Option BalMove :=
  if s.promotionTrigger then
    (s.rosters.flare.reverse.find? fun i =>
      decide (s.stateOf i = .tracking) && s.candidate i .engine && s.promotable i).map fun i =>
        ⟨i, .promotion, s.balanceTarget i, .engine, .queued⟩
  else none

/-- The target field of slot `i` exceeds its pmin (R90). -/
def State.abovePmin (s : State) (i : Slot) : Bool :=
  match s.well i with
  | some w => decide (w.cfg.pmin < w.target.getD 0)
  | none => false

/-- The target of a flare throttle: the target field less s, no lower than pmin and no higher than pmax (R90). -/
def State.throttleTarget (s : State) (i : Slot) : Nat :=
  match s.well i with
  | some w => clampNat w.cfg.pmin w.cfg.pmax (w.target.getD 0 - w.cfg.step)
  | none => 0

/-- Action 4, flare throttle (R90). -/
def State.actionThrottle (s : State) : Option BalMove :=
  match s.lines.flare.ch4 with
  | some m =>
    if m < s.limits.flareMin then
      (s.rosters.flare.find? fun i =>
        decide (s.stateOf i = .tracking) && s.abovePmin i && s.candidate i .flare).map fun i =>
          ⟨i, .throttle, s.throttleTarget i, .flare, .queued⟩
    else none
  | none => none

/-- The four actions in order; the first that finds a candidate gives the balancing SET (R85). -/
def State.chooseBalance (s : State) : Option BalMove :=
  s.actionO2 <|> s.actionLow <|> s.actionPromote <|> s.actionThrottle

/-- A balancing pass (R85): the move is outstanding from the moment its SET is handed to the queue (R91). -/
def balancingPass (s : State) : State :=
  match s.chooseBalance with
  | some b => arriveOther b.slot b.target b.outlet .balance (s.modBalancer fun x => { x with move := some b })
  | none => s

/-- An evaluation of line `l`: the five steps of R77. -/
def evaluateLine (l : Line) (s : State) : State :=
  let r := s.lineRecordOf l
  let s := treatLine l r (s.setLine l r)
  if s.passDue then balancingPass s else s

/-- The evaluations one event has asked for, ENGINE first, each line at most once (R19, R77). -/
def runEvals (s : State) : State :=
  let asked := s.evalAsked
  let s := { s with evalAsked := .all false }
  let s := if asked.engine then evaluateLine .engine s else s
  if asked.flare then evaluateLine .flare s else s

/-! ## LINE summaries (R102) -/

/-- The block of a LINE summary about line `l` (R102). -/
def State.lineBlock (s : State) (l : Line) : LineBlock :=
  let r := s.lines.get l
  { status := r.status
    contributors := r.contributors
    rosterSize := (s.rosters.get l).length
    sf := r.sf
    ch4 := r.ch4
    o2 := r.o2
    evaluated := r.evaluated }

/-- The LINE summary of the state (R102). -/
def State.lineSummary (s : State) : LineSummary where
  time := s.timeBase
  role := s.unit.role
  mode := s.link.mode
  lines := ⟨s.lineBlock .engine, s.lineBlock .flare⟩
  counts := s.balancer.counts
  demand := s.demandNow
  demandAge := s.demandAge
  lineLost := s.balancer.lineLost
  flareFault := s.balancer.flareFault
  accepted := .ofFn fun t => (s.trips.get t).accepted
  candidates := .ofFn fun t => (s.trips.get t).candidate.isSome
  combination := s.combination
  balancing := s.balancer.move
  lastEnd := s.lastEndElapsed

/-- A LINE summary composed and offered to the routine queue (R102). -/
def offerLine (s : State) : State := offerRoutine (.line s.lineSummary) s

end Sys2Proof.Machine
end

