-- ==== Sys2Proof/Machine/Trips.lean ====
section
/-! DEFINITION. Trip inputs, line-lost and flare fault (R92 to R99), the removal effects of CLEAR and DISMISS (R116), and the
commands of the Line Balancer's own events: TRIP_FILTER_EXPIRY, TRIP_INPUT_CHANGE, REPORT_TIMER, DEMAND_TIMEOUT. -/

namespace Sys2Proof.Machine

/-! ## Line-lost (R95, R98) -/

/-- The combination mask as the measured value of ENGINE LINE LOST (R95, R106): the trip input set of R209. -/
def maskValue (m : PerTrip Bool) : Nat :=
  (if m.trip0 then 1 else 0) + (if m.trip1 then 2 else 0) + (if m.trip2 then 4 else 0) + (if m.trip3 then 8 else 0)

/-- The well in the entry's slot is permitted FLARE. -/
def State.permitsFlare (s : State) (i : Slot) : Bool :=
  match s.well i with
  | some w => w.cfg.permitted.allows .flare
  | none => false

/-- What line-lost onset makes of one entry: a PROTECTIVE entry naming ENGINE is turned to FLARE and marked not sent where
the well is permitted FLARE; every other entry naming ENGINE goes (R95 step 4, R165). -/
def State.turnEntry (s : State) (e : Entry) : Option Entry :=
  if e.outlet = .flare then some e
  else if e.isProt && s.permitsFlare e.slot then some { e with outlet := .flare, sent := false }
  else none

/-- The entries of a list leave with the effects of R158. -/
def leaveAll : List Entry → State → State
  | [], s => s
  | e :: rest, s => leaveAll rest (leaveEffects e s)

/-- The entries of segment `g` at line-lost onset (R95 step 4). The open-outlet rule is left to step 5, which applies it to every
roster member (assumption 35). -/
def turnQueue (s : State) (g : Seg) : State :=
  let gone := (s.seg g).queue.filter fun e => (s.turnEntry e).isNone
  leaveAll gone (s.modSeg g fun q => { q with queue := q.queue.filterMap s.turnEntry })

/-- The pending protective fields of the slots at line-lost onset (R95 step 4); the open-outlet rule as for `turnQueue`. -/
def turnPending : List Slot → State → State
  | [], s => s
  | i :: rest, s =>
    turnPending rest
      (match s.well i with
        | none => s
        | some w =>
          match w.pendingProt with
          | none => s
          | some p =>
            if p.outlet = .engine then
              setPending i (if w.cfg.permitted.allows .flare then some { p with outlet := .flare } else none) s
            else s)

/-- The examination of R157 on every segment. -/
def examineAll (s : State) : State :=
  examinePending .d (examinePending .c (examinePending .b (examinePending .a s)))

/-- Line-lost onset, steps 1 to 7 (R95). -/
def lineLostOnset (s : State) : State :=
  let s := s.modBalancer fun b => { b with lineLost := true }
  let s := raiseCond .engineLineLost Config.engineSource (some (maskValue s.limits.mask)) none s
  let s := if s.isDuty && s.isOpen .flare then diversion s else s
  let s := Seg.all.foldl turnQueue s
  let s := examineAll (turnPending allSlots s)
  let s := outletRuleAll true s
  offerLine (evaluateLine .engine s)

/-- The end of line-lost status (R98). -/
def lineLostEnd (s : State) : State :=
  let s := s.modBalancer fun b => { b with lineLost := false }
  let s := outletRuleAll true s
  offerLine (evaluateLine .engine s)

/-- The combination evaluated again after an event, `before` being its satisfaction before it (R94 to R98). -/
def combinationChanged (before : Bool) (s : State) : State :=
  if s.combination then
    if before then s
    else if s.balancer.lineLost then bumpRec .engineLineLost Config.engineSource s
    else lineLostOnset s
  else if s.balancer.lineLost && !s.hasRec .engineLineLost Config.engineSource then lineLostEnd s
  else s

/-! ## Flare fault (R99) -/

/-- Each slot of the list that the diversion took has the open-outlet rule applied again (R99). -/
def freeDiverted (taken : List Slot) (s : State) : State := examineSite false (applyOutletRules taken s)

/-- Flare fault status follows the accepted state of FLARE FAULT (R99). -/
def flareFaultChanged (s : State) : State :=
  let now := s.trips.flareFault.accepted
  if now = s.balancer.flareFault then s
  else
    let s := s.modBalancer fun b => { b with flareFault := now }
    let s := outletRuleAll true s
    let s :=
      if !now && s.balancer.lineLost && s.isDuty then
        let taken := s.rosters.engine.filter s.diverts
        freeDiverted taken (diversion s)
      else s
    offerLine (evaluateLine .flare s)

/-- The events that follow a change of accepted states: the combination for TRIP0 to TRIP3, then FLARE FAULT. Where one
command changes both, the order is the model's; R216 has both orders end alike (assumption 23). -/
def tripsChanged (before : Bool) (s : State) : State := flareFaultChanged (combinationChanged before s)

/-! ## Filters (R92, R93) -/

/-- One expiry of a filter with sampled state `x` (R92; the first after a reset, R93). -/
def TripFilter.expire (f : TripFilter) (x : Bool) : TripFilter :=
  if f.awaitingFirst then { f with accepted := x, candidate := none, awaitingFirst := false }
  else if x = f.accepted then { f with candidate := none }
  else if f.candidate = some x then { f with accepted := x, candidate := none }
  else { f with candidate := some x }

/-- A filter restarted by a command at time `t`: its candidate becomes absent and its accepted state stays (R93). -/
def TripFilter.restart (f : TripFilter) (t : Nat) : TripFilter :=
  { f with candidate := none, timer := t, awaitingFirst := false }

/-- A filter whose interval is off takes the raw level through its polarity at once (R93). -/
def TripFilter.follow (f : TripFilter) (activeLow : Bool) : TripFilter :=
  { f with accepted := readLevel activeLow f.rawHigh, candidate := none, awaitingFirst := false }

/-- The raw level of input `t` read through its polarity (R92). -/
def State.sampledState (s : State) (t : Trip) : Bool := readLevel (s.limits.activeLow.get t) (s.trips.get t).rawHigh

/-- A filter after a command that may have changed its interval or polarity (R93). -/
def State.refilter (s : State) (t : Trip) (intervalChanged polarityChanged : Bool) : TripFilter :=
  let f := s.trips.get t
  if intervalChanged || polarityChanged then
    match (s.site.intervals.get t).ms with
    | none => f.follow (s.limits.activeLow.get t)
    | some _ => f.restart s.timeBase
  else f

/-- Every input of interval off takes the raw level through its polarity (R93, at a reset). -/
def followOff (s : State) : State :=
  { s with
    trips := .ofFn fun t =>
      match (s.site.intervals.get t).ms with
      | none => (s.trips.get t).follow (s.limits.activeLow.get t)
      | some _ => s.trips.get t }

/-! ## Removal of a record (R116) -/

/-- The hold reason a well kind's removal takes away (R116). -/
def CondKind.reason : CondKind → Option Reason
  | .hotGas => some .hot
  | .oxygenHigh => some .oxygen
  | .actuatorFault => some .actuator
  | .vacuumLost => some .vacuum
  | .wellSilent => some .silent
  | _ => none

/-- The removal effects of R116 for a record just removed. -/
def removalEffects (r : CondRec) (s : State) : State :=
  match r.kind.reason with
  | some x =>
    match r.attached, slotOfSource r.source with
    | true, some i => setReason i x false s
    | _, _ => s
  | none => if r.kind = .engineLineLost && s.balancer.lineLost && !s.combination then lineLostEnd s else s

/-! ## Commands -/

/-- A command that has no effect while RESET is held (R208). -/
def whileRunning (f : State → State) (s : State) : State := if s.held then s else f s

/-- The expiry of input `t`'s verification timer (R92). -/
def filterExpiry (t : Trip) (s : State) : State :=
  match (s.site.intervals.get t).ms with
  | none => s
  | some ms =>
    let before := s.combination
    let due := (s.trips.get t).timer + ms
    let s := s.advanceTo due
    let x := s.sampledState t
    tripsChanged before (s.modTrip t fun f => ({ f with timer := due }).expire x)

/-- TRIP_FILTER_EXPIRY (R92): an input whose interval is off has no timer. -/
def execTripFilterExpiry (t : Trip) (s : State) : Host.Outcome State Fault Refusal :=
  .next (whileRunning (filterExpiry t) s)

/-- A change of the raw level of input `t`; on an input whose interval is off the accepted state follows (R93). -/
def inputChange (t : Trip) (high : Bool) (s : State) : State :=
  let before := s.combination
  let s := s.modTrip t fun f => { f with rawHigh := high }
  if s.held then s
  else
    match (s.site.intervals.get t).ms with
    | some _ => s
    | none =>
      let low := s.limits.activeLow.get t
      tripsChanged before (s.modTrip t (·.follow low))

/-- TRIP_INPUT_CHANGE (R93). The pin's level changes while RESET is held too. -/
def execTripInputChange (t : Trip) (high : Bool) (s : State) : Host.Outcome State Fault Refusal :=
  .next (inputChange t high s)

/-- The expiry of the report timer (R77, R102): both lines, then a LINE summary. -/
def reportExpiry (s : State) : State :=
  let due := s.balancer.reportTimer + s.site.reportInterval * 1000
  let s := (s.advanceTo due).modBalancer fun b => { b with reportTimer := due }
  offerLine (evaluateLine .flare (evaluateLine .engine s))

/-- REPORT_TIMER (R102). -/
def execReportTimer (s : State) : Host.Outcome State Fault Refusal := .next (whileRunning reportExpiry s)

/-- The demand timeout passes since the last accepted DEMAND, and the held demand becomes absent (R84). -/
def demandExpiry (s : State) : State :=
  match s.balancer.demand, s.balancer.demandArrival with
  | some _, some t =>
    (s.advanceTo (t + s.site.demandTimeout * 1000)).modBalancer fun b => { b with demand := none }
  | _, _ => s

/-- DEMAND_TIMEOUT (R84). -/
def execDemandTimeout (s : State) : Host.Outcome State Fault Refusal := .next (whileRunning demandExpiry s)

end Sys2Proof.Machine
end

