-- ==== Sys2Proof/Machine/Moves.lean ====
section
/-! DEFINITION. Good replies and misses at the well (R139, R7, R15, R50), excursions that raise (R43 to R49), echoes (R164 to
R168) and the commands MOVE_TIMEOUT and BUDGET_RESET's effect (R170, R173). -/

namespace Sys2Proof.Machine

/-! ## Good reply (R139) -/

/-- What follows the writing of a record at a good reply or an outlet change: a slot that joined a roster is handed to the
open-outlet rule (R19). `before` is the roster it stood on before. -/
def handJoin (i : Slot) (before : Option Line) (s : State) : State :=
  if (rosterLine (s.well i)).isSome && decide (rosterLine (s.well i) ≠ before) then outletRuleAt i s else s

/-- The pending field of a well that has had a good reply may enter its queue (R157). -/
def examineOwn (i : Slot) (s : State) : State :=
  match s.well i with
  | some w => if w.pendingProt.isSome then examinePending w.cfg.seg s else s
  | none => s

/-- A good reply of the well in slot `i` (R139): the miss count becomes 0 and answering yes. -/
def goodReply (i : Slot) (s : State) : State :=
  let before := rosterLine (s.well i)
  let s := modWell s i fun w => { w with missCount := 0, answering := true }
  handJoin i before (examineOwn i s)

/-! ## Misses (R139) -/

/-- The Command Queue's part when answering becomes no (R171): the move ends ABANDONED, and a PROTECTIVE entry not marked
sent moves into the pending field. -/
def silenceQueue (i : Slot) (s : State) : State :=
  let s := endMove i .abandoned s
  match s.protEntryOf i with
  | some e => if e.sent then s else
      match s.well i with
      | some w => removeEntry w.cfg.seg i (setPending i (some ⟨e.target, e.outlet⟩) s)
      | none => s
  | none => s

/-- Answering becomes no (R15, R50): the SILENT reason is added, WELL SILENT is raised with the miss count and the miss
limit (R46), and the Command Queue acts (R171). -/
def fallSilent (i : Slot) (s : State) : State :=
  match s.well i with
  | none => s
  | some w =>
    let s := putWell s i (some { w with answering := false, holds := w.holds.put .silent true })
    let s := raiseCond .wellSilent i.val (some (w.missCount : Int)) (some ((s.seg w.cfg.seg).settings.missLimit : Int)) s
    silenceQueue i s

/-- A miss of the well in slot `i` (R7, R139). -/
def missWell (i : Slot) (s : State) : State :=
  match s.well i with
  | none => s
  | some w =>
    let n := satInc Config.countCap w.missCount
    let s := putWell s i (some { w with missCount := n })
    if w.answering && decide ((s.seg w.cfg.seg).settings.missLimit ≤ n) then fallSilent i s else s

/-! ## Excursions (R43 to R49) -/

/-- The condition kind of an excursion kind. -/
def ExcKind.kind : ExcKind → CondKind
  | .hot => .hotGas
  | .oxygen => .oxygenHigh
  | .vacuum => .vacuumLost
  | .actuator => .actuatorFault

/-- The hold reason of an excursion kind (R44). -/
def ExcKind.reason : ExcKind → Reason
  | .hot => .hot
  | .oxygen => .oxygen
  | .vacuum => .vacuum
  | .actuator => .actuator

/-- The excursion count of kind `k` of slot `i` written. -/
def setCount (i : Slot) (k : ExcKind) (n : Nat) (s : State) : State :=
  modWell s i fun w => { w with excursions := w.excursions.put k n }

/-- The protective action of a kind just raised (R47), made while duty. -/
def protectiveAction (i : Slot) (k : ExcKind) (s : State) : State :=
  match s.well i with
  | none => s
  | some w =>
    if s.isDuty then
      match k with
      | .hot => makeProt i w.cfg.pmin s
      | .oxygen =>
        match w.target with
        | none => makeProt i w.cfg.pmin s
        | some t =>
          if wellState (some w) = .shut then makeProt i w.cfg.pmin s
          else makeProt i (clampNat w.cfg.pmin w.cfg.pmax (t - 2 * w.cfg.step)) s
      | .vacuum => s
      | .actuator => s
    else s

/-- An excursion of kind `k` on slot `i` (R43, third and fourth cases, R49): counted toward verification, at which the
condition is raised, its reason added and its protective action made (R44), or counted as a recurrence of the attached
record. The answer also tells whether the kind was raised or attached again. -/
def excursion (i : Slot) (k : ExcKind) (measured limit : Option Int) (s : State) : State × Bool :=
  match s.well i with
  | none => (s, false)
  | some w =>
    if s.attachedRec k.kind i.val then (bumpRec k.kind i.val (setCount i k 0 s), false)
    else
      let n := satInc Config.countCap (w.excursions.get k)
      if s.site.verify.get k ≤ n then
        let s := raiseCond k.kind i.val measured limit (setCount i k 0 s)
        (protectiveAction i k (setReason i k.reason true s), true)
      else (setCount i k n s, false)

/-! ## Echoes (R164 to R168) -/

/-- Step 2 of R164: the target and outlet are written, a change of outlet hands the well to the open-outlet rule, and the line
evaluations of the echo are made, before a move record opens and the entry leaves (R168 likewise; assumption 12). -/
def writeEcho (i : Slot) (target : Nat) (outlet : Line) (s : State) : State :=
  match s.well i with
  | none => s
  | some w =>
    let s := putWell s i (some { w with target := some target, outlet := outlet })
    runEvals (if outlet = w.outlet then s else outletRuleAt i s)

/-- Step 3 of R164: the move record of the sent copy opens. -/
def openMove (c : SentCopy) (s : State) : State :=
  match s.well c.slot with
  | none => s
  | some w =>
    let s := putWell s c.slot (some { w with move := some ⟨c.target, c.outlet, c.cls, c.travel, s.timeBase⟩ })
    s.modSeg w.cfg.seg fun q => { q with outstanding := q.outstanding + c.travel }

/-- The echoed SET belongs to the outstanding balancing move (R164 step 4, assumption 19). -/
def State.ownsBalancing (s : State) (c : SentCopy) : Bool := decide (c.cls = .balance) && s.balancingQueued c.slot

/-- Step 4 of R164. -/
def advanceBalancing (c : SentCopy) (s : State) : State :=
  if s.ownsBalancing c then s.modBalancer fun b => { b with move := b.move.map fun m => { m with phase := .moving } }
  else s

/-- A BALANCE entry overtaken at a good echo ends its balancing move NOT MADE, also where step 4 of R164 has just made its phase
MOVING: the entry was clamped while its SET was on the line (R91, R165). -/
def endOvertaken (e : Entry) (s : State) : State :=
  if e.cls = .balance && s.balancingOf e.slot then endBalancing .notMade s else s

/-- Step 5 of R164, by what stands in the queue for the well (R165). -/
def settleEntry (g : Seg) (i : Slot) (s : State) : State :=
  match (s.seg g).entryOf i with
  | none => s
  | some e =>
    if e.sent then examinePending g (s.modSeg g fun q => { q with queue := dropSlot i q.queue })
    else if e.isProt then s
    else
      examinePending g (endOvertaken e (s.modSeg g fun q =>
        { q with
          queue := dropSlot i q.queue
          counters := { q.counters with drops := counterInc q.counters.drops } }))

/-- The sent copy is removed. -/
def clearCopy (g : Seg) (s : State) : State := s.modSeg g fun q => { q with sentCopy := none }

/-- A good echo handled in the DUTY role (R164). -/
def goodEcho (g : Seg) (c : SentCopy) (s : State) : State :=
  let s := endMove c.slot .superseded s
  let s := writeEcho c.slot c.target c.outlet s
  let s := advanceBalancing c (openMove c s)
  testHead g (clearCopy g (settleEntry g c.slot s))

/-- An overheard echo, or one judged after a yield (R168): any move kept ends SUPERSEDED, no move record is made. -/
def overheardEcho (i : Slot) (target : Nat) (outlet : Line) (s : State) : State :=
  writeEcho i target outlet (endMove i .superseded s)

/-- A balancing move whose SET was sent before a yield ends NOT MADE at its echo, good or failed (R185). -/
def endSentBalancing (c : SentCopy) (s : State) : State := if s.ownsBalancing c then endBalancing .notMade s else s

/-- Slot `i`'s entry marked not sent (R167). -/
def unsend (g : Seg) (i : Slot) (s : State) : State :=
  s.modSeg g fun q => { q with queue := q.queue.map fun e => if e.slot = i then { e with sent := false } else e }

/-- What a failed echo of a non-protective copy does with the entry in the DUTY role (R166): the sent entry leaves, a changed one
stays, though the balancing move of a changed BALANCE entry ends all the same (assumption 43). -/
def failedOther (g : Seg) (c : SentCopy) (s : State) : State :=
  match (s.seg g).entryOf c.slot with
  | some e => if e.sent then removeEntry g c.slot s else s
  | none => s

/-- A failed echo of a PROTECTIVE copy in the DUTY role (R167), by the well's answering flag. -/
def failedProt (g : Seg) (c : SentCopy) (s : State) : State :=
  match (s.seg g).entryOf c.slot, s.well c.slot with
  | some e, some w =>
    if w.answering then unsend g c.slot s
    else removeEntry g c.slot (setPending c.slot (some ⟨e.target, e.outlet⟩) s)
  | _, _ => s

/-- A failed echo (R166, R167; in the STANDBY role R185). The balancing move of a BALANCE copy ends NOT MADE in either role, also where
a range change has clamped the entry meanwhile and the entry stays (R91, R166, R185; assumption 43). In STANDBY a PROTECTIVE copy's
command is written as it was sent: its outlet, ENGINE too while line-lost status is set (assumption 37), and its target, also where a
load has changed the range or the permitted outlets meanwhile (assumption 45). -/
def failedEcho (g : Seg) (c : SentCopy) (s : State) : State :=
  let s := clearCopy g (s.modCounters g fun x => { x with echoFailures := counterInc x.echoFailures })
  let s :=
    if c.cls = .protective then
      (if s.isDuty then failedProt g c s else setPending c.slot (some ⟨c.target, c.outlet⟩) s)
    else
      let s := endSentBalancing c s
      if s.isDuty then failedOther g c s else s
  refreshBudget g s

/-! ## Judging a move (R169) -/

/-- How an accepted sample ends the well's move, if it does (R169). -/
def moveEnding (tolerance : Nat) (m : MoveRec) (moving : Bool) (position : Nat) : Option Ending :=
  if moving then none else if dist position m.target ≤ tolerance then some .settled else some .short

/-! ## MOVE_TIMEOUT (R170) -/

/-- The end of slot `i`'s move TIMED OUT, with its ACTUATOR excursion (R49, R170, R46). -/
def timeOutMove (i : Slot) (s : State) : State :=
  match s.well i with
  | none => s
  | some w =>
    match w.move with
    | none => s
    | some m =>
      let measured : Option Int := match w.last with
        | some q => some q.position
        | none => w.target.map fun t => (t : Int)
      (excursion i .actuator measured (some (m.target : Int)) (endMove i .timedOut s)).1

/-- The move timeout of slot `i`'s move passes (R170). -/
def moveExpiry (i : Slot) (s : State) : State :=
  match (s.well i).bind (·.move), s.well i with
  | some m, some w => timeOutMove i (s.advanceTo (m.start + (s.seg w.cfg.seg).settings.moveTimeout * 1000))
  | _, _ => s

/-- MOVE_TIMEOUT (R170): a well without a move record has none to time out. -/
def execMoveTimeout (i : Slot) (s : State) : Host.Outcome State Fault Refusal := .next (whileRunning (moveExpiry i) s)

/-! ## BUDGET RESET (R173) -/

/-- The effect of BUDGET RESET on segment `g`; the queue is not touched (R173). -/
def budgetReset (g : Seg) (s : State) : State :=
  let s := releaseMoves .abandoned ((s.movesOf g).map (·.1)) s
  refreshBudget g (s.modSeg g fun q => { q with outstanding := 0 })

end Sys2Proof.Machine
end

