-- ==== Sys2Proof/Machine/Trim.lean ====
section
/-! DEFINITION. The Trim Unit: eligibility (R58, R59), the computation (R60 to R67), the trim SET (R66, R74) and the
range-change SET (R71). -/

namespace Sys2Proof.Machine

/-- The trim error e (R61): quality error less oxygen penalty less balance penalty. -/
def trimError (c : WellCfg) (x : GasBlock) : Int :=
  ((x.ch4 : Int) - c.ch4Target) - 4 * max 0 ((x.o2 : Int) - c.o2Soft) - max 0 ((x.balance : Int) - c.balanceCeiling)

/-- The raw step: the product formed whole, divided by 16 with truncation toward zero (R63). -/
def rawStep (c : WellCfg) (e : Int) : Int := Int.tdiv ((c.gain : Int) * e) 16

/-- The step after the step clamp (R64). -/
def clampedStep (c : WellCfg) (e : Int) : Int := clampInt (-(c.step : Int)) c.step (rawStep c e)

/-- The new target before the range clamp (R65). -/
def trimAim (c : WellCfg) (target : Nat) (e : Int) : Int := (target : Int) + clampedStep c e

/-- The new target n (R65). -/
def trimTarget (c : WellCfg) (target : Nat) (e : Int) : Int := clampInt c.pmin c.pmax (trimAim c target e)

/-- The outcome of an eligible sample (R67); a SET is made for the last three. -/
def trimOutcomeOf (c : WellCfg) (target : Nat) (e : Int) : TrimOutcome :=
  if e.natAbs ≤ c.deadband then .deadband
  else if trimTarget c target e = target then .noChange
  else if trimTarget c target e ≠ trimAim c target e then .rangeClamped
  else if clampedStep c e ≠ rawStep c e then .stepClamped
  else .applied

/-- The outcome tells that a trim SET was made (R67). -/
def TrimOutcome.makesSet : TrimOutcome → Bool
  | .applied | .stepClamped | .rangeClamped => true
  | .deadband | .noChange | .holdMode | .notTracking | .noGas | .moving | .standby => false

/-- The MOVING test (R59). -/
def State.trimMoving (s : State) (i : Slot) (w : Well) (q : Sample) : Bool :=
  q.moving || w.move.isSome || w.pendingProt.isSome ||
    (match s.entryOf i with
      | some e => !decide (e.cls = .trim)
      | none => false)

/-- The outcome the Trim Unit gives the sample just stored in slot `i`, by the order of R58 and R67. -/
def State.trimVerdict (s : State) (i : Slot) (w : Well) (q : Sample) : TrimOutcome :=
  if !s.isDuty then .standby
  else if s.link.mode = .hold then .holdMode
  else if wellState (some w) ≠ .tracking then .notTracking
  else
    match q.gas with
    | none => .noGas
    | some x =>
      if s.trimMoving i w q then .moving
      else
        match w.target with
        | none => .notTracking
        | some t => trimOutcomeOf w.cfg t (trimError w.cfg x)

/-- Step 4 of R39: the sample in slot `i`'s record is judged for trim; the SET, if any, is handed to the queue (R66), and the
outcome and step are returned. -/
def trimSample (i : Slot) (s : State) : State × TrimOutcome × Int :=
  match s.well i with
  | none => (s, .notTracking, 0)
  | some w =>
    match w.last, w.target with
    | some q, some t =>
      let o := s.trimVerdict i w q
      if o.makesSet then
        match q.gas with
        | some x =>
          let n := trimTarget w.cfg t (trimError w.cfg x)
          (arriveOther i n.toNat w.outlet .trim s, o, n - t)
        | none => (s, o, 0)
      else (s, o, 0)
    | some q, none => (s, s.trimVerdict i w q, 0)
    | none, _ => (s, .notTracking, 0)

/-- The conditions of the range-change SET, after R23 has applied the load (R71). -/
def State.rangeChangeDue (s : State) (i : Slot) (w : Well) (t : Nat) : Bool :=
  s.isDuty && (decide (wellState (some w) = .tracking) || decide (wellState (some w) = .held)) &&
    !decide (clampNat w.cfg.pmin w.cfg.pmax t = t) && !s.queued i && w.pendingProt.isNone

/-- The range-change SET (R71). -/
def rangeChangeSet (i : Slot) (s : State) : State :=
  match s.well i with
  | none => s
  | some w =>
    match w.target with
    | none => s
    | some t =>
      if s.rangeChangeDue i w t then arriveProt i (clampNat w.cfg.pmin w.cfg.pmax t) w.outlet s.countProt else s

end Sys2Proof.Machine
end

