-- ==== Sys2Proof/Machine/Samples.lean ====
section
/-! DEFINITION. Sample Intake: rejection (R33), clamps and completion (R34 to R37), the work of acceptance in the order of R39,
and the REPORT (R51, R52). -/

namespace Sys2Proof

open Machine

/-- A sample is malformed (R33). -/
def RawSample.malformed (r : RawSample) : Bool :=
  (match r.gas with
    | some (m, c, o) => decide (1000 < m) || decide (1000 < c) || decide (1000 < o)
    | none => false) ||
    r.faultBytes.any fun b => (faultOfCode b).isNone

/-- The distinct faults of a list of codes, each at its first appearance (R33). -/
def firstFaults (codes : List Nat) : List WellFault :=
  (codes.filterMap faultOfCode).foldl (fun acc f => if f ∈ acc then acc else acc ++ [f]) []

/-- The gas block with its derived balance (R35). -/
def gasBlockOf (m c o : Nat) : GasBlock := ⟨m, c, o, 1000 - m - c - o⟩

/-- The values a sample is stored with, at time `t` in a well of assumed flow `a` (R34 to R37). -/
def RawSample.stored (r : RawSample) (a t : Nat) : Sample :=
  let position := clampNat 0 1000 r.position
  { gas := r.gas.map fun x => gasBlockOf x.1 x.2.1 x.2.2
    pressure := clampInt (-30000) 5000 r.pressure
    temperature := r.temperature.map (clampInt (-40) 120)
    flow := match r.flow with
      | some f => clampNat 0 4000 f
      | none => a * position / 1000
    flowMeasured := r.flow.isSome
    position := position
    moving := r.moving
    faults := firstFaults r.faultBytes
    time := t }

/-- The clamp markers of a sample (R34). -/
def RawSample.marks (r : RawSample) : ClampMarks where
  position := !decide (clampNat 0 1000 r.position = r.position)
  flow := match r.flow with
    | some f => !decide (clampNat 0 4000 f = f)
    | none => false
  pressure := !decide (clampInt (-30000) 5000 r.pressure = r.pressure)
  temperature := match r.temperature with
    | some x => !decide (clampInt (-40) 120 x = x)
    | none => false

end Sys2Proof

namespace Sys2Proof.Machine

/-- Step 1 of R39: the sample is stored whole, the good reply applied, and an absent target takes the position (R37). An
accepted sample of a roster member asks for an evaluation of its line (R19). -/
def storeSample (i : Slot) (r : RawSample) (s : State) : State :=
  match s.well i with
  | none => s
  | some w =>
    let q := r.stored w.cfg.assumedFlow s.timeBase
    let target := match w.target with
      | some t => some t
      | none => some q.position
    let before := rosterLine (some w)
    let s := putWell s i (some { w with last := some q, target := target, answering := true, missCount := 0 })
    let s := s.askEvalOf (rosterLine (s.well i))
    handJoin i before (examineOwn i s)

/-- Step 2 of R39: the well's move is judged (R169). The answer also carries the ending and the target of the move ended. -/
def judgeMove (i : Slot) (s : State) : State × Option (Ending × Nat) :=
  match s.well i with
  | none => (s, none)
  | some w =>
    match w.move, w.last with
    | some m, some q =>
      match moveEnding (s.seg w.cfg.seg).settings.settleTolerance m q.moving q.position with
      | some r => (endMove i r s, some (r, m.target))
      | none => (s, none)
    | _, _ => (s, none)

/-- The excursion test of a kind on a stored sample; none when the sample lacks the field (R42). -/
def excursionTest (k : ExcKind) (lim : Limits) (q : Sample) (endedShort : Bool) : Option Bool :=
  match k with
  | .hot => q.temperature.map fun x => decide (lim.hotGas ≤ x)
  | .oxygen => q.gas.map fun x => decide (lim.oxygenHard ≤ x.o2)
  | .vacuum => if WellFault.pressureSensor ∈ q.faults then none else some (decide (lim.vacuumLoss < q.pressure))
  | .actuator => some (decide (WellFault.actuator ∈ q.faults) || endedShort)

/-- The measured value and the limit of a kind raised by a sample (R46). -/
def raiseValues (k : ExcKind) (lim : Limits) (q : Sample) (actuatorLimit : Option Nat) : Option Int × Option Int :=
  match k with
  | .hot => (q.temperature, some lim.hotGas)
  | .oxygen => (q.gas.map fun x => (x.o2 : Int), some (lim.oxygenHard : Int))
  | .vacuum => (some q.pressure, some lim.vacuumLoss)
  | .actuator => (some (q.position : Int), actuatorLimit.map fun t => (t : Int))

/-- What step 3 gathers for the REPORT (R51). -/
structure ExcResult where
  excursions : PerExc Bool
  raised : PerExc Bool
  deriving DecidableEq, Repr

/-- No excursion and nothing raised. -/
def ExcResult.none : ExcResult := ⟨⟨false, false, false, false⟩, ⟨false, false, false, false⟩⟩

/-- One kind of step 3 of R39 on the sample `q` of slot `i` (R43). -/
def testKind (i : Slot) (q : Sample) (ended : Option (Ending × Nat)) (k : ExcKind) (x : State × ExcResult) :
    State × ExcResult :=
  let s := x.1
  let short := match ended with
    | some e => decide (e.1 = .short)
    | none => false
  match excursionTest k s.limits q short with
  | none => x
  | some false => (setCount i k 0 s, x.2)
  | some true =>
    let limit := match ended with
      | some e => some e.2
      | none => (s.well i).bind (·.target)
    let v := raiseValues k s.limits q limit
    let y := excursion i k v.1 v.2 s
    (y.1, { excursions := x.2.excursions.put k true, raised := x.2.raised.put k y.2 })

/-- Step 3 of R39: the four kinds in the order HOT, OXYGEN, VACUUM, ACTUATOR. -/
def testSample (i : Slot) (q : Sample) (ended : Option (Ending × Nat)) (s : State) : State × ExcResult :=
  testKind i q ended .actuator (testKind i q ended .vacuum (testKind i q ended .oxygen
    (testKind i q ended .hot (s, ExcResult.none))))

/-- The REPORT of an accepted sample, from the record at step 5 of R39 (R51). -/
def reportOf (s : State) (i : Slot) (w : Well) (q : Sample) (marks : ClampMarks) (missBefore : Nat) (x : ExcResult)
    (ended : Option Ending) (command : Option Cls) (trim : TrimOutcome) (step : Int) : Report where
  slot := i
  address := w.cfg.address
  seg := w.cfg.seg
  role := s.unit.role
  sample := q
  marks := marks
  state := wellState (some w)
  holds := w.holds
  forced := w.forced
  target := w.target
  outlet := w.outlet
  missCount := missBefore
  excursions := x.excursions
  raised := x.raised
  moveEnd := ended
  command := command
  trimOutcome := trim
  step := step

/-- The class of the SET a sample caused (R51): PROTECTIVE where one was made since `madeBefore`, else TRIM where the Trim Unit
made one. -/
def commandMade (madeBefore madeAfter : Nat) (trim : TrimOutcome) : Option Cls :=
  if madeBefore < madeAfter then some .protective else if trim.makesSet then some .trim else none

/-- The work an accepted sample sets off (R39); step 6 is made at the end of the event by `runEvals`. -/
def acceptSample (i : Slot) (r : RawSample) (s : State) : State :=
  match s.well i with
  | none => s
  | some w0 =>
    let q := r.stored w0.cfg.assumedFlow s.timeBase
    let j := judgeMove i (storeSample i r s)
    let x := testSample i q j.2 j.1
    let t := trimSample i x.1
    match t.1.well i with
    | none => t.1
    | some w =>
      let command := commandMade s.protMade x.1.protMade t.2.1
      offerRoutine
        (.report (reportOf t.1 i w q r.marks w0.missCount x.2 (j.2.map (·.1)) command t.2.1 t.2.2)) t.1

/-- Intake of a credited SAMPLE (R32): rejected and counted (R33), or accepted; the answer tells which. -/
def creditSample (g : Seg) (i : Slot) (payload : List Byte) (s : State) : State × Bool :=
  let r := RawSample.parse payload
  if r.malformed then (s.modCounters g fun c => { c with rejected := counterInc c.rejected }, false)
  else (acceptSample i r s, true)

end Sys2Proof.Machine
end

