-- ==== Sys2Proof/Machine/Role.lean ====
section
/-! DEFINITION. The Role Unit: the yield (R184, R185), ROLE CONFLICT (R186), ROLE notices (R187), the silence takeover (R178,
R179) and the command SILENCE_TAKEOVER. -/

namespace Sys2Proof.Machine

/-! ## The yield -/

/-- Steps 1 and 2 of a yield on segment `g`: the presence timer stops, and a frame being transmitted is cut off, its transaction
over with no reply window (R184, R185). A PROTECTIVE copy's command is written as it was sent: its outlet, ENGINE too while line-lost
status is set (assumption 37), and its target (assumption 45). -/
def cutOff (s : State) (g : Seg) : State :=
  let q := s.seg g
  let s := s.modSeg g fun q => { q with presenceTimer := none, presenceDue := false }
  match q.sending with
  | none => s
  | some _ =>
    let s := s.modSeg g fun q => { q with sending := none, txn := none, sentCopy := none }
    match q.sentCopy with
    | none => s
    | some c =>
      if c.cls = .protective then setPending c.slot (some ⟨c.target, c.outlet⟩) s
      else if c.cls = .balance && s.balancingQueued c.slot then endBalancing .notMade s
      else s

/-- What a yield does with one entry that leaves the queue (R184 step 3): an unsent BALANCE entry ends its balancing move, one
clamped while its SET is on the line too (assumption 40); a PROTECTIVE one not marked sent goes into the pending field, and the
open-outlet rule is applied to its well (R100). -/
def yieldEntry (s : State) (e : Entry) : State :=
  if e.cls = .balance then (if e.sent then s else leaveEffects e s)
  else if e.cls = .protective then
    outletRuleAt e.slot (if e.sent then s else setPending e.slot (some ⟨e.target, e.outlet⟩) s)
  else s

/-- Segment `g`'s queue emptied by a yield, the entries leaving uncounted (R184 step 3). -/
def emptyQueue (s : State) (g : Seg) : State :=
  (s.seg g).queue.foldl yieldEntry (s.modSeg g fun q => { q with queue := [] })

/-- The number of entries in the four queues. -/
def State.queuedCount (s : State) : Nat := (Seg.all.map fun g => (s.seg g).queue.length).sum

/-- The effects of a yield (R184, R185). -/
def yieldRole (s : State) : State :=
  let s := s.modUnit fun u => { u with role := .standby, silenceStart := some s.timeBase }
  Seg.all.foldl emptyQueue (Seg.all.foldl cutOff s)

/-- ROLE CONFLICT raised, or its recurrence counted (R186). -/
def raiseConflict (s : State) : State :=
  raiseCond .roleConflict Config.siteSource (some (s.otherAddress : Int)) none s

/-- The ROLE notice of a change to STANDBY on segment `g` (R187). -/
def standbyNotice (s : State) (cause : RoleCause) (g : Seg) (removed : Nat) : RoleNotice where
  time := s.timeBase
  role := .standby
  previous := .duty
  cause := cause
  own := s.ownAddress
  other := some (s.otherAddress, g)
  takeover := none
  removed := some removed

/-- A duty controller yields, raises ROLE CONFLICT and offers its ROLE notice (R181 steps 3 to 5, R183). -/
def yieldTo (cause : RoleCause) (g : Seg) (s : State) : State :=
  let removed := s.queuedCount
  let s := raiseConflict (yieldRole s)
  offerUrgent (.role (standbyNotice s cause g removed)) s

/-! ## The silence takeover -/

/-- A well given a takeover SET (R179). -/
def State.takeoverDue (s : State) (i : Slot) : Bool :=
  match s.well i with
  | some w =>
    decide (wellState (some w) = .shut) &&
      (match w.target with
        | some t => decide (w.cfg.pmin < t)
        | none => false) &&
      (s.protEntryOf i).isNone && w.pendingProt.isNone
  | none => false

/-- The protective SETs of a takeover over a list of slots (R179). -/
def takeoverSets : List Slot → State → State
  | [], s => s
  | i :: rest, s =>
    takeoverSets rest
      (match s.well i with
        | some w => if s.takeoverDue i then makeProt i w.cfg.pmin s else s
        | none => s)

/-- The slots with a move record, ascending. -/
def State.moving (s : State) : List Slot :=
  allSlots.filter fun i => ((s.well i).bind (·.move)).isSome

/-- The ROLE notice of a takeover (R187). -/
def takeoverNotice (s : State) (abandoned made : Nat) : RoleNotice where
  time := s.timeBase
  role := .duty
  previous := .standby
  cause := .takeover
  own := s.ownAddress
  other := none
  takeover := some (abandoned, made)
  removed := none

/-- Steps 1 and 2 of a takeover (R178). -/
def becomeDuty (s : State) : State :=
  let s := s.modUnit fun u => { u with role := .duty, silenceStart := none }
  { s with segs := s.segs.map fun q => { q with presenceDue := true } }

/-- The nine steps of a takeover (R178). -/
def takeover (s : State) : State :=
  let moves := s.moving
  let s := releaseMoves .abandoned moves (becomeDuty s)
  let before := s.protMade
  let s := if s.balancer.lineLost && s.isOpen .flare then diversion s else s
  let s := takeoverSets allSlots (outletRuleAll false s)
  let made := s.protMade - before
  let s := evalTaking (examineAll s)
  offerUrgent (.role (takeoverNotice s moves.length made)) s

/-- The expiry of the silence timer (R176, R178): it runs only in STANDBY. -/
def silenceExpiry (s : State) : State :=
  match s.unit.role, s.unit.silenceStart with
  | .standby, some t => runEvals (takeover (s.advanceTo (t + s.silenceInForce)))
  | _, _ => s

/-- SILENCE_TAKEOVER (R178). -/
def execSilenceTakeover (s : State) : Host.Outcome State Fault Refusal := .next (whileRunning silenceExpiry s)

end Sys2Proof.Machine
end

