-- ==== Sys2Proof/Machine/Field.lean ====
section
/-! DEFINITION. The Segment Controllers: turns (R132, R140 to R143, R161, R163), transmission and arbitration (R133, R137, R180
to R182), and reception (R129, R133 to R136, R144 to R148, R183). -/

namespace Sys2Proof.Machine

/-! ## Turns -/

/-- A transaction may begin on an idle line (R132); an overheard transaction still open is judged to its end first (R178,
assumption 29). -/
def State.canBegin (s : State) (g : Seg) : Bool :=
  let q := s.seg g
  s.isDuty && q.txn.isNone && q.sending.isNone && q.overheard.isNone

/-- A slot is pollable on segment `g` in round `r` (R143). -/
def State.pollable (s : State) (g : Seg) (r : Fin 8) (i : Slot) : Bool :=
  match s.well i with
  | some w => w.cfg.inService && decide (w.cfg.seg = g) && (w.answering || decide (r = 0))
  | none => false

/-- A slot is loaded and in service on segment `g` (R143). -/
def State.servedOn (s : State) (g : Seg) (i : Slot) : Bool :=
  match s.well i with
  | some w => w.cfg.inService && decide (w.cfg.seg = g)
  | none => false

/-- The search after `n` more wraps at most, each advancing the round (R143). -/
def searchRounds (s : State) (g : Seg) : Nat → Fin 8 → Option (Slot × Fin 8)
  | 0, _ => none
  | n + 1, r =>
    match allSlots.find? (s.pollable g (r + 1)) with
    | some i => some (i, r + 1)
    | none => searchRounds s g n (r + 1)

/-- The poll search of R143: the slot polled and the round count it is polled in. -/
def State.nextPoll (s : State) (g : Seg) : Option (Slot × Fin 8) :=
  let q := s.seg g
  if allSlots.any (s.servedOn g) then
    let after := match q.position with
      | some p => allSlots.filter fun i => decide (p < i)
      | none => allSlots
    match after.find? (s.pollable g q.round) with
    | some i => some (i, q.round)
    | none => searchRounds s g 8 q.round
  else none

/-- What a turn of the pattern chooses (R140). -/
inductive Turn where
  | poll (i : Slot) (round : Fin 8)
  | set (e : Entry)
  | idle
  deriving DecidableEq, Repr

/-- The head entry, when it is sendable (R161). -/
def State.sendableHead (s : State) (g : Seg) : Option Entry :=
  match (s.seg g).queue with
  | e :: _ => if s.sendable g e then some e else none
  | [] => none

/-- The choice at the pattern entry of the pointer (R140). Where the head is looked at, over-budget heads leave (R161). -/
def chooseTurn (g : Seg) (s : State) : State × Turn :=
  if (s.seg g).settings.pattern.getLsbD (s.seg g).pointer.val then
    match s.nextPoll g with
    | some x => (s, .poll x.1 x.2)
    | none =>
      let s := testHead g s
      match s.sendableHead g with
      | some e => (s, .set e)
      | none => (s, .idle)
  else
    let s := testHead g s
    match s.sendableHead g with
    | some e => (s, .set e)
    | none =>
      match s.nextPoll g with
      | some x => (s, .poll x.1 x.2)
      | none => (s, .idle)

/-- A transaction begins on segment `g` with frame `f` (R132): the transaction counter rises, a loaded bit rate comes into
force (R131), at this segment's own next transmission (assumption 38), and what the beginning changes is kept for a loss of
arbitration (R181). -/
def beginTxn (g : Seg) (kind : TxnKind) (slot : Option Slot) (dest : Nat) (f : FieldFrame) (advances : Bool) (s : State) :
    State :=
  s.modSeg g fun q =>
    { q with
      rateInForce := q.settings.rate
      pointer := if advances then q.pointer + 1 else q.pointer
      txn := some
        { kind := kind
          slot := slot
          dest := dest
          began := s.timeBase
          timeout := q.settings.replyTimeout
          window := none
          undo :=
            { pointer := if advances then some q.pointer else none
              position := q.position
              round := q.round
              counted := decide (q.counters.transactions < Config.counterCap) } }
      sending := some f
      counters := { q.counters with transactions := counterInc q.counters.transactions } }

/-- A POLL of slot `i` begins (R132, R143). -/
def beginPoll (g : Seg) (i : Slot) (round : Fin 8) (s : State) : State :=
  match s.well i with
  | none => s
  | some w =>
    (beginTxn g .poll (some i) w.cfg.address (.poll s.ownAddress w.cfg.address) true s).modSeg g fun q =>
      { q with position := some i, round := round }

/-- The head entry is sent as a SET (R163). -/
def beginSet (g : Seg) (e : Entry) (s : State) : State :=
  match s.well e.slot with
  | none => s
  | some w =>
    let travel := s.entryTravel e
    (beginTxn g .set (some e.slot) w.cfg.address
      (.set s.ownAddress w.cfg.address e.target e.outlet e.cls) true s).modSeg g fun q =>
        { q with
          queue := replaceSlot e.slot { e with sent := true } q.queue
          sentCopy := some ⟨e.slot, e.target, e.outlet, e.cls, travel⟩ }

/-- Segment `g` takes its turn; a due PRESENCE goes first (R140), and `want` tells which choices the command stands for. -/
def takeTurn (g : Seg) (want : Turn → Bool) (s : State) : State :=
  if s.canBegin g && !(s.seg g).presenceDue then
    let x := chooseTurn g s
    if want x.2 then
      match x.2 with
      | .poll i r => beginPoll g i r x.1
      | .set e => beginSet g e x.1
      | .idle => x.1
    else x.1
  else s

/-- The turn polls. -/
def Turn.isPoll : Turn → Bool
  | .poll _ _ => true
  | .set _ | .idle => false

/-- The turn sends a SET. -/
def Turn.isSet : Turn → Bool
  | .set _ => true
  | .poll _ _ | .idle => false

/-- POLL (R143). -/
def execPoll (g : Seg) (s : State) : Host.Outcome State Fault Refusal := .next (whileRunning (takeTurn g Turn.isPoll) s)

/-- SET (R163). -/
def execSet (g : Seg) (s : State) : Host.Outcome State Fault Refusal := .next (whileRunning (takeTurn g Turn.isSet) s)

/-- The presence timer of segment `g` expires (R142). -/
def presenceExpiry (g : Seg) (s : State) : State :=
  match (s.seg g).presenceTimer with
  | some t =>
    if s.isDuty then
      (s.advanceTo (t + Config.presenceMs)).modSeg g fun q => { q with presenceTimer := none, presenceDue := true }
    else s
  | none => s

/-- PRESENCE_TIMER_EXPIRY (R142). -/
def execPresenceTimerExpiry (g : Seg) (s : State) : Host.Outcome State Fault Refusal :=
  .next (whileRunning (presenceExpiry g) s)

/-- A due PRESENCE is sent (R137, R142). -/
def sendPresence (g : Seg) (s : State) : State :=
  if s.canBegin g && (s.seg g).presenceDue then
    (beginTxn g .presence none Config.broadcast (.presence s.ownAddress) false s).modSeg g fun q =>
      { q with presenceDue := false }
  else s

/-- PRESENCE (R137). -/
def execPresence (g : Seg) (s : State) : Host.Outcome State Fault Refusal := .next (whileRunning (sendPresence g) s)

/-! ## The end of a transmission -/

/-- The transaction after its frame: a reply window opens for a POLL or SET, and a PRESENCE ends (R133, R137). -/
def Txn.transmitted (t : Txn) (now : Nat) : Option Txn :=
  match t.kind with
  | .presence => none
  | .poll | .set => some { t with window := some now }

/-- The frame segment `g` is transmitting completes; while duty the presence timer restarts (R133, R142). -/
def frameSent (g : Seg) (s : State) : State :=
  match (s.seg g).sending with
  | none => s
  | some _ =>
    s.modSeg g fun q =>
      { q with
        sending := none
        txn := q.txn.bind (·.transmitted s.timeBase)
        presenceTimer := if s.isDuty then some s.timeBase else q.presenceTimer }

/-- FRAME_TRANSMITTED (R133). -/
def execFrameTransmitted (g : Seg) (s : State) : Host.Outcome State Fault Refusal := .next (whileRunning (frameSent g) s)

/-! ## Arbitration (R181, R182) -/

/-- The transaction counter of a segment without the transaction that was not begun (R181). -/
def uncount (counted : Bool) (c : SegCounters) : SegCounters :=
  { c with transactions := if counted then c.transactions - 1 else c.transactions }

/-- The transaction that was being begun on segment `g` is not begun (R181 step 2): counter, pointer, position and round stand
as before, a SET's entry is not sent and its copy gone, and a PRESENCE is due again. -/
def unbegin (g : Seg) (s : State) : State :=
  match (s.seg g).txn with
  | none => s.modSeg g fun q => { q with sending := none }
  | some t =>
    let s := s.modSeg g fun q =>
      { q with
        sending := none
        txn := none
        pointer := t.undo.pointer.getD q.pointer
        position := t.undo.position
        round := t.undo.round
        counters := uncount t.undo.counted q.counters }
    match t.kind, t.slot with
    | .presence, _ => s.modSeg g fun q => { q with presenceDue := true }
    | .set, some i => clearCopy g (unsend g i s)
    | .set, none => clearCopy g s
    | .poll, _ => s

/-- Segment `g` loses arbitration to a frame of source `winner` (R181, R182). A loss found in STANDBY raises the counter alone
(R185). The numerically lower address wins, so a loss to the own address or a higher one does not occur (R180; assumption 1). -/
def loseArbitration (g : Seg) (winner : Nat) (s : State) : State :=
  if s.ownAddress ≤ winner then s else
  let lost := s.modCounters g fun c => { c with arbitrationLosses := counterInc c.arbitrationLosses }
  match (s.seg g).sending with
  | none => if s.isDuty then s else lost
  | some _ =>
    let s := unbegin g lost
    if s.isDuty && decide (winner = s.otherAddress) then runEvals (yieldTo .arbitration g s) else s

/-- ARBITRATION_LOSS (R181). -/
def execArbitrationLoss (g : Seg) (winner : Nat) (s : State) : Host.Outcome State Fault Refusal :=
  .next (whileRunning (loseArbitration g winner) s)

/-! ## Reception -/

/-- One more foreign reply (R150). -/
def countForeign (g : Seg) (s : State) : State :=
  s.modCounters g fun c => { c with foreignReplies := counterInc c.foreignReplies }

/-- One more miss of the segment (R150). -/
def countMiss (g : Seg) (s : State) : State := s.modCounters g fun c => { c with misses := counterInc c.misses }

/-- The transaction of segment `g` that awaits its reply: its window has opened (R133). -/
def State.awaiting (s : State) (g : Seg) : Option Txn := (s.seg g).txn.filter fun t => t.window.isSome

/-- The transaction ends. -/
def endTxn (g : Seg) (s : State) : State := s.modSeg g fun q => { q with txn := none }

/-- The transaction `t` of segment `g` ends as a miss (R134, R136, R139): the well's miss first, then a SET's failed echo. -/
def missTxn (g : Seg) (t : Txn) (s : State) : State :=
  let i := s.addressedWell g t
  let s := countMiss g (endTxn g s)
  let s := match i with
    | some i => missWell i s
    | none => s
  match t.kind, (s.seg g).sentCopy with
  | .set, some c => failedEcho g c s
  | _, _ => s

/-- The overheard transaction closes. -/
def closeOverheard (g : Seg) (s : State) : State := s.modSeg g fun q => { q with overheard := none }

/-- The overheard transaction `o` ends as a miss (R147, R148): the segment's miss counter rises, also where no well record is
touched (R150), and the destination is charged where it is loaded, in service and on the segment. -/
def missOverheard (g : Seg) (o : Overheard) (s : State) : State :=
  let s := countMiss g (closeOverheard g s)
  match s.wellAt g o.dest with
  | some i => missWell i s
  | none => s

/-- The overheard transaction `o` closes with no reply, at a controller's frame or at its timeout (R146): a miss where its
destination is served, and else it closes alone (assumption 16). -/
def lapseOverheard (g : Seg) (o : Overheard) (s : State) : State :=
  match s.wellAt g o.dest with
  | some _ => missOverheard g o s
  | none => closeOverheard g s

/-- An exchange of segment `g` that is open ends: an own one as a miss, an overheard one as `finish` says. -/
def endOpen (g : Seg) (finish : Seg → Overheard → State → State) (s : State) : State :=
  match s.awaiting g with
  | some t => missTxn g t s
  | none =>
    match (s.seg g).overheard with
    | some o => finish g o s
    | none => s

/-- A frame is abandoned or fails its check: one check error, and a miss of the exchange it answered (R129, R134, R147,
R148). -/
def receptionError (g : Seg) (s : State) : State :=
  endOpen g missOverheard (s.modCounters g fun c => { c with checkErrors := counterInc c.checkErrors })

/-- A frame of the controller's own address that it did not send (R145, R146). -/
def ownFrame (g : Seg) (s : State) : State := endOpen g lapseOverheard (countForeign g s)

/-- A frame of the other controller opens an overheard transaction when it is a POLL or SET of an allowed length (R146). -/
def openOverheard (g : Seg) (f : FieldFrame) (s : State) : State :=
  if f.isPoll || f.isSet then
    s.modSeg g fun q =>
      { q with
        overheard := some
          { kind := if f.isSet then .set else .poll
            dest := f.destination
            src := f.source
            target := if f.isSet then wordAt f.payload 0 else 0
            outlet := if f.isSet then lineOfCode (byteAt f.payload 2) else none
            cls := if f.isSet then clsOfCode (byteAt f.payload 3) else none
            ended := s.timeBase
            timeout := q.settings.replyTimeout }
        counters := { q.counters with transactions := counterInc q.counters.transactions } }
  else s

/-- The Role Unit on a complete frame of the other controller (R174, R176, R183, R186): in STANDBY the silence timer restarts
and the frame may open an overheard transaction, at 251 a duty controller yields, at 250 it raises ROLE CONFLICT. -/
def hearOther (g : Seg) (f : FieldFrame) (s : State) : State :=
  let s := s.modUnit fun u => { u with lastOther := some (s.timeBase, g) }
  if s.isDuty then (if s.unit.strapHigh then yieldTo .yielded g s else raiseConflict s)
  else openOverheard g f (s.modUnit fun u => { u with silenceStart := some s.timeBase })

/-- A frame of the other controller address (R145, R146, R183). -/
def otherFrame (g : Seg) (f : FieldFrame) (s : State) : State :=
  let s := match s.awaiting g with
    | some t => missTxn g t (countForeign g s)
    | none =>
      match (s.seg g).overheard with
      | some o => lapseOverheard g o s
      | none => s
  hearOther g f s

/-- A good ECHO of the SET whose copy is `c`, handled in the role the controller holds (R136, R149, R164, R168, R185). -/
def takeEcho (g : Seg) (c : SentCopy) (s : State) : State :=
  let s := goodReply c.slot s
  if s.isDuty then goodEcho g c s
  else clearCopy g (endSentBalancing c (overheardEcho c.slot c.target c.outlet s))

/-- The frame is an ECHO of this target and outlet (R134, R212). -/
def echoMatches (f : FieldFrame) (target : Nat) (outlet : Option Line) : Bool :=
  decide (f.echoTarget = target) && decide (f.echoOutlet = outlet) && outlet.isSome

/-- The reply to a POLL that has passed the FOREIGN test (R134, R135). -/
def judgePoll (g : Seg) (t : Txn) (f : FieldFrame) (s : State) : State :=
  if f.isSample then
    match s.addressedWell g t with
    | some i =>
      let x := creditSample g i f.payload s
      if x.2 then endTxn g x.1 else missTxn g t x.1
    | none => missTxn g t s
  else missTxn g t s

/-- The reply to a SET that has passed the FOREIGN test (R134, R136). -/
def judgeSet (g : Seg) (t : Txn) (f : FieldFrame) (s : State) : State :=
  match s.addressedWell g t, (s.seg g).sentCopy with
  | some _, some c =>
    if f.isEcho && echoMatches f c.target (some c.outlet) then takeEcho g c (endTxn g s) else missTxn g t s
  | _, _ => missTxn g t s

/-- A wellhead's frame is the reply of the transaction `t` (R134). -/
def judgeReply (g : Seg) (t : Txn) (f : FieldFrame) (s : State) : State :=
  if f.source = t.dest && f.destination = s.ownAddress then
    match t.kind with
    | .set => judgeSet g t f s
    | .poll | .presence => judgePoll g t f s
  else missTxn g t (countForeign g s)

/-- The reply to an overheard exchange with a destination that is not loaded, in service and on this segment (R147, R148): a
foreign reply, which touches no record, and a miss too where it fails an earlier test (assumption 16). -/
def judgeUnserved (g : Seg) (o : Overheard) (passes : Bool) (s : State) : State :=
  if passes then closeOverheard g (countForeign g s) else missOverheard g o (countForeign g s)

/-- The reply to an overheard POLL whose source and destination agree (R147). -/
def judgeOverheardPoll (g : Seg) (o : Overheard) (f : FieldFrame) (s : State) : State :=
  match s.wellAt g o.dest with
  | some i =>
    if f.isSample then
      let x := creditSample g i f.payload s
      if x.2 then closeOverheard g x.1 else missOverheard g o x.1
    else missOverheard g o s
  | none => judgeUnserved g o f.isSample s

/-- The reply to an overheard SET whose source and destination agree (R148). -/
def judgeOverheardSet (g : Seg) (o : Overheard) (f : FieldFrame) (s : State) : State :=
  let passes := f.isEcho && echoMatches f o.target o.outlet
  match s.wellAt g o.dest, o.outlet with
  | some i, some l =>
    if passes then overheardEcho i o.target l (goodReply i (closeOverheard g s)) else missOverheard g o s
  | some _, none => missOverheard g o s
  | none, _ => judgeUnserved g o passes s

/-- A wellhead's frame is the reply of the overheard transaction `o` (R147, R148). -/
def judgeOverheard (g : Seg) (o : Overheard) (f : FieldFrame) (s : State) : State :=
  if f.source = o.dest && f.destination = o.src then
    match o.kind with
    | .set => judgeOverheardSet g o f s
    | .poll | .presence => judgeOverheardPoll g o f s
  else missOverheard g o (countForeign g s)

/-- A frame from a wellhead address: a reply, an overheard reply, or a stray frame (R129, R144). -/
def wellheadFrame (g : Seg) (f : FieldFrame) (s : State) : State :=
  match s.awaiting g with
  | some t => judgeReply g t f s
  | none =>
    match (s.seg g).overheard with
    | some o => judgeOverheard g o f s
    | none => countForeign g s

/-- A frame completes on segment `g` and is judged by its source (R129). A payload above 24 abandons the frame. -/
def receiveFrame (g : Seg) (f : FieldFrame) (s : State) : State :=
  runEvals
    (if decide (Config.maxFieldPayload < f.payload.length) || !f.checkGood then receptionError g s
    else if f.source = s.ownAddress then ownFrame g s
    else if f.source = s.otherAddress then otherFrame g f s
    else wellheadFrame g f s)

/-- SAMPLE (R135, R147). -/
def execSample (g : Seg) (f : FieldFrame) (s : State) : Host.Outcome State Fault Refusal :=
  .next (whileRunning (receiveFrame g f) s)

/-- ECHO (R136, R148). -/
def execEcho (g : Seg) (f : FieldFrame) (s : State) : Host.Outcome State Fault Refusal :=
  .next (whileRunning (receiveFrame g f) s)

/-- OTHER_CONTROLLER_FRAME (R183). -/
def execOtherControllerFrame (g : Seg) (f : FieldFrame) (s : State) : Host.Outcome State Fault Refusal :=
  .next (whileRunning (receiveFrame g f) s)

/-- STRAY_FRAME (R144). -/
def execStrayFrame (g : Seg) (f : FieldFrame) (s : State) : Host.Outcome State Fault Refusal :=
  .next (whileRunning (receiveFrame g f) s)

/-- FIELD_CHECK_FAILURE (R129). -/
def execFieldCheckFailure (g : Seg) (f : FieldFrame) (s : State) : Host.Outcome State Fault Refusal :=
  .next (whileRunning (receiveFrame g f) s)

/-- REPLY_OF_WRONG_KIND (R134). -/
def execReplyOfWrongKind (g : Seg) (f : FieldFrame) (s : State) : Host.Outcome State Fault Refusal :=
  .next (whileRunning (receiveFrame g f) s)

/-- OWN_ADDRESS_FRAME (R145). -/
def execOwnAddressFrame (g : Seg) (f : FieldFrame) (s : State) : Host.Outcome State Fault Refusal :=
  .next (whileRunning (receiveFrame g f) s)

/-- FIELD_FRAME_ABANDONED (R129). -/
def execFieldFrameAbandoned (g : Seg) (s : State) : Host.Outcome State Fault Refusal :=
  .next (whileRunning (fun s => runEvals (receptionError g s)) s)

/-- The reply window of segment `g` closes with no frame begun (R133). -/
def windowCloses (g : Seg) (s : State) : State :=
  match s.awaiting g with
  | some t => runEvals (missTxn g t (s.advanceTo (t.window.getD 0 + t.timeout)))
  | none => s

/-- REPLY_TIMEOUT (R133). -/
def execReplyTimeout (g : Seg) (s : State) : Host.Outcome State Fault Refusal := .next (whileRunning (windowCloses g) s)

/-- The timeout of segment `g`'s overheard transaction runs out (R146). -/
def overheardExpiry (g : Seg) (s : State) : State :=
  match (s.seg g).overheard with
  | some o => runEvals (lapseOverheard g o (s.advanceTo (o.ended + o.timeout)))
  | none => s

/-- OVERHEARD_TIMEOUT (R146). -/
def execOverheardTimeout (g : Seg) (s : State) : Host.Outcome State Fault Refusal :=
  .next (whileRunning (overheardExpiry g) s)

end Sys2Proof.Machine
end

