-- ==== Sys2Proof/Machine/PlantLink.lean ====
section
/-! DEFINITION. The Plant Link: reception (R189, R190), the execution of the first frame of the receive buffer with its RESPONSE
(R191, R192, R193, R207), MALFORMED, and the transmitter (R206). -/

namespace Sys2Proof.Machine

/-! ## Reception -/

/-- One more check error of the link (R189). -/
def countLinkError (s : State) : State := s.modLinkCounters fun c => { c with checkErrors := counterInc c.checkErrors }

/-- A plant frame completes reception (R189, R190). A payload above 240 abandons the frame. -/
def receivePlant (f : PlantFrame) (s : State) : State :=
  if decide (Config.maxPlantPayload < f.payload.length) || !f.checkGood then countLinkError s
  else if s.link.buffer.length < Config.bufferCap then s.modLink fun k => { k with buffer := k.buffer ++ [f] }
  else s.modLinkCounters fun c => { c with overruns := counterInc c.overruns }

/-- PLANT_FRAME_RECEIVED (R189). -/
def execPlantFrameReceived (f : PlantFrame) (s : State) : Host.Outcome State Fault Refusal :=
  .next (whileRunning (receivePlant f) s)

/-- PLANT_FRAME_ABANDONED (R189). -/
def execPlantFrameAbandoned (s : State) : Host.Outcome State Fault Refusal := .next (whileRunning countLinkError s)

/-! ## Execution -/

/-- What a command's own rules answer: the state it leaves, the outcome, and for REPLY the data (R192). -/
structure Answer where
  state : State
  outcome : RespOutcome
  data : Option ReadData

/-- An accepted command. -/
def accept (s : State) : Answer := ⟨s, .accepted, none⟩

/-- A refused command: it changes no state of its owner (R192). -/
def refuse (o : RespOutcome) (s : State) : Answer := ⟨s, o, none⟩

/-- The frame that may begin execution: the first of the buffer, when `accepts` takes it and the routine queue holds fewer than
64 frames (R191). -/
def State.nextFrame (s : State) (accepts : PlantFrame → Bool) : Option PlantFrame :=
  match s.link.buffer with
  | f :: _ => if accepts f && decide (s.link.routine.length < Config.routineCap) then some f else none
  | [] => none

/-- The beginning of an execution: the frame leaves the buffer, a place is reserved, and the frame is counted (R191, R207). -/
def beginExecution (s : State) : State :=
  s.modLink fun k =>
    { k with
      buffer := k.buffer.tail
      reserved := true
      counters := { k.counters with executed := counterInc k.counters.executed } }

/-- The RESPONSE to frame `f` (R192). -/
def responseTo (f : PlantFrame) (s : State) (o : RespOutcome) (data : Option ReadData) : Response where
  tag := f.tag
  kind := f.kind
  outcome := o
  time := s.timeBase
  data := data

/-- The end of an execution: the evaluations its effects asked for, the unlock state (R193), and the RESPONSE in its reserved
place (R191). -/
def finishExecution (f : PlantFrame) (a : Answer) : State :=
  let s := runEvals a.state
  s.modLink fun k =>
    Link.joinResponse { k with unlocked := f.isKind 4 && decide (a.outcome = .accepted) }
      (responseTo f s a.outcome a.data)

/-- The first frame of the buffer is executed by `run`, when the row takes it; else nothing happens (R191, assumption 6). -/
def executeFrame (accepts : PlantFrame → Bool) (run : PlantFrame → State → Answer) (s : State) : State :=
  match s.nextFrame accepts with
  | some f => finishExecution f (run f (beginExecution s))
  | none => s

/-- A row of the plant computer's commands: it executes its frame while RESET is not held (R208). -/
def plantRow (accepts : PlantFrame → Bool) (run : PlantFrame → State → Answer) (s : State) :
    Host.Outcome State Fault Refusal := .next (whileRunning (executeFrame accepts run) s)

/-- MALFORMED (R192): a frame whose kind is none of the fifteen or whose length is not its kind's. -/
def execMalformed (s : State) : Host.Outcome State Fault Refusal :=
  plantRow (fun f => !f.wellShaped) (fun _ s => refuse .malformed s) s

/-! ## The transmitter -/

/-- The transmitter has sent its frame and takes the next (R206). -/
def uplinkSent (s : State) : State := s.modLink fun k => Link.pump { k with transmitter := none }

/-- UPLINK_FRAME_SENT (R206). -/
def execUplinkFrameSent (s : State) : Host.Outcome State Fault Refusal := .next (whileRunning uplinkSent s)

end Sys2Proof.Machine
end

