-- ==== Sys2Proof/Machine/Operands.lean ====
section
/-! DEFINITION. The operands of the plant computer's commands: every payload of R215 read into values, none where a value names no
code or lies outside its range (R3, R41, R76, R105, R130, R177, R192, R196, R197). -/

namespace Sys2Proof.Machine

/-- A number within a range. -/
def within (lo hi x : Nat) : Option Nat := if lo ≤ x ∧ x ≤ hi then some x else none

/-- A signed number within a range. -/
def withinInt (lo hi x : Int) : Option Int := if lo ≤ x ∧ x ≤ hi then some x else none

/-- A no or yes byte, 0 or 1 (R215). -/
def flagOfCode : Nat → Option Bool
  | 0 => some false
  | 1 => some true
  | _ => none

/-- A slot number (R2). -/
def slotOfCode (n : Nat) : Option Slot := slotOfSource n

/-! ## LOAD WELL -/

/-- The load form of LOAD WELL (R20). -/
structure WellLoad where
  slot : Slot
  cfg : WellCfg
  initial : Line
  deriving DecidableEq, Repr

/-- The load form's payload, with the RANGE check of R20. -/
def WellLoad.parse (p : List Byte) : Option WellLoad := do
  let slot ← slotOfCode (byteAt p 0)
  let address ← within 1 239 (byteAt p 1)
  let seg ← segOfCode (byteAt p 2)
  let inService ← flagOfCode (byteAt p 3)
  let permitted ← permitOfCode (byteAt p 4)
  let initial ← lineOfCode (byteAt p 5)
  let pmax ← within 0 1000 (wordAt p 8)
  let pmin ← within 0 pmax (wordAt p 6)
  let step ← within 1 200 (byteAt p 10)
  let ch4Target ← within 0 1000 (wordAt p 12)
  let deadband ← within 0 100 (byteAt p 14)
  let o2Soft ← within 0 250 (byteAt p 15)
  let balanceCeiling ← within 0 1000 (wordAt p 16)
  let assumedFlow ← within 0 4000 (wordAt p 18)
  some
    { slot := slot
      initial := initial
      cfg :=
        { address := address
          seg := seg
          inService := inService
          permitted := permitted
          pmin := pmin
          pmax := pmax
          step := step
          gain := byteAt p 11
          ch4Target := ch4Target
          deadband := deadband
          o2Soft := o2Soft
          balanceCeiling := balanceCeiling
          assumedFlow := assumedFlow } }

/-! ## LOAD SEGMENT -/

/-- A slot pattern has a P and a C (R130). -/
def patternOfCode (b : Byte) : Option (BitVec 8) := if b = 0#8 ∨ b = 0xFF#8 then none else some b

/-- The payload of LOAD SEGMENT with its RANGE check (R130). -/
def parseSegment (p : List Byte) : Option (Seg × SegSettings) := do
  let seg ← segOfCode (byteAt p 0)
  let pattern ← patternOfCode (p.getD 1 0)
  let rate ← rateOfCode (byteAt p 2)
  let replyTimeout ← within 20 1000 (wordAt p 3)
  let missLimit ← within 1 15 (byteAt p 5)
  let budget ← within 50 4000 (wordAt p 6)
  let moveTimeout ← within 10 600 (wordAt p 8)
  let settleTolerance ← within 0 50 (byteAt p 10)
  some (seg, ⟨pattern, rate, replyTimeout, missLimit, budget, moveTimeout, settleTolerance⟩)

/-! ## LOAD SITE -/

/-- The payload of LOAD SITE with its RANGE check (R38, R41, R76, R177, R196). -/
def parseSite (p : List Byte) : Option SiteSettings := do
  let maxSampleAge ← within 10 3600 (wordAt p 0)
  let hot ← within 1 15 (byteAt p 2)
  let oxygen ← within 1 15 (byteAt p 3)
  let vacuum ← within 1 15 (byteAt p 4)
  let actuator ← within 1 15 (byteAt p 5)
  let hysteresis ← within 0 200 (byteAt p 6)
  let balanceInterval ← within 10 3600 (wordAt p 7)
  let demandTimeout ← within 5 600 (wordAt p 9)
  let reportInterval ← within 1 600 (wordAt p 11)
  let lineOxygen ← within 1 15 (byteAt p 13)
  let engineLow ← within 1 15 (byteAt p 14)
  let flareLow ← within 1 15 (byteAt p 15)
  let t0 ← intervalOfCode (byteAt p 16)
  let t1 ← intervalOfCode (byteAt p 17)
  let t2 ← intervalOfCode (byteAt p 18)
  let t3 ← intervalOfCode (byteAt p 19)
  let ff ← intervalOfCode (byteAt p 20)
  let silence ← within 1 30 (byteAt p 21)
  some
    { maxSampleAge := maxSampleAge
      verify := ⟨hot, oxygen, vacuum, actuator⟩
      hysteresis := hysteresis
      balanceInterval := balanceInterval
      demandTimeout := demandTimeout
      reportInterval := reportInterval
      verifyLineOxygen := lineOxygen
      verifyEngineLow := engineLow
      verifyFlareLow := flareLow
      intervals := ⟨t0, t1, t2, t3, ff⟩
      silence := silence }

/-! ## LOAD LIMITS -/

/-- A trip input set of bits 0 to 3 alone; a bit outside those defined is refused RANGE (R94, R214, R215). -/
def maskOfCode (b : Byte) : Option (PerTrip Bool) :=
  if b.toNat < 16 then some ⟨b.getLsbD 0, b.getLsbD 1, b.getLsbD 2, b.getLsbD 3, false⟩ else none

/-- The polarities, a trip input set (R209, R215). -/
def polaritiesOfCode (b : Byte) : Option (PerTrip Bool) :=
  if b.toNat < 32 then some ⟨b.getLsbD 0, b.getLsbD 1, b.getLsbD 2, b.getLsbD 3, b.getLsbD 4⟩ else none

/-- The payload of LOAD LIMITS with its RANGE check (R41, R76, R194). -/
def parseLimits (p : List Byte) : Option Limits := do
  let hotGas ← within 20 120 (byteAt p 0)
  let oxygenHard ← within 10 500 (wordAt p 1)
  let vacuumLoss ← withinInt (-30000) 0 (signed16 (wordAt p 3))
  let engineMin ← within 200 800 (wordAt p 5)
  let engineO2Max ← within 5 200 (byteAt p 7)
  let flareMin ← within 100 600 (wordAt p 8)
  let mask ← maskOfCode (p.getD 10 0)
  let activeLow ← polaritiesOfCode (p.getD 11 0)
  some
    { hotGas := hotGas
      oxygenHard := oxygenHard
      vacuumLoss := vacuumLoss
      engineMin := engineMin
      engineO2Max := engineO2Max
      flareMin := flareMin
      mask := mask
      activeLow := activeLow }

/-! ## LOAD CONDITION, CLEAR and DISMISS -/

/-- The payload of LOAD CONDITION with its RANGE check (R105). -/
def parseCondition (p : List Byte) : Option (CondKind × KindSetting) := do
  let kind ← condKindOfCode (byteAt p 0)
  let level ← within 0 7 (byteAt p 1)
  let masked ← flagOfCode (byteAt p 2)
  some (kind, ⟨level, masked⟩)

/-- The payload of CLEAR and DISMISS with their RANGE check (R117, R119). -/
def parsePair (p : List Byte) : Option (CondKind × Nat) := do
  let kind ← condKindOfCode (byteAt p 0)
  if kind.admits (byteAt p 1) then some (kind, byteAt p 1) else none

/-! ## READ -/

/-- The targets of READ with their indices (R197). -/
inductive ReadTarget where
  | well (slot : Slot)
  | line (l : Line)
  | segment (g : Seg)
  | levels
  | stack
  | waiting (start : Nat)
  | pair (source : Nat) (kind : CondKind)
  | role
  | site
  | limits
  | link
  | lineState
  deriving DecidableEq, Repr

/-- A target with no index: any index other than 0 is refused RANGE (R215). -/
def plainTarget (index : Nat) (t : ReadTarget) : Option ReadTarget := if index = 0 then some t else none

/-- READ targets 1 to 12 with their indices (R197, R215). -/
def readTargetOf (target index : Nat) : Option ReadTarget :=
  match target with
  | 1 => (slotOfCode index).map .well
  | 2 => (lineOfCode index).map .line
  | 3 => (segOfCode index).map .segment
  | 4 => plainTarget index .levels
  | 5 => plainTarget index .stack
  | 6 => (within 0 485 index).map .waiting
  | 7 =>
    match within 0 98 (index % 256), condKindOfCode (index / 256) with
    | some src, some k => some (.pair src k)
    | _, _ => none
  | 8 => plainTarget index .role
  | 9 => plainTarget index .site
  | 10 => plainTarget index .limits
  | 11 => plainTarget index .link
  | 12 => plainTarget index .lineState
  | _ => none

/-- The target holds counters, so that it may be read with clear (R197). -/
def ReadTarget.counted : ReadTarget → Bool
  | .segment _ | .link => true
  | .well _ | .line _ | .levels | .stack | .waiting _ | .pair _ _ | .role | .site | .limits | .lineState => false

/-- The payload of READ with its RANGE check (R197). -/
def parseRead (p : List Byte) : Option (ReadTarget × Bool) := do
  let target ← readTargetOf (byteAt p 0) (wordAt p 1)
  let clear ← flagOfCode (byteAt p 3)
  if clear && !target.counted then none else some (target, clear)

/-! ## DEMAND, MODE, FORCE -/

/-- The payload of DEMAND with its RANGE check (R83). -/
def parseDemand (p : List Byte) : Option (Nat × Nat) := do
  let flow ← within 0 60000 (wordAt p 0)
  let engines ← within 0 8 (byteAt p 2)
  some (flow, engines)

/-- Mode codes (R209). -/
def modeOfCode : Nat → Option Mode
  | 1 => some .hold
  | 2 => some .run
  | _ => none

/-- The payload of FORCE with the second check of R28. -/
def parseForce (p : List Byte) : Option (Slot × Nat × Line) := do
  let slot ← slotOfCode (byteAt p 0)
  let target ← within 0 1000 (wordAt p 1)
  let outlet ← lineOfCode (byteAt p 3)
  some (slot, target, outlet)

end Sys2Proof.Machine
end

