-- ==== Sys2Proof/Machine/Tables.lean ====
section
/-! DEFINITION. The tables and settings: LOAD WELL in both forms (R20 to R27), LOAD SEGMENT (R130, R131, R162, R170), LOAD SITE
(R196), UNLOCK (R193), LOAD LIMITS (R194) and LOAD CONDITION (R105). -/

namespace Sys2Proof.Machine

/-! ## LOAD WELL -/

/-- The address is held by another loaded slot (R20). -/
def State.addressHeld (s : State) (i : Slot) (address : Nat) : Bool :=
  allSlots.any fun j =>
    !decide (j = i) &&
      (match s.well j with
        | some w => decide (w.cfg.address = address)
        | none => false)

/-- One of the outlets check 3 of R20 names is missing from the permitted outlets carried. -/
def State.notPermitted (s : State) (x : WellLoad) : Bool :=
  let missing : Line → Bool := fun l => !x.cfg.permitted.allows l
  match s.well x.slot with
  | none => missing x.initial
  | some w =>
    (if (wellState (some w)).working then missing w.outlet else missing x.initial) ||
      (match s.entryOf x.slot with
        | some e => missing e.outlet
        | none => false) ||
      (match w.pendingProt with
        | some p => missing p.outlet
        | none => false) ||
      (match w.move with
        | some m => missing m.outlet
        | none => false)

/-- The well has a move record or a SET transaction to it is in flight (R20). -/
def State.busy (s : State) (i : Slot) : Bool := ((s.well i).bind (·.move)).isSome || s.setInFlight i

/-- Checks 4 and 5 of R20: a working slot keeps its address and segment, and is not parked while busy. -/
def State.loadInUse (s : State) (x : WellLoad) : Bool :=
  match s.well x.slot with
  | none => false
  | some w =>
    (wellState (some w)).working &&
      (!decide (w.cfg.address = x.cfg.address) || !decide (w.cfg.seg = x.cfg.seg) ||
        (!x.cfg.inService && s.busy x.slot))

/-- A slot just loaded from VACANT or PARKED (R21, R26). -/
def Well.fresh (cfg : WellCfg) (outlet : Line) : Well where
  cfg := cfg
  outlet := outlet
  target := none
  last := none
  answering := true
  missCount := 0
  forced := false
  holds := .empty
  excursions := ⟨0, 0, 0, 0⟩
  move := none
  pendingProt := none

/-- Step 1 of R23: an entry whose target lies outside the new range takes its nearer end, and is not sent then (R165). The target
of the balancing move that a BALANCE entry belongs to stays as the pass made it (assumption 41). -/
def clampEntry (i : Slot) (c : WellCfg) (s : State) : State :=
  s.modSeg c.seg fun q =>
    { q with
      queue := q.queue.map fun e =>
        if e.slot = i && !decide (clampNat c.pmin c.pmax e.target = e.target) then
          { e with target := clampNat c.pmin c.pmax e.target, sent := false }
        else e }

/-- Step 2 of R23: the pending protective field is clamped. -/
def clampPending (i : Slot) (c : WellCfg) (s : State) : State :=
  modWell s i fun w =>
    { w with pendingProt := w.pendingProt.map fun p => { p with target := clampNat c.pmin c.pmax p.target } }

/-- The live change of a working slot (R22, R23, R24). -/
def liveChange (i : Slot) (w : Well) (c : WellCfg) (s : State) : State :=
  let s := putWell s i (some { w with cfg := c })
  if c.pmin = w.cfg.pmin ∧ c.pmax = w.cfg.pmax then s
  else rangeChangeSet i (clampPending i c (clampEntry i c s))

/-- A POLL in flight to slot `i` is of no slot any more once the slot is parked or vacated, so that its reply finds no
addressed well even when the slot is loaded again with the same address (R25, R54, R134, R149). -/
def forgetPoll (i : Slot) (s : State) : State :=
  { s with segs := s.segs.map fun q =>
      { q with txn := q.txn.map fun t => if t.slot = some i then { t with slot := none } else t } }

/-- Parking (R25). The pending field goes together with the entry, so that the entry's leaving does not let it in; the working
fields are cleared before either leaves, so that the open-outlet rule finds no roster member there (assumption 35). -/
def park (i : Slot) (w : Well) (c : WellCfg) (s : State) : State :=
  let s := putWell (forgetPoll i s) i (some (Well.fresh c w.outlet))
  withdrawSlot i (runEvals (removeEntry c.seg i s))

/-- An accepted load form, by the state of the slot (01_the_well_table.md 1.4). The working fields of a PARKED slot stand at the
values of R21 since its parking (R25), and a load leaves them there, in service or not (R21, R26). -/
def loadSlot (x : WellLoad) (s : State) : State :=
  match (s.well x.slot).filter fun w => (wellState (some w)).working with
  | none => putWell s x.slot (some (Well.fresh x.cfg x.initial))
  | some w => if x.cfg.inService then liveChange x.slot w x.cfg s else park x.slot w x.cfg s

/-- The load form of LOAD WELL with the checks of R20. -/
def runLoadWell (f : PlantFrame) (s : State) : Answer :=
  match WellLoad.parse f.payload with
  | none => refuse .range s
  | some x =>
    if s.addressHeld x.slot x.cfg.address then refuse .duplicate s
    else if s.notPermitted x then refuse .notPermitted s
    else if s.loadInUse x then refuse .inUse s
    else accept (loadSlot x s)

/-- LOAD_WELL (R20). -/
def execLoadWell (s : State) : Host.Outcome State Fault Refusal :=
  plantRow (fun f => f.isKind 1 && f.payload.length == 20) runLoadWell s

/-- Vacating a loaded slot (R27): its entry leaves, its record goes, its pending conditions are withdrawn. The record goes first,
so that the open-outlet rule finds no well there (assumption 35). -/
def vacate (i : Slot) (w : Well) (s : State) : State :=
  withdrawSlot i (removeEntry w.cfg.seg i (putWell (forgetPoll i s) i none))

/-- The vacate form of LOAD WELL with the checks of R20. -/
def runVacate (f : PlantFrame) (s : State) : Answer :=
  match slotOfCode (byteAt f.payload 0) with
  | none => refuse .range s
  | some i =>
    match s.well i with
    | none => refuse .noSlot s
    | some w => if s.busy i then refuse .inUse s else accept (vacate i w s)

/-- LOAD_WELL_VACATE (R27). -/
def execLoadWellVacate (s : State) : Host.Outcome State Fault Refusal :=
  plantRow (fun f => f.isKind 1 && f.payload.length == 1) runVacate s

/-! ## LOAD SEGMENT -/

/-- The budget in force after a load of `x` (R162): the budget loaded is judged against the one in force, whether or not it is
the one loaded before; a load that repeats all seven settings changes no budget (R131). -/
def budgetAfterLoad (q : Segment) (travel : Nat) (x : SegSettings) : Nat :=
  if x = q.settings then q.budgetInForce
  else if q.budgetInForce ≤ x.budget ∨ travel ≤ x.budget then x.budget
  else q.budgetInForce

/-- The bit rate in force after a load of `x`: the one loaded, at once, when no transaction is in flight; a load that repeats all
seven settings changes no rate, also while an earlier one waits for the next transmission (R131, assumption 38). -/
def rateAfterLoad (q : Segment) (x : SegSettings) : BitRate :=
  if x ≠ q.settings ∧ q.txn.isNone then x.rate else q.rateInForce

/-- The settings of segment `g` written: the pointer at entry 0, the bit rate by R131, the budget by R162 (R130). The pointer so
set stands even if the transaction in flight is not begun after all (R181). -/
def writeSegment (g : Seg) (x : SegSettings) (s : State) : State :=
  let travel := s.nonProtTravel g
  s.modSeg g fun q =>
    { q with
      settings := x
      pointer := 0
      rateInForce := rateAfterLoad q x
      budgetInForce := budgetAfterLoad q travel x
      txn := q.txn.map fun t => { t with undo := { t.undo with pointer := none } } }

/-- The moves of segment `g` whose age has reached the move timeout end TIMED OUT (R170), in slot order (assumption 42). -/
def timeOutAged (limit : Nat) : List (Slot × MoveRec) → State → State
  | [], s => s
  | m :: rest, s =>
    timeOutAged limit rest (if limit * 1000 ≤ s.timeBase - m.2.start then timeOutMove m.1 s else s)

/-- An accepted LOAD SEGMENT (R130, R131, R162, R170). -/
def loadSegment (g : Seg) (x : SegSettings) (s : State) : State :=
  let lowered := decide (x.moveTimeout < (s.seg g).settings.moveTimeout)
  let s := writeSegment g x s
  if lowered then timeOutAged x.moveTimeout (s.movesOf g) s else s

/-- LOAD SEGMENT with its check (R130). -/
def runLoadSegment (f : PlantFrame) (s : State) : Answer :=
  match parseSegment f.payload with
  | none => refuse .range s
  | some x => accept (loadSegment x.1 x.2 s)

/-- LOAD_SEGMENT (R130). -/
def execLoadSegment (s : State) : Host.Outcome State Fault Refusal := plantRow (·.isKind 2) runLoadSegment s

/-! ## LOAD SITE -/

/-- The demand held is the one present at this moment (R84). -/
def ageDemand (s : State) : State := s.modBalancer fun b => { b with demand := s.demandNow }

/-- A silence timer that has already run the new time in force expires at the load (R177). -/
def silenceAtLoad (s : State) : State :=
  match s.unit.role, s.unit.silenceStart with
  | .standby, some t => if s.silenceInForce ≤ s.timeBase - t then takeover s else s
  | _, _ => s

/-- An accepted LOAD SITE (R196): values repeated unchanged change nothing; a changed report interval restarts the report timer
(R76), changed verification intervals act on their filters (R93), a changed silence time applies to the time run (R177). A
demand absent by the timeout so far stays absent, and one whose age reaches the new timeout is absent from the load (R84). -/
def loadSite (x : SiteSettings) (s : State) : State :=
  let old := s.site
  let before := s.combination
  let s := if x.demandTimeout = old.demandTimeout then s.setSite x else ageDemand ((ageDemand s).setSite x)
  let s := { s with trips := .ofFn fun t => s.refilter t (!decide (old.intervals.get t = x.intervals.get t)) false }
  let s := if x.reportInterval = old.reportInterval then s
    else s.modBalancer fun b => { b with reportTimer := s.timeBase }
  let s := tripsChanged before s
  if x.silence = old.silence then s else silenceAtLoad s

/-- LOAD SITE with its check (R196). -/
def runLoadSite (f : PlantFrame) (s : State) : Answer :=
  match parseSite f.payload with
  | none => refuse .range s
  | some x => accept (loadSite x s)

/-- LOAD_SITE (R196). -/
def execLoadSite (s : State) : Host.Outcome State Fault Refusal := plantRow (·.isKind 3) runLoadSite s

/-! ## UNLOCK and LOAD LIMITS -/

/-- UNLOCK (R193): its effect on the unlock state is `finishExecution`'s. -/
def runUnlock (f : PlantFrame) (s : State) : Answer := if byteAt f.payload 0 = 1 then accept s else refuse .range s

/-- UNLOCK (R193). -/
def execUnlock (s : State) : Host.Outcome State Fault Refusal := plantRow (·.isKind 4) runUnlock s

/-- An accepted LOAD LIMITS (R194): every value at once; changed polarities act on their filters (R93), and the combination is
evaluated again (R94). -/
def loadLimits (x : Limits) (s : State) : State :=
  let old := s.limits
  let before := s.combination
  let s := s.setLimits x
  let s := { s with trips := .ofFn fun t => s.refilter t false (!decide (old.activeLow.get t = x.activeLow.get t)) }
  tripsChanged before s

/-- LOAD LIMITS with its checks (R194). -/
def runLoadLimits (f : PlantFrame) (s : State) : Answer :=
  if s.link.unlocked then
    match parseLimits f.payload with
    | none => refuse .range s
    | some x => accept (loadLimits x s)
  else refuse .protectedGroup (s.modLinkCounters fun c => { c with protectionErrors := counterInc c.protectionErrors })

/-- LOAD_LIMITS (R194). -/
def execLoadLimits (s : State) : Host.Outcome State Fault Refusal := plantRow (·.isKind 5) runLoadLimits s

/-! ## LOAD CONDITION -/

/-- LOAD CONDITION with its check (R105). -/
def runLoadCondition (f : PlantFrame) (s : State) : Answer :=
  match parseCondition f.payload with
  | none => refuse .range s
  | some x => accept (loadCondition x.1 x.2 s)

/-- LOAD_CONDITION (R105). -/
def execLoadCondition (s : State) : Host.Outcome State Fault Refusal := plantRow (·.isKind 6) runLoadCondition s

end Sys2Proof.Machine
end

