-- ==== Sys2Proof/Machine/Reads.lean ====
section
/-! DEFINITION. READ and its fourteen rows (R126, R197 to R199): what each target returns, and the clearing of counters. -/

namespace Sys2Proof.Machine

/-- The place of slot `i` on its roster, counted from 0 at the lean end (R2). -/
def State.placeOf (s : State) (i : Slot) : Option (Line × Nat) :=
  match s.rosters.engine.idxOf? i with
  | some n => some (.engine, n)
  | none => (s.rosters.flare.idxOf? i).map fun n => (.flare, n)

/-- WELL (R2). -/
def readWell (s : State) (i : Slot) : ReadData :=
  .well i (s.stateOf i) ((s.well i).map fun w => ⟨w, s.queued i, s.placeOf i⟩)

/-- The verification counts of a line, in kind order (R79, R81). -/
def LineCounts.ofLine (c : LineCounts) : Line → List Nat
  | .engine => [c.lineOxygen, c.engineLow]
  | .flare => [c.flareLow]

/-- LINE (R79). -/
def readLine (s : State) (l : Line) : ReadData :=
  .line l (s.lines.get l) (s.rosters.get l) (s.balancer.counts.ofLine l)

/-- SEGMENT (R130, R150, R152). -/
def readSegment (s : State) (g : Seg) : ReadData :=
  let q := s.seg g
  .segment g
    { settings := q.settings
      pointer := q.pointer
      position := q.position
      round := q.round
      txn := q.txn.map fun t => (t.kind, t.dest, t.began)
      queue := q.queue
      outstanding := q.outstanding
      budgetInForce := q.budgetInForce
      sentCopy := q.sentCopy
      moves := s.movesOf g
      counters := q.counters }

/-- PENDING SET from a start position, each record with the mark of its kind (R126, R199). -/
def readWaiting (s : State) (start : Nat) : ReadData :=
  .waiting s.conds.waiting.length
    (((s.conds.waiting.drop start).take Config.readPendingCap).map fun r => (r, (s.conds.setting r.kind).masked))

/-- CONDITION PAIR (R126). -/
def readPair (s : State) (src : Nat) (k : CondKind) : ReadData :=
  match s.conds.waiting.find? (·.isPair k src), s.conds.stack.find? (·.isPair k src) with
  | some r, _ => .pair (some (r, .pending))
  | none, some r => .pair (some (r, .inService))
  | none, none => .pair none

/-- ROLE (R174). -/
def readRole (s : State) : ReadData :=
  .role s.ownAddress s.unit.role s.silenceInForce (s.unit.silenceStart.map (s.timeBase - ·)) s.unit.lastOther

/-- LINK (R203, R207). -/
def readLink (s : State) : ReadData :=
  .link s.link.mode s.link.unlocked s.link.buffer.length s.link.urgent.length s.link.routine.length s.link.reserved
    s.link.counters

/-- LINE STATE (R102, R197). -/
def readLineState (s : State) : ReadData :=
  .lineState s.demandNow s.demandAge s.balancer.lineLost s.balancer.flareFault s.trips s.balancer.move s.lastEndElapsed

/-- The content of a target as it stands (R197). -/
def readTarget (s : State) : ReadTarget → ReadData
  | .well i => readWell s i
  | .line l => readLine s l
  | .segment g => readSegment s g
  | .levels => .levels s.conds.kinds.toList
  | .stack => .stack s.conds.stack.reverse
  | .waiting start => readWaiting s start
  | .pair src k => readPair s src k
  | .role => readRole s
  | .site => .site s.site
  | .limits => .limits s.limits
  | .link => readLink s
  | .lineState => readLineState s

/-- Every counter of segment `g` set to 0 (R198); a transaction whose count is so cleared is not counted back (R181). -/
def clearSegment (g : Seg) (s : State) : State :=
  s.modSeg g fun q =>
    { q with
      counters := .zero
      txn := q.txn.map fun t => { t with undo := { t.undo with counted := false } } }

/-- The counters of a target set to 0 (R198). -/
def clearTarget (t : ReadTarget) (s : State) : State :=
  match t with
  | .segment g => clearSegment g s
  | .link => s.modLinkCounters fun _ => .zero
  | .well _ | .line _ | .levels | .stack | .waiting _ | .pair _ _ | .role | .site | .limits | .lineState => s

/-- READ with its check (R197, R198): the content is taken before the clearing. -/
def runRead (f : PlantFrame) (s : State) : Answer :=
  match parseRead f.payload with
  | none => refuse .range s
  | some x => ⟨if x.2 then clearTarget x.1 s else s, .reply, some (readTarget s x.1)⟩

/-- A READ whose target byte names no target: every READ row takes it (assumption 6). -/
def readsUnknown (f : PlantFrame) : Bool :=
  decide (byteAt f.payload 0 = 0) || decide (12 < byteAt f.payload 0)

/-- The READ frames a row for target `n` takes. -/
def readsTarget (n : Nat) (f : PlantFrame) : Bool :=
  f.isKind 7 && (decide (byteAt f.payload 0 = n) || readsUnknown f)

/-- The clear flag of a READ is 1. -/
def readClears (f : PlantFrame) : Bool := byteAt f.payload 3 == 1

/-- The READ frames a row for target `n` without clearing takes. -/
def readsPlain (n : Nat) (f : PlantFrame) : Bool := readsTarget n f && (readsUnknown f || !readClears f)

/-- The READ frames a row for target `n` with clearing takes. -/
def readsClear (n : Nat) (f : PlantFrame) : Bool := readsTarget n f && (readsUnknown f || readClears f)

/-- READ_WELL (R197). -/
def execReadWell (s : State) : Host.Outcome State Fault Refusal := plantRow (readsTarget 1) runRead s

/-- READ_LINE (R197). -/
def execReadLine (s : State) : Host.Outcome State Fault Refusal := plantRow (readsTarget 2) runRead s

/-- READ_SEGMENT (R197). -/
def execReadSegment (s : State) : Host.Outcome State Fault Refusal := plantRow (readsPlain 3) runRead s

/-- READ_SEGMENT_CLEAR (R198). -/
def execReadSegmentClear (s : State) : Host.Outcome State Fault Refusal := plantRow (readsClear 3) runRead s

/-- READ_CONDITION_LEVELS (R197). -/
def execReadConditionLevels (s : State) : Host.Outcome State Fault Refusal := plantRow (readsTarget 4) runRead s

/-- READ_IN_SERVICE_STACK (R197). -/
def execReadInServiceStack (s : State) : Host.Outcome State Fault Refusal := plantRow (readsTarget 5) runRead s

/-- READ_PENDING_SET (R199). -/
def execReadPendingSet (s : State) : Host.Outcome State Fault Refusal := plantRow (readsTarget 6) runRead s

/-- READ_CONDITION_PAIR (R126). -/
def execReadConditionPair (s : State) : Host.Outcome State Fault Refusal := plantRow (readsTarget 7) runRead s

/-- READ_ROLE (R174). -/
def execReadRole (s : State) : Host.Outcome State Fault Refusal := plantRow (readsTarget 8) runRead s

/-- READ_SITE (R197). -/
def execReadSite (s : State) : Host.Outcome State Fault Refusal := plantRow (readsTarget 9) runRead s

/-- READ_LIMITS (R197). -/
def execReadLimits (s : State) : Host.Outcome State Fault Refusal := plantRow (readsTarget 10) runRead s

/-- READ_LINK (R197). -/
def execReadLink (s : State) : Host.Outcome State Fault Refusal := plantRow (readsPlain 11) runRead s

/-- READ_LINK_CLEAR (R198). -/
def execReadLinkClear (s : State) : Host.Outcome State Fault Refusal := plantRow (readsClear 11) runRead s

/-- READ_LINE_STATE (R197). -/
def execReadLineState (s : State) : Host.Outcome State Fault Refusal := plantRow (readsTarget 12) runRead s

end Sys2Proof.Machine
end

