-- ==== Sys2Proof/Machine/Control.lean ====
section
/-! DEFINITION. The plant computer's control commands: DEMAND (R83), MODE (R200), FORCE and RELEASE (R28, R29), CLEAR and DISMISS
(R117 to R120) and BUDGET RESET (R173, R195). -/

namespace Sys2Proof.Machine

/-- DEMAND with its check (R83). -/
def runDemand (f : PlantFrame) (s : State) : Answer :=
  match parseDemand f.payload with
  | none => refuse .range s
  | some d => accept (s.modBalancer fun b => { b with demand := some d, demandArrival := some s.timeBase })

/-- DEMAND (R83). -/
def execDemand (s : State) : Host.Outcome State Fault Refusal := plantRow (·.isKind 8) runDemand s

/-! ## MODE -/

/-- An entry MODE HOLD removes: every TRIM entry and a BALANCE entry not marked sent (R69, R91, R200). -/
def Entry.goesAtHold (e : Entry) : Bool :=
  match e.cls with
  | .trim => true
  | .balance => !e.sent
  | .protective | .forced => false

/-- The entries of segment `g` at MODE HOLD, the removals uncounted (R69, R91). -/
def holdQueue (s : State) (g : Seg) : State :=
  let gone := (s.seg g).queue.filter Entry.goesAtHold
  leaveAll gone (s.modSeg g fun q => { q with queue := q.queue.filter fun e => !e.goesAtHold })

/-- The mode written (R200). -/
def setMode (m : Mode) (s : State) : State := s.modLink fun k => { k with mode := m }

/-- An accepted MODE (R200). -/
def changeMode (m : Mode) (s : State) : State :=
  match s.link.mode, m with
  | .run, .hold => examineAll (Seg.all.foldl holdQueue (setMode .hold s))
  | .hold, .run => setMode .run s
  | .hold, .hold => s
  | .run, .run => s

/-- MODE with its check (R200). -/
def runMode (f : PlantFrame) (s : State) : Answer :=
  match modeOfCode (byteAt f.payload 0) with
  | none => refuse .range s
  | some m => accept (changeMode m s)

/-- MODE_RUN (R200): every MODE but HOLD; a code that names no mode is refused RANGE by either row (assumption 6). -/
def execModeRun (s : State) : Host.Outcome State Fault Refusal :=
  plantRow (fun f => f.isKind 9 && !decide (byteAt f.payload 0 = 1)) runMode s

/-- MODE_HOLD (R200). -/
def execModeHold (s : State) : Host.Outcome State Fault Refusal :=
  plantRow (fun f => f.isKind 9 && !decide (byteAt f.payload 0 = 2)) runMode s

/-! ## FORCE and RELEASE -/

/-- One of the four things check 8 of R28 names stands for the well. -/
def State.forceCollides (s : State) (i : Slot) (w : Well) : Bool :=
  w.move.isSome || s.setInFlight i || (s.protEntryOf i).isSome || w.pendingProt.isSome

/-- An accepted FORCE (R28). -/
def forceWell (i : Slot) (target : Nat) (outlet : Line) (s : State) : State :=
  arriveOther i target outlet .forced (modWell s i fun w => { w with forced := true })

/-- FORCE with its checks in order (R28). -/
def runForce (f : PlantFrame) (s : State) : Answer :=
  if !s.isDuty then refuse .notDuty s
  else
    match parseForce f.payload with
    | none => refuse .range s
    | some (i, target, outlet) =>
      match s.well i with
      | none => refuse .noSlot s
      | some w =>
        if !w.cfg.inService then refuse .noSlot s
        else if target < w.cfg.pmin ∨ w.cfg.pmax < target then refuse .range s
        else if !w.cfg.permitted.allows outlet then refuse .notPermitted s
        else if !s.isOpen outlet then refuse .closed s
        else if wellState (some w) = .shut then refuse .shut s
        else if s.forceCollides i w then refuse .collision s
        else accept (forceWell i target outlet s)

/-- FORCE (R28). -/
def execForce (s : State) : Host.Outcome State Fault Refusal := plantRow (·.isKind 10) runForce s

/-- RELEASE with its checks (R29). -/
def runRelease (f : PlantFrame) (s : State) : Answer :=
  match slotOfCode (byteAt f.payload 0) with
  | none => refuse .range s
  | some i =>
    match s.well i with
    | none => refuse .noSlot s
    | some w =>
      if !w.cfg.inService then refuse .noSlot s
      else if !w.forced then refuse .nothing s
      else accept (modWell s i fun w => { w with forced := false })

/-- RELEASE (R29). -/
def execRelease (s : State) : Host.Outcome State Fault Refusal := plantRow (·.isKind 11) runRelease s

/-! ## CLEAR and DISMISS -/

/-- The condition is still active (R98, R101, R117). -/
def State.stillActive (s : State) (k : CondKind) : Bool :=
  match k with
  | .engineLineLost => s.combination
  | .noOutlet => !s.isOpen .engine && !s.isOpen .flare
  | .hotGas | .oxygenHigh | .actuatorFault | .vacuumLost | .wellSilent | .lineOxygenHigh | .engineBlendLow
  | .flareBlendLow | .roleConflict => false

/-- An accepted CLEAR of the top record `r` (R118). -/
def clearTop (r : CondRec) (s : State) : State :=
  evalTaking (removalEffects r (s.modConds fun c => { c with stack := c.stack.tail }))

/-- CLEAR with its checks (R117). -/
def runClear (f : PlantFrame) (s : State) : Answer :=
  match parsePair f.payload with
  | none => refuse .range s
  | some (k, src) =>
    match s.conds.stack with
    | [] => refuse .nothing s
    | r :: _ =>
      if !r.isPair k src then refuse .notCurrent s
      else if s.stillActive k then refuse .stillActive s
      else accept (clearTop r s)

/-- CLEAR (R117). -/
def execClear (s : State) : Host.Outcome State Fault Refusal := plantRow (·.isKind 12) runClear s

/-- An accepted DISMISS of the pending record `r` (R120). -/
def dismissRec (r : CondRec) (s : State) : State :=
  evalTaking (removalEffects r (s.modConds fun c =>
    { c with waiting := c.waiting.filter fun x => !x.isPair r.kind r.source }))

/-- DISMISS with its checks (R119). -/
def runDismiss (f : PlantFrame) (s : State) : Answer :=
  match parsePair f.payload with
  | none => refuse .range s
  | some (k, src) =>
    match s.conds.waiting.find? (·.isPair k src) with
    | none => refuse .notPending s
    | some r => if s.stillActive k then refuse .stillActive s else accept (dismissRec r s)

/-- DISMISS (R119). -/
def execDismiss (s : State) : Host.Outcome State Fault Refusal := plantRow (·.isKind 13) runDismiss s

/-! ## BUDGET RESET -/

/-- BUDGET RESET with its check (R195). -/
def runBudgetReset (f : PlantFrame) (s : State) : Answer :=
  match segOfCode (byteAt f.payload 0) with
  | none => refuse .range s
  | some g => accept (budgetReset g s)

/-- BUDGET_RESET (R173). -/
def execBudgetReset (s : State) : Host.Outcome State Fault Refusal := plantRow (·.isKind 14) runBudgetReset s

end Sys2Proof.Machine
end

