-- ==== Sys2Proof/Machine/Reset.lean ====
section
/-! DEFINITION. The resets: RESET_ASSERTED and RESET_RELEASED (R30, R103, R127, R149, R151, R152, R188, R208) and RESTART (R31,
R201). -/

namespace Sys2Proof.Machine

/-- The machine at its power-on values, the raw levels of the trip inputs and the commands that wait left as they are. -/
def powerOn (held strapHigh : Bool) (s : State) : State :=
  { State.reset with
    pending := s.pending
    held := held
    trips := .ofFn fun t => TripFilter.restarted (s.trips.get t).rawHigh 0
    unit := .start strapHigh 0 }

/-- RESET_ASSERTED (R208): every block takes its power-on values at once and nothing is sent or received while RESET is held.
The strap is not read (R174). -/
def execResetAsserted (s : State) : Host.Outcome State Fault Refusal := .next (powerOn true s.unit.strapHigh s)

/-- RESET_RELEASED (R188): the strap is read, and the time base and the timers start. -/
def execResetReleased (strapHigh : Bool) (s : State) : Host.Outcome State Fault Refusal :=
  .next (powerOn false strapHigh s)

/-! ## RESTART -/

/-- A record at RESTART (R31): configuration and outlet stay. -/
def Well.restarted (w : Well) : Well := Well.fresh w.cfg w.outlet

/-- A segment at RESTART (R151, R152): the settings stay, and a frame being transmitted is completed (R149). -/
def Segment.restarted (q : Segment) : Segment := { Segment.start q.settings with sending := q.sending }

/-- The Condition Controller at RESTART (R127): levels and masks stay. -/
def Conditions.restarted (c : Conditions) : Conditions := { c with waiting := [], stack := [] }

/-- The Plant Link at RESTART (R201 step 1): the reservation stays, and a frame being sent is completed. -/
def Link.restarted (k : Link) : Link := { Link.reset with reserved := k.reserved, transmitter := k.transmitter }

/-- Steps 1 to 4 of RESTART (R201). -/
def restarted (s : State) : State :=
  { s with
    wells := s.wells.map (·.map Well.restarted)
    rosters := .all []
    segs := s.segs.map Segment.restarted
    trips := .ofFn fun t => TripFilter.restarted (s.trips.get t).rawHigh s.timeBase
    lines := .all .reset
    balancer := .start s.timeBase
    conds := s.conds.restarted
    unit := .start s.unit.strapHigh s.timeBase
    link := s.link.restarted
    evalAsked := .all false }

/-- What the inputs of interval off bring at RESTART: they take the raw level at once (R93), after the RESPONSE, which stands
first in the routine queue (R201, assumption 14). -/
def offInputsAtRestart (s : State) : State := runEvals (tripsChanged s.combination (followOff s))

/-- RESTART executed as the first frame of the buffer (R201). -/
def executeRestart (s : State) : State :=
  match s.nextFrame (·.isKind 15) with
  | some f => offInputsAtRestart (finishExecution f (accept (restarted (beginExecution s))))
  | none => s

/-- RESTART (R201). -/
def execRestart (s : State) : Host.Outcome State Fault Refusal := .next (whileRunning executeRestart s)

end Sys2Proof.Machine
end

