-- ==== Sys2Proof/Machine/UplinkFormats.lean ====
section
/-! DEFINITION. The uplink frames as bytes (R209, R214, 10_frame_and_record_formats.md 10.7). The queues hold the frames as composed;
`Uplink.characters` is what the transmitter puts on the line. The widths of READ contents that chapter 10 leaves to "the width and codes
of this chapter" are assumption 25. -/

namespace Sys2Proof.Machine

/-! ## Codes (R209) -/

/-- One byte. -/
def byte1 (n : Nat) : List Byte := leBytes 1 n

/-- Two bytes. -/
def byte2 (n : Nat) : List Byte := leBytes 2 n

/-- A time base reading, six bytes (R209). -/
def timeBytes (t : Nat) : List Byte := leBytes 6 t

/-- A yes or no as 1 or 0. -/
def flag (b : Bool) : Nat := if b then 1 else 0

/-- A set as the sum of its bits. -/
def bits : List Bool → Nat
  | [] => 0
  | b :: r => flag b + 2 * bits r

/-- A list behind its count (10.7, RESPONSE). -/
def counted {α : Type} (enc : α → List Byte) (l : List α) : List Byte := byte1 l.length ++ (l.map enc).flatten

/-- A field of `n` bytes, zero when absent (R209). -/
def orZero {α : Type} (n : Nat) (enc : α → List Byte) : Option α → List Byte
  | some x => enc x
  | none => leBytes n 0

/-- An optional field of `n` bytes behind its presence flag, sent as zero when the flag marks it absent (R209; 10.7,
RESPONSE). -/
def optional {α : Type} (n : Nat) (enc : α → List Byte) (o : Option α) : List Byte :=
  byte1 (if o.isSome then 1 else 0) ++ orZero n enc o

/-- Role codes. -/
def Role.code : Role → Nat
  | .duty => 1
  | .standby => 2

/-- Mode codes. -/
def Mode.code : Mode → Nat
  | .hold => 1
  | .run => 2

/-- Well state codes. -/
def WellState.code : WellState → Nat
  | .vacant => 0
  | .parked => 1
  | .listed => 2
  | .silent => 3
  | .shut => 4
  | .manual => 5
  | .held => 6
  | .tracking => 7

/-- Fault codes. -/
def WellFault.code : WellFault → Nat
  | .actuator => 1
  | .analyzer => 2
  | .pressureSensor => 3
  | .supplyLow => 4

/-- Condition kind codes. -/
def CondKind.code (k : CondKind) : Nat := k.idx.val + 1

/-- Line status codes. -/
def LineStatus.code : LineStatus → Nat
  | .normal => 1
  | .low => 2
  | .oxygen => 3
  | .noFlow => 4
  | .lost => 5
  | .fault => 6

/-- Trim outcome codes. -/
def TrimOutcome.code : TrimOutcome → Nat
  | .applied => 1
  | .stepClamped => 2
  | .rangeClamped => 3
  | .deadband => 4
  | .noChange => 5
  | .holdMode => 6
  | .notTracking => 7
  | .noGas => 8
  | .moving => 9
  | .standby => 10

/-- Move end codes. -/
def Ending.code : Ending → Nat
  | .settled => 1
  | .short => 2
  | .timedOut => 3
  | .superseded => 4
  | .abandoned => 5
  | .notMade => 6

/-- Permitted outlet codes. -/
def Permit.code : Permit → Nat
  | .engine => 1
  | .flare => 2
  | .both => 3

/-- Balancing action codes. -/
def BalAction.code : BalAction → Nat
  | .o2Excess => 1
  | .blendLow => 2
  | .promotion => 3
  | .throttle => 4

/-- Balancing phase codes. -/
def BalPhase.code : BalPhase → Nat
  | .queued => 1
  | .moving => 2

/-- ROLE cause codes. -/
def RoleCause.code : RoleCause → Nat
  | .takeover => 1
  | .arbitration => 2
  | .yielded => 3

/-- RESPONSE outcome codes. -/
def RespOutcome.code : RespOutcome → Nat
  | .accepted => 0
  | .reply => 1
  | .range => 2
  | .duplicate => 3
  | .inUse => 4
  | .collision => 5
  | .closed => 6
  | .shut => 7
  | .notPermitted => 8
  | .notDuty => 9
  | .noSlot => 10
  | .nothing => 11
  | .notCurrent => 12
  | .notPending => 13
  | .stillActive => 14
  | .protectedGroup => 15
  | .malformed => 16

/-- Bit rate codes (R215). -/
def BitRate.code : BitRate → Nat
  | .b9600 => 1
  | .b19200 => 2
  | .b38400 => 3

/-- Verification interval codes (R215). -/
def TripInterval.code : TripInterval → Nat
  | .off => 0
  | .ms250 => 1
  | .ms500 => 2
  | .s1 => 3
  | .s2 => 4
  | .s4 => 5
  | .s8 => 6
  | .s16 => 7

/-- Transaction kinds by their frame kind codes (R211). -/
def TxnKind.code : TxnKind → Nat
  | .poll => 1
  | .set => 3
  | .presence => 5

/-- Hold reasons, a set. -/
def Holds.code (h : Holds) : Nat := bits [h.hot, h.oxygen, h.vacuum, h.actuator, h.silent, h.noOutlet]

/-- Well kinds, a set. -/
def PerExc.code (x : PerExc Bool) : Nat := bits [x.hot, x.oxygen, x.vacuum, x.actuator]

/-- Trip inputs, a set. -/
def PerTrip.code (x : PerTrip Bool) : Nat := bits [x.trip0, x.trip1, x.trip2, x.trip3, x.flareFault]

/-! ## REPORT (45 bytes) -/

/-- The gas block, eight bytes. -/
def GasBlock.bytes (x : GasBlock) : List Byte := byte2 x.ch4 ++ byte2 x.co2 ++ byte2 x.o2 ++ byte2 x.balance

/-- The four fault bytes, unused ones 0. -/
def faultBytes (l : List WellFault) : List Byte := ((l.map fun f => BitVec.ofNat 8 f.code) ++ leBytes 4 0).take 4

/-- REPORT (10.7). -/
def Report.bytes (r : Report) : List Byte :=
  byte1 r.slot.val ++ byte1 r.address ++ byte1 (segCode r.seg) ++ byte1 r.role.code ++ timeBytes r.sample.time ++
  byte1 (bits [r.sample.gas.isSome, r.sample.temperature.isSome, !r.sample.flowMeasured, r.sample.moving, r.forced,
    r.target.isSome]) ++
  orZero 8 GasBlock.bytes r.sample.gas ++ leSigned 2 r.sample.pressure ++ orZero 1 (leSigned 1) r.sample.temperature ++
  byte2 r.sample.flow ++ byte2 r.sample.position ++ byte1 r.sample.faults.length ++ faultBytes r.sample.faults ++
  byte1 (bits [r.marks.position, r.marks.flow, r.marks.pressure, r.marks.temperature]) ++ byte1 r.state.code ++
  byte1 r.holds.code ++ orZero 2 byte2 r.target ++ byte1 (lineCode r.outlet) ++ byte1 r.missCount ++
  byte1 (PerExc.code r.excursions) ++ byte1 (PerExc.code r.raised) ++ orZero 1 (fun e => byte1 e.code) r.moveEnd ++
  orZero 1 (fun c => byte1 (clsCode c)) r.command ++ byte1 r.trimOutcome.code ++ leSigned 2 r.step

/-! ## LINE (74 bytes) -/

/-- A line block, eighteen bytes. -/
def LineBlock.bytes (b : LineBlock) : List Byte :=
  byte1 b.status.code ++ byte1 (bits [b.ch4.isSome, b.evaluated.isSome]) ++ byte1 b.contributors ++ byte1 b.rosterSize ++
  leBytes 4 b.sf ++ orZero 2 byte2 b.ch4 ++ orZero 2 byte2 b.o2 ++ orZero 6 timeBytes b.evaluated

/-- The balancing move of a LINE: slot, action, target, outlet, phase. -/
def BalMove.bytes (m : BalMove) : List Byte :=
  byte1 m.slot.val ++ byte1 m.action.code ++ byte2 m.target ++ byte1 (lineCode m.outlet) ++ byte1 m.phase.code

/-- The demand: flow and engines running. -/
def demandBytes (d : Nat × Nat) : List Byte := byte2 d.1 ++ byte1 d.2

/-- A last balancing end: result and time elapsed. -/
def endBytes (e : Ending × Nat) : List Byte := byte1 e.1.code ++ timeBytes e.2

/-- LINE (10.7). -/
def LineSummary.bytes (l : LineSummary) : List Byte :=
  timeBytes l.time ++ byte1 l.role.code ++ byte1 l.mode.code ++ l.lines.engine.bytes ++ l.lines.flare.bytes ++
  byte1 l.counts.lineOxygen ++ byte1 l.counts.engineLow ++ byte1 l.counts.flareLow ++
  byte1 (bits [l.demand.isSome, l.demandAge.isSome]) ++ orZero 3 demandBytes l.demand ++
  orZero 6 timeBytes l.demandAge ++ byte1 (bits [l.lineLost, l.flareFault, l.combination]) ++
  byte1 (PerTrip.code l.accepted) ++ byte1 (PerTrip.code l.candidates) ++
  byte1 (bits [l.balancing.isSome, l.lastEnd.isSome]) ++ orZero 6 BalMove.bytes l.balancing ++
  orZero 7 endBytes l.lastEnd

/-! ## CONDITION (26 bytes) and ROLE (17 bytes) -/

/-- A wellhead or controller address with its segment. -/
def stationBytes (a : Nat × Seg) : List Byte := byte1 a.1 ++ byte1 (segCode a.2)

/-- CONDITION (10.7). -/
def CondNotice.bytes (n : CondNotice) : List Byte :=
  byte1 n.kind.code ++ byte1 n.source ++ byte1 (bits [n.address.isSome, n.measured.isSome, n.limit.isSome]) ++
  orZero 2 stationBytes n.address ++ byte1 n.level ++ timeBytes n.raised ++ timeBytes n.taken ++ byte1 n.recurrence ++
  orZero 2 (leSigned 2) n.measured ++ orZero 2 (leSigned 2) n.limit ++ byte1 n.depth ++ byte2 n.waiting

/-- ROLE (10.7). -/
def RoleNotice.bytes (n : RoleNotice) : List Byte :=
  timeBytes n.time ++ byte1 n.role.code ++ byte1 n.previous.code ++ byte1 n.cause.code ++ byte1 n.own ++
  byte1 (bits [n.other.isSome, n.takeover.isSome, n.removed.isSome]) ++ orZero 2 stationBytes n.other ++
  orZero 3 (fun c => byte1 c.1 ++ byte2 c.2) n.takeover ++ orZero 1 byte1 n.removed

/-! ## RESPONSE and the contents of READ (R197) -/

/-- A stored sample with its time (R6), 26 bytes and one for each fault; an absent one is sent as 26 zero bytes, its fault
count 0. The flow marker is 1 measured, 0 estimated (assumption 25). -/
def Sample.bytes (q : Sample) : List Byte :=
  optional 8 GasBlock.bytes q.gas ++ leSigned 2 q.pressure ++ optional 1 (leSigned 1) q.temperature ++ byte2 q.flow ++
  byte1 (flag q.flowMeasured) ++ byte2 q.position ++ byte1 (flag q.moving) ++
  counted (fun f => byte1 (WellFault.code f)) q.faults ++ timeBytes q.time

/-- The configuration fields in the order of R3. -/
def WellCfg.bytes (c : WellCfg) : List Byte :=
  byte1 c.address ++ byte1 (segCode c.seg) ++ byte1 (flag c.inService) ++ byte1 c.permitted.code ++ byte2 c.pmin ++
  byte2 c.pmax ++ byte1 c.step ++ byte1 c.gain ++ byte2 c.ch4Target ++ byte1 c.deadband ++ byte1 c.o2Soft ++
  byte2 c.balanceCeiling ++ byte2 c.assumedFlow

/-- A move record (R11). -/
def MoveRec.bytes (m : MoveRec) : List Byte :=
  byte2 m.target ++ byte1 (lineCode m.outlet) ++ byte1 (clsCode m.cls) ++ byte2 m.travel ++ timeBytes m.start

/-- A pending protective field (R12). -/
def PendingProt.bytes (p : PendingProt) : List Byte := byte2 p.target ++ byte1 (lineCode p.outlet)

/-- A loaded slot's record with its queued flag (R2), in the order of assumption 25. -/
def WellView.recordBytes (v : WellView) : List Byte :=
  let w := v.record
  w.cfg.bytes ++ byte1 (lineCode w.outlet) ++ optional 2 byte2 w.target ++ optional 26 Sample.bytes w.last ++
  byte1 (flag w.answering) ++ byte1 w.missCount ++ byte1 (flag w.forced) ++ byte1 w.holds.code ++
  byte1 w.excursions.hot ++ byte1 w.excursions.oxygen ++ byte1 w.excursions.vacuum ++ byte1 w.excursions.actuator ++
  optional 12 MoveRec.bytes w.move ++ optional 3 PendingProt.bytes w.pendingProt ++ byte1 (flag v.queued)

/-- A roster position: the roster by its outlet code, then the place on it (R2, assumption 25). -/
def placeBytes (x : Line × Nat) : List Byte := byte1 (lineCode x.1) ++ byte1 x.2

/-- A blend record with its status (R79, R80); its order and the four bytes of each sum are assumption 25. -/
def LineRecord.bytes (r : LineRecord) : List Byte :=
  byte1 r.contributors ++ leBytes 4 r.sf ++ leBytes 4 r.sm ++ leBytes 4 r.so ++ optional 2 byte2 r.ch4 ++
  optional 2 byte2 r.o2 ++ optional 6 timeBytes r.evaluated ++ byte1 r.status.code

/-- The settings of a segment (R130). -/
def SegSettings.bytes (x : SegSettings) : List Byte :=
  byte1 x.pattern.toNat ++ byte1 x.rate.code ++ byte2 x.replyTimeout ++ byte1 x.missLimit ++ byte2 x.budget ++
  byte2 x.moveTimeout ++ byte1 x.settleTolerance

/-- A queue entry (R152). -/
def Entry.bytes (e : Entry) : List Byte :=
  byte1 e.slot.val ++ byte2 e.target ++ byte1 (lineCode e.outlet) ++ byte1 (clsCode e.cls) ++ byte1 (flag e.sent)

/-- A sent copy (R152). -/
def SentCopy.bytes (c : SentCopy) : List Byte :=
  byte1 c.slot.val ++ byte2 c.target ++ byte1 (lineCode c.outlet) ++ byte1 (clsCode c.cls) ++ byte2 c.travel

/-- The counters of a segment (R33, R150, R152). -/
def SegCounters.bytes (c : SegCounters) : List Byte :=
  byte2 c.transactions ++ byte2 c.misses ++ byte2 c.checkErrors ++ byte2 c.foreignReplies ++ byte2 c.arbitrationLosses ++
  byte2 c.drops ++ byte2 c.evictions ++ byte2 c.echoFailures ++ byte2 c.rejected

/-- SEGMENT. The sum of the travels has no width in chapter 10: four bytes hold it (assumption 25). -/
def SegView.bytes (v : SegView) : List Byte :=
  v.settings.bytes ++ byte1 v.pointer.val ++ optional 1 (fun i => byte1 i.val) v.position ++ byte1 v.round.val ++
  optional 8 (fun t => byte1 t.1.code ++ byte1 t.2.1 ++ timeBytes t.2.2) v.txn ++ counted Entry.bytes v.queue ++
  leBytes 4 v.outstanding ++ byte2 v.settings.budget ++ byte2 v.budgetInForce ++ optional 7 SentCopy.bytes v.sentCopy ++
  counted (fun m => byte1 m.1.val ++ m.2.bytes) v.moves ++ v.counters.bytes

/-- A condition record whole (R106), 24 bytes; an attached record is marked 1 (assumption 25). -/
def CondRec.bytes (r : CondRec) : List Byte :=
  byte1 r.kind.code ++ byte1 r.source ++ byte1 r.level ++ timeBytes r.raised ++ optional 6 timeBytes r.taken ++
  byte1 r.recurrence ++ optional 2 (leSigned 2) r.measured ++ optional 2 (leSigned 2) r.limit ++ byte1 (flag r.attached)

/-- The site settings in the order of LOAD SITE (R196, R215). -/
def SiteSettings.bytes (x : SiteSettings) : List Byte :=
  byte2 x.maxSampleAge ++ byte1 x.verify.hot ++ byte1 x.verify.oxygen ++ byte1 x.verify.vacuum ++
  byte1 x.verify.actuator ++ byte1 x.hysteresis ++ byte2 x.balanceInterval ++ byte2 x.demandTimeout ++
  byte2 x.reportInterval ++ byte1 x.verifyLineOxygen ++ byte1 x.verifyEngineLow ++ byte1 x.verifyFlareLow ++
  byte1 x.intervals.trip0.code ++ byte1 x.intervals.trip1.code ++ byte1 x.intervals.trip2.code ++
  byte1 x.intervals.trip3.code ++ byte1 x.intervals.flareFault.code ++ byte1 x.silence

/-- The limit group in the order of LOAD LIMITS (R194, R215). -/
def Limits.bytes (x : Limits) : List Byte :=
  leSigned 1 x.hotGas ++ byte2 x.oxygenHard ++ leSigned 2 x.vacuumLoss ++ byte2 x.engineMin ++ byte1 x.engineO2Max ++
  byte2 x.flareMin ++ byte1 (PerTrip.code x.mask) ++ byte1 (PerTrip.code x.activeLow)

/-- The link counters (R207). -/
def LinkCounters.bytes (c : LinkCounters) : List Byte :=
  byte2 c.executed ++ byte2 c.checkErrors ++ byte2 c.overruns ++ byte2 c.protectionErrors ++ byte2 c.routineDiscards ++
  byte2 c.urgentDiscards

/-- A trip filter: raw level, accepted state, candidate. -/
def TripFilter.bytes (f : TripFilter) : List Byte :=
  byte1 (flag f.rawHigh) ++ byte1 (flag f.accepted) ++ optional 1 (fun b => byte1 (flag b)) f.candidate

/-- The place of a pair's record: 1 pending, 2 in service (assumption 25). -/
def CondPlace.code : CondPlace → Nat
  | .pending => 1
  | .inService => 2

/-- The data of a REPLY, by target, each in the order R197 lists. A slot's number stands first, and one not loaded answers it
with VACANT alone (R2). The choices of form, with the unlock state as 1 SET and 0 VOID, are assumption 25. -/
def ReadData.bytes : ReadData → List Byte
  | .well i st none => byte1 i.val ++ byte1 st.code
  | .well i st (some v) => byte1 i.val ++ v.recordBytes ++ byte1 st.code ++ optional 2 placeBytes v.place
  | .line _ r roster counts => r.bytes ++ counted (fun i => byte1 i.val) roster ++ (counts.map byte1).flatten
  | .segment _ v => v.bytes
  | .levels ks => (ks.map fun k => byte1 k.level ++ byte1 (flag k.masked)).flatten
  | .stack rs => counted CondRec.bytes rs
  | .waiting n rs => byte2 n ++ counted (fun x => CondRec.bytes x.1 ++ byte1 (flag x.2)) rs
  | .pair x => optional 25 (fun y => CondRec.bytes y.1 ++ byte1 y.2.code) x
  | .role a r ms el other =>
    byte1 a ++ byte1 r.code ++ byte1 (ms / 1000) ++ optional 6 timeBytes el ++
      optional 7 (fun x => timeBytes x.1 ++ byte1 (segCode x.2)) other
  | .site x => x.bytes
  | .limits x => x.bytes
  | .link m u b ur ro rs c =>
    byte1 m.code ++ byte1 (flag u) ++ byte1 b ++ byte1 ur ++ byte1 ro ++ byte1 (flag rs) ++ c.bytes
  | .lineState d age ll ff ts bal le =>
    optional 3 demandBytes d ++ optional 6 timeBytes age ++ byte1 (flag ll) ++ byte1 (flag ff) ++ ts.trip0.bytes ++
      ts.trip1.bytes ++ ts.trip2.bytes ++ ts.trip3.bytes ++ ts.flareFault.bytes ++ optional 6 BalMove.bytes bal ++
      optional 7 endBytes le

/-- RESPONSE (10.7). -/
def Response.bytes (r : Response) : List Byte :=
  byte1 r.kind.toNat ++ byte1 r.outcome.code ++ timeBytes r.time ++ (match r.data with
    | some d => d.bytes
    | none => [])

/-! ## Frames (R214) -/

/-- An uplink frame's kind, tag and payload: kinds 17 to 21; all but RESPONSE carry tag 0. -/
def Uplink.frame : Uplink → PlantFrame
  | .response r => .make 17 r.tag.toNat r.bytes
  | .report r => .make 18 0 r.bytes
  | .line l => .make 19 0 l.bytes
  | .condition n => .make 20 0 n.bytes
  | .role n => .make 21 0 n.bytes

/-- All characters of an uplink frame as they travel, the delimiter 7Eh first (R214). -/
def Uplink.characters (u : Uplink) : List Byte := 0x7E#8 :: u.frame.covered ++ leBytes 2 u.frame.check.toNat

/-- What the plant transmit line carries: the frame the transmitter is sending, if any (R206). -/
def State.plantOutput (s : State) : Option (List Byte) := s.link.transmitter.map Uplink.characters

/-- What a segment's transmit output carries: a frame, or the recessive level (R128). -/
def State.segmentOutput (s : State) (g : Seg) : Option (List Byte) := (s.seg g).sending.map FieldFrame.characters

end Sys2Proof.Machine
end

