-- ==== Sys2Proof/Machine/Dispatch.lean ====
section
/-! DEFINITION. One arm for each command, each a direct call of its meaning. -/

namespace Sys2Proof.Machine

def exec (i : Instr) (s : State) : Host.Outcome State Fault Refusal :=
  match i with
  | .resetAsserted => Sys2Proof.Machine.execResetAsserted s
  | .resetReleased strapHigh => Sys2Proof.Machine.execResetReleased strapHigh s
  | .plantFrameReceived f => Sys2Proof.Machine.execPlantFrameReceived f s
  | .plantFrameAbandoned => Sys2Proof.Machine.execPlantFrameAbandoned s
  | .loadWell => Sys2Proof.Machine.execLoadWell s
  | .loadWellVacate => Sys2Proof.Machine.execLoadWellVacate s
  | .loadSegment => Sys2Proof.Machine.execLoadSegment s
  | .loadSite => Sys2Proof.Machine.execLoadSite s
  | .unlock => Sys2Proof.Machine.execUnlock s
  | .loadLimits => Sys2Proof.Machine.execLoadLimits s
  | .loadCondition => Sys2Proof.Machine.execLoadCondition s
  | .readWell => Sys2Proof.Machine.execReadWell s
  | .readLine => Sys2Proof.Machine.execReadLine s
  | .readSegment => Sys2Proof.Machine.execReadSegment s
  | .readSegmentClear => Sys2Proof.Machine.execReadSegmentClear s
  | .readConditionLevels => Sys2Proof.Machine.execReadConditionLevels s
  | .readInServiceStack => Sys2Proof.Machine.execReadInServiceStack s
  | .readPendingSet => Sys2Proof.Machine.execReadPendingSet s
  | .readConditionPair => Sys2Proof.Machine.execReadConditionPair s
  | .readRole => Sys2Proof.Machine.execReadRole s
  | .readSite => Sys2Proof.Machine.execReadSite s
  | .readLimits => Sys2Proof.Machine.execReadLimits s
  | .readLink => Sys2Proof.Machine.execReadLink s
  | .readLinkClear => Sys2Proof.Machine.execReadLinkClear s
  | .readLineState => Sys2Proof.Machine.execReadLineState s
  | .demand => Sys2Proof.Machine.execDemand s
  | .modeRun => Sys2Proof.Machine.execModeRun s
  | .modeHold => Sys2Proof.Machine.execModeHold s
  | .force => Sys2Proof.Machine.execForce s
  | .release => Sys2Proof.Machine.execRelease s
  | .clear => Sys2Proof.Machine.execClear s
  | .dismiss => Sys2Proof.Machine.execDismiss s
  | .budgetReset => Sys2Proof.Machine.execBudgetReset s
  | .restart => Sys2Proof.Machine.execRestart s
  | .malformed => Sys2Proof.Machine.execMalformed s
  | .uplinkFrameSent => Sys2Proof.Machine.execUplinkFrameSent s
  | .poll g => Sys2Proof.Machine.execPoll g s
  | .set g => Sys2Proof.Machine.execSet g s
  | .presenceTimerExpiry g => Sys2Proof.Machine.execPresenceTimerExpiry g s
  | .presence g => Sys2Proof.Machine.execPresence g s
  | .frameTransmitted g => Sys2Proof.Machine.execFrameTransmitted g s
  | .arbitrationLoss g winner => Sys2Proof.Machine.execArbitrationLoss g winner s
  | .sample g f => Sys2Proof.Machine.execSample g f s
  | .echo g f => Sys2Proof.Machine.execEcho g f s
  | .replyTimeout g => Sys2Proof.Machine.execReplyTimeout g s
  | .otherControllerFrame g f => Sys2Proof.Machine.execOtherControllerFrame g f s
  | .strayFrame g f => Sys2Proof.Machine.execStrayFrame g f s
  | .fieldCheckFailure g f => Sys2Proof.Machine.execFieldCheckFailure g f s
  | .fieldFrameAbandoned g => Sys2Proof.Machine.execFieldFrameAbandoned g s
  | .overheardTimeout g => Sys2Proof.Machine.execOverheardTimeout g s
  | .silenceTakeover => Sys2Proof.Machine.execSilenceTakeover s
  | .moveTimeout slot => Sys2Proof.Machine.execMoveTimeout slot s
  | .tripFilterExpiry t => Sys2Proof.Machine.execTripFilterExpiry t s
  | .tripInputChange t high => Sys2Proof.Machine.execTripInputChange t high s
  | .reportTimer => Sys2Proof.Machine.execReportTimer s
  | .demandTimeout => Sys2Proof.Machine.execDemandTimeout s
  | .replyOfWrongKind g f => Sys2Proof.Machine.execReplyOfWrongKind g f s
  | .ownAddressFrame g f => Sys2Proof.Machine.execOwnAddressFrame g f s

end Sys2Proof.Machine
end

