-- ==== Sys2Proof/Machine/Step.lean ====
section
/-! DEFINITION. One step: the command at the front of the queue, or, when none waits, one millisecond of the time base. -/

namespace Sys2Proof.Machine

/-- One millisecond passes with no command (R38, assumption 3); the time base stands while RESET is held (assumption 30). -/
def idle (s : State) : State := if s.held then s else s.advanceTo (s.timeBase + 1)

/-- The command at the front of the queue is executed on the state with the queue's rest; an empty queue lets one millisecond
pass (assumption 3). -/
def step (s : State) : Host.Outcome State Fault Refusal :=
  match s.pending with
  | c :: rest => exec c { s with pending := rest }
  | [] => .next (idle s)

/-- The state with the command a table word spells at the front of its queue; no word spells one. -/
def State.withFetchWord (s : State) (nbits w : Nat) : State :=
  match decodeTableWord nbits w with
  | some c => { s with pending := c :: s.pending }
  | none => s

end Sys2Proof.Machine
end

