-- ==== Sys2Proof/WellFormed.lean ====
section
/-! DEFINITION. Which commands are well formed: the frame a row carries is one that reaches that row. `exec` gives every command an
effect, well formed or not; a frame in the wrong row is judged by its contents (assumption 7). -/

namespace Sys2Proof

/-- A field frame's payload is at most 24 bytes (R211). -/
def FieldFrame.fits (f : FieldFrame) : Bool := decide (f.payload.length ≤ Config.maxFieldPayload)

/-- The source is one of the two controller addresses (R129). -/
def FieldFrame.fromController (f : FieldFrame) : Bool :=
  f.source == Config.lowAddress || f.source == Config.highAddress

/-- A complete frame with a good check (R129). -/
def FieldFrame.complete (f : FieldFrame) : Bool := f.fits && f.checkGood

/-- A complete frame of any other source, taken as a wellhead's (R212). -/
def FieldFrame.fromWellhead (f : FieldFrame) : Bool := f.complete && !f.fromController

/-- A plant frame's payload is at most 240 bytes (R189, R214). -/
def PlantFrame.fits (f : PlantFrame) : Bool := decide (f.payload.length ≤ Config.maxPlantPayload)

/-- The command carries what its row says. -/
def Instr.wellFormed : Instr → Bool
  | .plantFrameReceived f => f.fits
  | .arbitrationLoss _ winner => decide (winner < 256)
  | .sample _ f => f.fromWellhead && f.isSample
  | .echo _ f => f.fromWellhead && f.isEcho
  | .otherControllerFrame _ f => f.complete && f.fromController
  | .strayFrame _ f => f.fromWellhead
  | .fieldCheckFailure _ f => f.fits && !f.checkGood
  | .replyOfWrongKind _ f => f.fromWellhead
  | .ownAddressFrame _ f => f.complete && f.fromController
  | _ => true

end Sys2Proof
end

