-- ==== Sys2Proof/Safety.lean ====
section
/-! DEFINITION. What counts as a safe run, in the terms claims use: the laws the manual states of the whole machine (R3, R17, R18,
R107, R110, R112, R153, R176, R203) and the situations claims speak of. -/

namespace Sys2Proof.Machine

/-! ## The manual's laws -/

/-- The law of the uplink queues and the receive buffer (R203): at most 16, 64 with the reserved place, and 8 frames. -/
def LinkLaw (k : Link) : Prop :=
  k.urgent.length ≤ Config.urgentCap ∧ k.routineFill ≤ Config.routineCap ∧ k.buffer.length ≤ Config.bufferCap

/-- The law of a Command Queue (R153): at most 16 entries, at most one per well, protective entries first. -/
def QueueLaw (q : List Entry) : Prop :=
  q.length ≤ Config.queueCap ∧ (q.map (·.slot)).Nodup ∧ q.Pairwise fun a b => b.isProt = true → a.isProt = true

/-- Every Command Queue obeys its law. -/
def QueuesLaw (s : State) : Prop := ∀ g : Seg, QueueLaw (s.seg g).queue

/-- The law of the rosters (R17, R18): a slot stands on the roster its record puts it on and on no other, once, and each roster
is in lean order. -/
def RosterLaw (s : State) : Prop :=
  ∀ l : Line, (s.rosters.get l).Nodup ∧ (∀ i : Slot, i ∈ s.rosters.get l ↔ rosterLine (s.well i) = some l) ∧
    (s.rosters.get l).Pairwise fun i j => leanOrder s.wells i j = true

/-- The law of the conditions (R107, R110, R112): no pair twice, levels 0 to 7, the pending set in taking order, levels strictly
decreasing in the order taken (the stack's top is its list's head). -/
def CondLaw (c : Conditions) : Prop :=
  ((c.waiting ++ c.stack).map fun r => (r.kind, r.source)).Nodup ∧
  (∀ k : CondKind, (c.setting k).level ≤ 7) ∧ (∀ r ∈ c.waiting ++ c.stack, r.level ≤ 7) ∧
  (c.waiting.Pairwise fun a b => a.takenBefore b = true) ∧ c.stack.Pairwise fun a b => a.level < b.level

/-- The silence timer runs exactly while the role is STANDBY (R176). -/
def RoleLaw (u : RoleUnit) : Prop := u.role = .standby ↔ u.silenceStart.isSome = true

/-- No two loaded slots carry the same address (R3). -/
def AddressLaw (s : State) : Prop :=
  ∀ (i j : Slot) (w v : Well), s.well i = some w → s.well j = some v → w.cfg.address = v.cfg.address → i = j

/-- Outstanding travel is the sum of the travels of the segment's move records (R161). The law goes through a run with two more:
a well out of service has no move (R20, R25), and a sent copy stands only with the SET of its slot in flight (R152). -/
def TravelLaw (s : State) : Prop :=
  (∀ g : Seg, (s.seg g).outstanding = ((s.movesOf g).map fun m => m.2.travel).sum) ∧
  (∀ (i : Slot) (w : Well), s.well i = some w → w.cfg.inService = false → w.move = none) ∧
  ∀ (g : Seg) (c : SentCopy), (s.seg g).sentCopy = some c →
    ∃ t, (s.seg g).txn = some t ∧ t.kind = .set ∧ t.slot = some c.slot

/-- The law of the pending protective fields (R156, R157): a command for a well stands in its queue or in the field, not in both,
and in STANDBY every queue is empty (R184). -/
def PendingLaw (s : State) : Prop :=
  (s.unit.role = .standby → ∀ g : Seg, (s.seg g).queue = []) ∧
  ∀ (i : Slot) (w : Well), s.well i = some w → s.protEntryOf i = none ∨ w.pendingProt = none

/-- A run is safe when no step of it stops. -/
def SafeStep (s : State) : Prop := ∃ t, step s = .next t

/-! ## Situations -/

/-- Frame `f` stands first in the receive buffer, `rest` behind it, and its RESPONSE has room (R191). -/
def Ready (s : State) (f : PlantFrame) (rest : List PlantFrame) : Prop :=
  s.held = false ∧ s.link.buffer = f :: rest ∧ s.link.routine.length < Config.routineCap ∧ s.evalAsked = .all false

/-- The Plant Link after the execution of `f` with this outcome and data: the frame gone and counted, the unlock as told, and
the RESPONSE joined to the routine queue (R191 to R193, R207). -/
def answered (k : Link) (f : PlantFrame) (rest : List PlantFrame) (unlocked : Bool) (o : RespOutcome) (t : Nat)
    (d : Option ReadData) : Link :=
  Link.pump
    { k with
      buffer := rest
      reserved := false
      unlocked := unlocked
      routine := k.routine ++ [.response ⟨f.tag, f.kind, o, t, d⟩]
      counters := { k.counters with executed := counterInc k.counters.executed } }

/-- The state after an execution that changes nothing but the Plant Link. -/
def State.answer (s : State) (f : PlantFrame) (rest : List PlantFrame) (o : RespOutcome) (d : Option ReadData) : State :=
  { s with link := answered s.link f rest false o s.timeBase d }

/-- The plant computer's rows (R191): each executes the first frame of the receive buffer. -/
def plantRows : List Instr :=
  [.loadWell, .loadWellVacate, .loadSegment, .loadSite, .unlock, .loadLimits, .loadCondition, .readWell, .readLine,
    .readSegment, .readSegmentClear, .readConditionLevels, .readInServiceStack, .readPendingSet, .readConditionPair,
    .readRole, .readSite, .readLimits, .readLink, .readLinkClear, .readLineState, .demand, .modeRun, .modeHold, .force,
    .release, .clear, .dismiss, .budgetReset, .restart, .malformed]

/-- The rows that write a setting, a configuration field or the mode. -/
def loadingRows : List Instr :=
  [.loadWell, .loadWellVacate, .loadSegment, .loadSite, .loadLimits, .loadCondition, .modeRun, .modeHold, .restart]

/-- The rows that execute frame `f`: those of its kind, by form, target, clear flag or mode where a kind has several. The spec gives
one row to each command it lists; where a value names none of them, the rows that take the frame are the model's (assumption 6). -/
def takes (c : Instr) (f : PlantFrame) : Bool :=
  match c with
  | .loadWell => f.isKind 1 && f.payload.length == 20
  | .loadWellVacate => f.isKind 1 && f.payload.length == 1
  | .loadSegment => f.isKind 2
  | .loadSite => f.isKind 3
  | .unlock => f.isKind 4
  | .loadLimits => f.isKind 5
  | .loadCondition => f.isKind 6
  | .readWell => readsTarget 1 f
  | .readLine => readsTarget 2 f
  | .readSegment => readsPlain 3 f
  | .readSegmentClear => readsClear 3 f
  | .readConditionLevels => readsTarget 4 f
  | .readInServiceStack => readsTarget 5 f
  | .readPendingSet => readsTarget 6 f
  | .readConditionPair => readsTarget 7 f
  | .readRole => readsTarget 8 f
  | .readSite => readsTarget 9 f
  | .readLimits => readsTarget 10 f
  | .readLink => readsPlain 11 f
  | .readLinkClear => readsClear 11 f
  | .readLineState => readsTarget 12 f
  | .demand => f.isKind 8
  | .modeRun => f.isKind 9 && byteAt f.payload 0 != 1
  | .modeHold => f.isKind 9 && byteAt f.payload 0 != 2
  | .force => f.isKind 10
  | .release => f.isKind 11
  | .clear => f.isKind 12
  | .dismiss => f.isKind 13
  | .budgetReset => f.isKind 14
  | .restart => f.isKind 15
  | .malformed => !f.wellShaped
  | _ => false

/-- The RESPONSEs the uplink holds: on the transmitter and in its queues. -/
def Link.responses (k : Link) : List Response :=
  (k.transmitter.toList ++ k.urgent ++ k.routine).filterMap fun u =>
    match u with
    | .response r => some r
    | _ => none

/-- From `k` to `k'` the uplink has taken one RESPONSE and no other: that to `f`, which is the last frame of the routine queue or
stands on the transmitter with none behind it (R191, R192). -/
def Responded (k k' : Link) (f : PlantFrame) (t : Nat) : Prop :=
  ∃ o d, k'.responses.Perm (⟨f.tag, f.kind, o, t, d⟩ :: k.responses) ∧
    (k'.routine.getLast? = some (.response ⟨f.tag, f.kind, o, t, d⟩) ∨
      (k'.routine = [] ∧ k'.transmitter = some (.response ⟨f.tag, f.kind, o, t, d⟩)))

/-- What no event of the field, the pins or the time base changes: the commands that wait, RESET, the settings and limits, the
levels and masks, the strap, the mode, the unlock, and every slot's configuration. -/
structure Undisturbed (s t : State) : Prop where
  pending : t.pending = s.pending
  held : t.held = s.held
  site : t.site = s.site
  limits : t.limits = s.limits
  kinds : t.conds.kinds = s.conds.kinds
  settings : ∀ g : Seg, (t.seg g).settings = (s.seg g).settings
  strap : t.unit.strapHigh = s.unit.strapHigh
  mode : t.link.mode = s.link.mode
  unlocked : t.link.unlocked = s.link.unlocked
  cfg : ∀ j : Slot, (t.well j).map (·.cfg) = (s.well j).map (·.cfg)

/-- The fields of a record but its holds, excursion counts, move and pending field: configuration, outlet, target, last sample,
answering, miss count and forced. The slot's roster follows from them (R13, R17). -/
def Well.key (w : Well) : WellCfg × Line × Option Nat × Option Sample × Bool × Nat × Bool :=
  (w.cfg, w.outlet, w.target, w.last, w.answering, w.missCount, w.forced)

/-- The permitted outlets a load carries contain every outlet check 3 of R20 names for a working slot. -/
def KeepsOutlets (s : State) (x : WellLoad) (w : Well) : Prop :=
  x.cfg.permitted.allows w.outlet = true ∧ (∀ e, s.entryOf x.slot = some e → x.cfg.permitted.allows e.outlet = true) ∧
    (∀ p, w.pendingProt = some p → x.cfg.permitted.allows p.outlet = true) ∧
    ∀ m, w.move = some m → x.cfg.permitted.allows m.outlet = true

/-- No well holds a pending protective field. -/
def NoPending (s : State) : Prop := ∀ (j : Slot) (v : Well), s.well j = some v → v.pendingProt = none

/-- How the sample `q` ends the move of the well `w`, if it does (R169). -/
def endingBy (s : State) (w : Well) (q : Sample) : Option Ending :=
  match w.move with
  | none => none
  | some m =>
    if q.moving then none
    else if max (q.position - m.target) (m.target - q.position) ≤ (s.seg w.cfg.seg).settings.settleTolerance then some .settled
    else some .short

/-- The four tests of R42 on the sample `q`, which has ended its well's move as told; none where it lacks the field. -/
def excursionOf (lim : Limits) (q : Sample) (ended : Option Ending) : ExcKind → Option Bool
  | .hot => q.temperature.map fun x => decide (lim.hotGas ≤ x)
  | .oxygen => q.gas.map fun x => decide (lim.oxygenHard ≤ x.o2)
  | .vacuum => if WellFault.pressureSensor ∈ q.faults then none else some (decide (lim.vacuumLoss < q.pressure))
  | .actuator => some (decide (WellFault.actuator ∈ q.faults) || decide (ended = some .short))

/-- The measured value and the limit at raise by a sample (R46); `aim` is the target of the move it ended, else the target field. -/
def valuesAtRaise (lim : Limits) (q : Sample) (aim : Nat) : ExcKind → Option Int × Option Int
  | .hot => (q.temperature, some lim.hotGas)
  | .oxygen => (q.gas.map fun x => (x.o2 : Int), some (lim.oxygenHard : Int))
  | .vacuum => (some q.pressure, some lim.vacuumLoss)
  | .actuator => (some (q.position : Int), some (aim : Int))

/-- An excursion of kind `k` of slot `i`'s well `w` is verified by one more: no record is attached, and the count reaches the
verification count (R43). -/
def Verifies (s : State) (i : Slot) (w : Well) (k : ExcKind) : Prop :=
  s.attachedRec k.kind i.val = false ∧ s.site.verify.get k ≤ satInc 15 (w.excursions.get k)

/-- The POLL or SET `t` of segment `g`, begun for the loaded well `w` in slot `i`, awaits its reply (R133, R134). -/
def Awaits (s : State) (g : Seg) (t : Txn) (i : Slot) (w : Well) : Prop :=
  (s.seg g).txn = some t ∧ t.window.isSome = true ∧ t.slot = some i ∧ s.well i = some w ∧ w.cfg.inService = true ∧
    w.cfg.seg = g ∧ w.cfg.address = t.dest

/-- A complete frame of a wellhead with a good check and these addresses (R129, R211). -/
def Arrives (f : FieldFrame) (source destination : Nat) : Prop :=
  f.fromWellhead = true ∧ f.source = source ∧ f.destination = destination

/-- A complete frame of the other controller with a good check (R129). -/
def FromOther (s : State) (f : FieldFrame) : Prop := f.complete = true ∧ f.source = s.otherAddress

/-- A further miss leaves the well as it answers: it is silent already, or its miss count stays below the miss limit (R139). -/
def BelowMissLimit (s : State) (w : Well) : Prop :=
  w.answering = false ∨ satInc Config.countCap w.missCount < (s.seg w.cfg.seg).settings.missLimit

/-- From `s` to `t` slot `i`, whose record is `w`, has one miss more; segment `g` is `q`; nothing else has changed (R139). -/
def OneMiss (s t : State) (g : Seg) (q : Segment) (i : Slot) (w : Well) : Prop :=
  t = { s with wells := t.wells, rosters := t.rosters, segs := s.segs.put g q } ∧
    t.well i = some { w with missCount := satInc Config.countCap w.missCount } ∧ ∀ j, j ≠ i → t.well j = s.well j

/-- No evaluation is left over between commands (assumption 28). -/
def Settled (s : State) : Prop := s.evalAsked = .all false

/-- No exchange is open on segment `g`: no transaction in flight, nothing being sent, no overheard transaction. -/
def Quiet (s : State) (g : Seg) : Prop :=
  (s.seg g).txn = none ∧ (s.seg g).sending = none ∧ (s.seg g).overheard = none

/-- The verification timer of input `k` expires, or the raw level of `k`, whose interval is off, changes (R92, R93). -/
def TripEvent (s : State) (k : Trip) (c : Instr) : Prop :=
  (c = .tripFilterExpiry k ∧ s.site.intervals.get k ≠ .off) ∨
    ∃ high, c = .tripInputChange k high ∧ s.site.intervals.get k = .off

/-- How line-lost status and flare fault status follow an event of the trip inputs or of the limits, from `s` before it to `u` after
it (R94, R95, R97 to R99). -/
structure LineLostFollows (s u : State) : Prop where
  /-- The combination becomes satisfied: onset, with ENGINE LINE LOST raised. -/
  onset : s.combination = false → u.combination = true → s.balancer.lineLost = false →
    u.balancer.lineLost = true ∧ ∃ r, u.conds.find .engineLineLost 96 = some r ∧
      (s.hasRec .engineLineLost 96 = false →
        r.raised = u.timeBase ∧ r.recurrence = 0 ∧ r.limit = none ∧
          r.measured = some ((if u.limits.mask.trip0 then 1 else 0) + (if u.limits.mask.trip1 then 2 else 0) +
            (if u.limits.mask.trip2 then 4 else 0) + (if u.limits.mask.trip3 then 8 else 0)))
  /-- It is satisfied again while the status is set: no second onset, one recurrence more. -/
  again : s.combination = false → u.combination = true → s.balancer.lineLost = true →
    u.balancer.lineLost = true ∧
      (CondLaw s.conds → (u.conds.find .engineLineLost 96).map (·.recurrence) =
        (s.conds.find .engineLineLost 96).map fun r => satInc 255 r.recurrence)
  /-- It ceases, or has ceased, and the record has gone: the status ends. -/
  ends : u.combination = false → s.balancer.lineLost = true → s.hasRec .engineLineLost 96 = false →
    u.balancer.lineLost = false ∧ u.isOpen .engine = true ∧ u.lines.engine.evaluated = some u.timeBase
  /-- It stays satisfied, or is not satisfied with the record standing or the status not set: the status stays. -/
  stays : (s.combination = true ∧ u.combination = true) ∨
      (u.combination = false ∧ (s.hasRec .engineLineLost 96 = true ∨ s.balancer.lineLost = false)) →
    u.balancer.lineLost = s.balancer.lineLost
  /-- Flare fault status is the accepted state of its input. -/
  flareFault : u.balancer.flareFault = u.trips.flareFault.accepted

/-- A filter whose interval or polarity a load has changed, at time `t`: with an interval it restarts with no candidate and keeps its
accepted state, and without one it takes the raw level through its polarity (R93). -/
def TripFilter.reloaded (f : TripFilter) (interval : TripInterval) (activeLow : Bool) (t : Nat) : TripFilter :=
  if interval = .off then ⟨f.rawHigh, xor f.rawHigh activeLow, none, f.timer, false⟩
  else ⟨f.rawHigh, f.accepted, none, t, false⟩

/-- What an evaluation makes of a kind of its line, from `s` to `t`: `hit` tells that the line's status matches the kind, `before` and
`after` are the kind's count (R81, R82). -/
structure LineKindTreated (s t : State) (k : CondKind) (src : Nat) (hit : Prop) (measured : Option Nat)
    (limit verify before after : Nat) : Prop where
  /-- No match: the count is 0, a pending record is withdrawn and one in service stays. -/
  missed : ¬ hit → after = 0 ∧ (∀ r ∈ t.conds.waiting, ¬ (r.kind = k ∧ r.source = src)) ∧
    ∀ r ∈ s.conds.stack, r.kind = k → r.source = src → r ∈ t.conds.stack
  /-- A match with a record standing: a recurrence. -/
  recurs : hit → s.hasRec k src = true → after = 0 ∧
    (t.conds.find k src).map (·.recurrence) = (s.conds.find k src).map fun r => satInc 255 r.recurrence
  /-- A match below verification: the count rises. -/
  counts : hit → s.hasRec k src = false → satInc 15 before < verify → after = satInc 15 before ∧ t.hasRec k src = false
  /-- A match that reaches verification: the condition is raised. -/
  raised : hit → s.hasRec k src = false → verify ≤ satInc 15 before → after = 0 ∧ ∃ r, t.conds.find k src = some r ∧
    r.level = (s.conds.setting k).level ∧ r.raised = t.timeBase ∧ r.recurrence = 0 ∧ r.attached = true ∧
    r.measured = measured.map (fun m => (m : Int)) ∧ r.limit = some (limit : Int)

/-! ## Ranges -/

/-- The ranges of the limit group (R41, R76); the mask selects among TRIP0 to TRIP3 (R94). -/
def Limits.InRange (x : Limits) : Prop :=
  (20 ≤ x.hotGas ∧ x.hotGas ≤ 120) ∧ (10 ≤ x.oxygenHard ∧ x.oxygenHard ≤ 500) ∧ (-30000 ≤ x.vacuumLoss ∧ x.vacuumLoss ≤ 0) ∧
    (200 ≤ x.engineMin ∧ x.engineMin ≤ 800) ∧ (5 ≤ x.engineO2Max ∧ x.engineO2Max ≤ 200) ∧
    (100 ≤ x.flareMin ∧ x.flareMin ≤ 600) ∧ x.mask.flareFault = false

/-- The ranges of the site settings (R38, R41, R76, R177). -/
def SiteSettings.InRange (x : SiteSettings) : Prop :=
  (10 ≤ x.maxSampleAge ∧ x.maxSampleAge ≤ 3600) ∧ (∀ k : ExcKind, 1 ≤ x.verify.get k ∧ x.verify.get k ≤ 15) ∧
    x.hysteresis ≤ 200 ∧ (10 ≤ x.balanceInterval ∧ x.balanceInterval ≤ 3600) ∧
    (5 ≤ x.demandTimeout ∧ x.demandTimeout ≤ 600) ∧ (1 ≤ x.reportInterval ∧ x.reportInterval ≤ 600) ∧
    (1 ≤ x.verifyLineOxygen ∧ x.verifyLineOxygen ≤ 15) ∧ (1 ≤ x.verifyEngineLow ∧ x.verifyEngineLow ≤ 15) ∧
    (1 ≤ x.verifyFlareLow ∧ x.verifyFlareLow ≤ 15) ∧ (1 ≤ x.silence ∧ x.silence ≤ 30)

/-- The ranges of a segment's settings (R130): the pattern has at least one P and at least one C. -/
def SegSettings.InRange (x : SegSettings) : Prop :=
  (x.pattern ≠ 0#8 ∧ x.pattern ≠ 0xFF#8) ∧ (20 ≤ x.replyTimeout ∧ x.replyTimeout ≤ 1000) ∧
    (1 ≤ x.missLimit ∧ x.missLimit ≤ 15) ∧ (50 ≤ x.budget ∧ x.budget ≤ 4000) ∧
    (10 ≤ x.moveTimeout ∧ x.moveTimeout ≤ 600) ∧ x.settleTolerance ≤ 50

/-- The ranges of a well's configuration fields (R3). -/
def WellCfg.InRange (c : WellCfg) : Prop :=
  (1 ≤ c.address ∧ c.address ≤ 239) ∧ c.pmin ≤ c.pmax ∧ c.pmax ≤ 1000 ∧ (1 ≤ c.step ∧ c.step ≤ 200) ∧ c.gain ≤ 255 ∧
    c.ch4Target ≤ 1000 ∧ c.deadband ≤ 100 ∧ c.o2Soft ≤ 250 ∧ c.balanceCeiling ≤ 1000 ∧ c.assumedFlow ≤ 4000

/-- The payload of a load form (R215). -/
def WellLoad.payload (x : WellLoad) : List Byte :=
  let c := x.cfg
  leBytes 1 x.slot.val ++ leBytes 1 c.address ++ leBytes 1 (segCode c.seg) ++ leBytes 1 (if c.inService then 1 else 0) ++
    leBytes 1 c.permitted.code ++ leBytes 1 (lineCode x.initial) ++ leBytes 2 c.pmin ++ leBytes 2 c.pmax ++ leBytes 1 c.step ++
    leBytes 1 c.gain ++ leBytes 2 c.ch4Target ++ leBytes 1 c.deadband ++ leBytes 1 c.o2Soft ++ leBytes 2 c.balanceCeiling ++
    leBytes 2 c.assumedFlow

end Sys2Proof.Machine
end

