-- ==== Sys2Proof/Certificates/Slice0/Obligations.lean ====
section
/-! DEFINITION. The statements for the provers, in the order of OBLIGATIONS.json. A statement about a command of the plant computer
speaks of a frame that stands ready (`Ready`); `State.answer` is the state that differs in the Plant Link alone. -/

open Sys2Proof Sys2Proof.Machine

/-! ## The machine -/

/-- A step takes the command at the front of the queue (95_what_each_step_holds.md). -/
def Obligations.StepRunsFrontCommand : Prop :=
  ∀ (c : Instr) (rest : List Instr) (s : State), s.pending = c :: rest → step s = exec c { s with pending := rest }

/-- A step with no command waiting lets one millisecond pass; the time base stands while RESET is held. The model's own
convention (assumptions 3 and 30). No command ever stops the machine: the manual names no event that does (assumption 1). -/
def Obligations.EveryStepCompletes : Prop :=
  (∀ s : State, s.pending = [] →
     (s.held = false → step s = .next { s with timeBase := s.timeBase + 1 }) ∧ (s.held = true → step s = .next s)) ∧
  ((∀ (c : Instr) (s : State), ∃ t, exec c s = .next t) ∧ ∀ s : State, SafeStep s)

/-- The state after power-on reset, block by block, with every setting and limit (R30, R38, R41, R76, R93, R103, R127, R130, R151,
R152, R177, R188, R208). The raw levels of the pins come from outside and are not stated (assumption 2). -/
def Obligations.ResetHoldsThePowerOnValues : Prop :=
  (∀ i : Slot, State.reset.well i = none ∧ State.reset.stateOf i = .vacant) ∧ State.reset.rosters = ⟨[], []⟩ ∧
    (∀ g : Seg,
      (State.reset.seg g).settings = ⟨0x55#8, .b19200, 200, 3, 600, 120, 10⟩ ∧ (State.reset.seg g).pointer = 0 ∧
        (State.reset.seg g).position = none ∧ (State.reset.seg g).round = 0 ∧ Quiet State.reset g ∧
        (State.reset.seg g).presenceTimer = none ∧ (State.reset.seg g).queue = [] ∧
        (State.reset.seg g).outstanding = 0 ∧ (State.reset.seg g).budgetInForce = 600 ∧
        (State.reset.seg g).sentCopy = none ∧ (State.reset.seg g).counters = ⟨0, 0, 0, 0, 0, 0, 0, 0, 0⟩) ∧
    (∀ l : Line, State.reset.lines.get l = ⟨.noFlow, 0, 0, 0, 0, none, none, none⟩) ∧
    State.reset.balancer = ⟨⟨0, 0, 0⟩, none, none, none, none, 0, 0, false, false⟩ ∧
    (∀ t : Trip, (State.reset.trips.get t).accepted = false ∧ (State.reset.trips.get t).candidate = none ∧
      (State.reset.trips.get t).timer = 0 ∧ (State.reset.trips.get t).awaitingFirst = true) ∧
    State.reset.site = ⟨600, ⟨2, 3, 3, 2⟩, 20, 120, 30, 10, 4, 4, 4, ⟨.s1, .s1, .s1, .s1, .s1⟩, 3⟩ ∧
    State.reset.limits =
      ⟨60, 60, -250, 450, 40, 180, ⟨false, false, false, false, false⟩, ⟨false, false, false, false, false⟩⟩ ∧
    State.reset.conds.waiting = [] ∧ State.reset.conds.stack = [] ∧
    State.reset.conds.kinds.toList.map (·.level) = [0, 1, 3, 4, 5, 0, 0, 1, 2, 3, 6] ∧
    (∀ k : CondKind, (State.reset.conds.setting k).masked = false) ∧
    State.reset.unit.role = .standby ∧ State.reset.unit.silenceStart = some 0 ∧ State.reset.unit.lastOther = none ∧
    State.reset.silenceInForce = (if State.reset.unit.strapHigh then 4000 else 3000) ∧
    State.reset.link = ⟨[], false, false, .hold, [], [], none, ⟨0, 0, 0, 0, 0, 0⟩⟩ ∧ State.reset.timeBase = 0

/-- RESET_ASSERTED and RESET_RELEASED give every block its power-on value; the commands that wait and the levels of the pins
are not the machine's to change, and the strap is read at the release alone (R174, R188, R208). While RESET is held no
command but the release and the pins has an effect (R208; assumption 10). -/
def Obligations.ResetCommandsRestoreThePowerOnValues : Prop :=
  (∀ (s : State) (high : Bool),
     (∃ t, exec .resetAsserted s = .next t ∧
       t = { State.reset with pending := s.pending, held := true, trips := t.trips,
                              unit := ⟨.standby, s.unit.strapHigh, some 0, none⟩ } ∧
       ∀ x : Trip, t.trips.get x = ⟨(s.trips.get x).rawHigh, false, none, 0, true⟩) ∧
     ∃ t, exec (.resetReleased high) s = .next t ∧
       t = { State.reset with pending := s.pending, held := false, trips := t.trips,
                              unit := ⟨.standby, high, some 0, none⟩ } ∧
       ∀ x : Trip, t.trips.get x = ⟨(s.trips.get x).rawHigh, false, none, 0, true⟩) ∧
  (∀ (c : Instr) (s : State), s.held = true → (∀ h, c ≠ .resetReleased h) → c ≠ .resetAsserted →
     (∀ x h, c ≠ .tripInputChange x h) → exec c s = .next s)

/-! ## The Plant Link -/

/-- A plant frame that completes joins the buffer, is lost as an overrun, or is counted as a check error; an abandoned frame
is a check error (R189, R190). -/
def Obligations.PlantFramesAreBuffered : Prop :=
  ∀ (s : State) (f : PlantFrame), s.held = false →
    (f.payload.length ≤ 240 → f.checkGood = true → s.link.buffer.length < 8 →
      exec (.plantFrameReceived f) s = .next { s with link := { s.link with buffer := s.link.buffer ++ [f] } }) ∧
    (f.payload.length ≤ 240 → f.checkGood = true → 8 ≤ s.link.buffer.length →
      exec (.plantFrameReceived f) s =
        .next { s with link := { s.link with counters := { s.link.counters with
          overruns := satInc 65535 s.link.counters.overruns } } }) ∧
    (240 < f.payload.length ∨ f.checkGood = false →
      exec (.plantFrameReceived f) s =
        .next { s with link := { s.link with counters := { s.link.counters with
          checkErrors := satInc 65535 s.link.counters.checkErrors } } }) ∧
    exec .plantFrameAbandoned s =
      .next { s with link := { s.link with counters := { s.link.counters with
        checkErrors := satInc 65535 s.link.counters.checkErrors } } }

/-- Every executed frame leaves the buffer and is answered by exactly one RESPONSE, the last frame the execution queues; the
unlock is SET after an UNLOCK naming group 1 and VOID after any other frame (R191, R192, R193). RESTART, which empties the
buffer and the queues, is stated by `RestartTakesItsValues`. A frame waits at the head of the buffer while the routine queue
holds 64 frames (R191). A frame of an unknown kind or a wrong length is refused MALFORMED and changes nothing else (R192).
Which row executes a frame (`takes`), that every frame has such a row, and that any other row leaves the state unchanged is
the model's choice (assumption 6). -/
def Obligations.EveryExecutionIsAnsweredOnce : Prop :=
  (∀ (c : Instr) (s : State) (f : PlantFrame) (rest : List PlantFrame), c ∈ plantRows → c ≠ .restart → Ready s f rest →
     (takes c f = true →
       ∃ t, exec c s = .next t ∧ t.link.buffer = rest ∧ t.link.reserved = false ∧ t.timeBase = s.timeBase ∧
         Responded s.link t.link f s.timeBase ∧
         (t.link.unlocked = true ↔ f.isKind 4 = true ∧ byteAt f.payload 0 = 1)) ∧
     (takes c f = false → exec c s = .next s)) ∧
  (∀ f : PlantFrame, ∃ c ∈ plantRows, takes c f = true) ∧
  (∀ (c : Instr) (s : State), c ∈ plantRows → 64 ≤ s.link.routine.length → exec c s = .next s) ∧
  (∀ (s : State) (f : PlantFrame) (rest : List PlantFrame), Ready s f rest → f.wellShaped = false →
     exec .malformed s = .next (s.answer f rest .malformed none))

/-- UNLOCK sets the unlock for group 1 and is refused RANGE, and voids it, for any other (R193). -/
def Obligations.UnlockNamesGroupOne : Prop :=
  ∀ (s : State) (f : PlantFrame) (rest : List PlantFrame), Ready s f rest → f.isKind 4 = true →
    (byteAt f.payload 0 = 1 →
      exec .unlock s = .next { s with link := answered s.link f rest true .accepted s.timeBase none }) ∧
    (byteAt f.payload 0 ≠ 1 → exec .unlock s = .next (s.answer f rest .range none))

/-- LOAD LIMITS is refused PROTECTED, and counted, without an unlock; refused RANGE with one; and else writes the whole
group (R194). A changed polarity restarts its input's filter, or flips the accepted state where the interval is off (R93), and a
changed mask or accepted state begins or ends line-lost status (R94, R95, R98); that a restarted filter no longer awaits its first
expiry is assumption 15 (DEDUCED). Nothing else changes where mask and polarities are repeated. A payload is read exactly where every
value lies in its range of R41 or R76, as R215 lays it out, and a mask names TRIP0 to TRIP3 alone (R94). -/
def Obligations.LoadLimitsWritesTheGroup : Prop :=
  ((∀ (p : List Byte) (x : Limits), parseLimits p = some x → x.InRange) ∧
    ∀ x : Limits, x.InRange → parseLimits x.bytes = some x) ∧
  ∀ (s : State) (f : PlantFrame) (rest : List PlantFrame), Ready s f rest → f.isKind 5 = true →
    (s.link.unlocked = false →
      exec .loadLimits s = .next (State.answer
        { s with link := { s.link with counters := { s.link.counters with
          protectionErrors := satInc 65535 s.link.counters.protectionErrors } } } f rest .protectedGroup none)) ∧
    (s.link.unlocked = true → parseLimits f.payload = none →
      exec .loadLimits s = .next (s.answer f rest .range none)) ∧
    ∀ x : Limits, s.link.unlocked = true → parseLimits f.payload = some x →
      (∃ t, exec .loadLimits s = .next t ∧ t.limits = x ∧ t.site = s.site ∧ t.link.unlocked = false ∧ LineLostFollows s t ∧
        ∀ k : Trip, t.trips.get k =
          if x.activeLow.get k = s.limits.activeLow.get k then s.trips.get k
          else (s.trips.get k).reloaded (s.site.intervals.get k) (x.activeLow.get k) s.timeBase) ∧
      (x.mask = s.limits.mask → x.activeLow = s.limits.activeLow → s.balancer.lineLost = s.combination →
        s.balancer.flareFault = s.trips.flareFault.accepted →
          exec .loadLimits s = .next (State.answer { s with limits := x } f rest .accepted none))

/-- LOAD SITE is refused RANGE, or writes every setting at once (R196). A changed report interval restarts the report timer (R76), a
changed trip interval restarts its filter with no candidate and keeps the accepted state (R93), a demand absent by the timeout so far
stays absent and one as old as the new timeout is absent (R84), and nothing else changes; stated in full where no interval becomes off
and the silence time is repeated. An input whose interval becomes off takes its raw level at once, and line-lost status follows (R93,
R94). A LOAD SITE whose new silence time in force the silence timer has already run takes duty at once (R177). That a restarted filter
no longer awaits its first expiry is assumption 15, and that an age or a time equal to its limit has reached it is assumption 27 (the
model's choices). LOAD SEGMENT is refused RANGE, or writes the seven settings and sets the pointer to entry 0 (R130, R131); stated for
a segment with no transaction in flight and a move timeout not lowered. Both payloads are read exactly where every value lies in its
range of R38, R41, R76, R130 and R177. A load that repeats all seven settings changes the pointer alone (R131); any other takes its
bit rate at once, also where it repeats the rate loaded before (assumption 38), and has its budget judged against the one in force
(R162). -/
def Obligations.LoadSiteAndLoadSegmentWriteTheSettings : Prop :=
  (((∀ (p : List Byte) (x : SiteSettings), parseSite p = some x → x.InRange) ∧
      ∀ x : SiteSettings, x.InRange → parseSite x.bytes = some x) ∧
    (∀ (p : List Byte) (g : Seg) (x : SegSettings), parseSegment p = some (g, x) → x.InRange) ∧
      ∀ (g : Seg) (x : SegSettings), x.InRange → parseSegment (leBytes 1 (segCode g) ++ x.bytes) = some (g, x)) ∧
  ((∀ (s : State) (f : PlantFrame) (rest : List PlantFrame), Ready s f rest → f.isKind 3 = true →
        (parseSite f.payload = none → exec .loadSite s = .next (s.answer f rest .range none)) ∧
        ∀ x : SiteSettings, parseSite f.payload = some x →
          (∃ t, exec .loadSite s = .next t ∧ t.site = x ∧ t.limits = s.limits ∧ LineLostFollows s t ∧
            ∀ k : Trip, t.trips.get k =
              if x.intervals.get k = s.site.intervals.get k then s.trips.get k
              else (s.trips.get k).reloaded (x.intervals.get k) (s.limits.activeLow.get k) s.timeBase) ∧
          (x.silence = s.site.silence → s.balancer.lineLost = s.combination →
            s.balancer.flareFault = s.trips.flareFault.accepted →
            (∀ k : Trip, x.intervals.get k = s.site.intervals.get k ∨ x.intervals.get k ≠ .off) →
              ∃ t, exec .loadSite s = .next t ∧
                t = State.answer { s with site := x, trips := t.trips, balancer := t.balancer } f rest .accepted none ∧
                t.balancer =
                  { s.balancer with
                    reportTimer := if x.reportInterval = s.site.reportInterval then s.balancer.reportTimer else s.timeBase
                    demand :=
                      if x.demandTimeout = s.site.demandTimeout then s.balancer.demand
                      else if s.demandNow = none then none else State.demandNow { s with site := x } } ∧
                ∀ k : Trip, t.trips.get k =
                  if x.intervals.get k = s.site.intervals.get k then s.trips.get k
                  else ⟨(s.trips.get k).rawHigh, (s.trips.get k).accepted, none, s.timeBase, false⟩)) ∧
     (∀ (s : State) (f : PlantFrame) (rest : List PlantFrame) (x : SiteSettings) (start : Nat), Ready s f rest →
        f.isKind 3 = true → parseSite f.payload = some x → s.unit.role = .standby → s.unit.silenceStart = some start →
        x.silence ≠ s.site.silence → x.silence * 1000 + (if s.unit.strapHigh then 1000 else 0) ≤ s.timeBase - start →
          ∃ t, exec .loadSite s = .next t ∧ t.unit.role = .duty ∧ t.unit.silenceStart = none ∧ t.site = x)) ∧
  (∀ (s : State) (f : PlantFrame) (rest : List PlantFrame), Ready s f rest → f.isKind 2 = true →
       (parseSegment f.payload = none → exec .loadSegment s = .next (s.answer f rest .range none)) ∧
       ∀ (g : Seg) (x : SegSettings), parseSegment f.payload = some (g, x) → (s.seg g).txn = none →
         (s.seg g).settings.moveTimeout ≤ x.moveTimeout →
           let after : Segment :=
             { s.seg g with
               settings := x
               pointer := 0
               rateInForce := if x = (s.seg g).settings then (s.seg g).rateInForce else x.rate
               budgetInForce :=
                 if x = (s.seg g).settings then (s.seg g).budgetInForce
                 else if (s.seg g).budgetInForce ≤ x.budget ∨ s.nonProtTravel g ≤ x.budget then x.budget
                 else (s.seg g).budgetInForce }
           exec .loadSegment s = .next (State.answer { s with segs := s.segs.put g after } f rest .accepted none))

/-- LOAD CONDITION writes the level and mask of its kind; every pending record of the kind takes the level; a record in
service keeps its own. A load that repeats the values changes nothing. Stated in STANDBY, where nothing is taken (R105,
R115). A payload is read exactly where it names one of the eleven kinds and a level of 0 to 7. -/
def Obligations.LoadConditionRelevelsPendingRecords : Prop :=
  ((∀ (p : List Byte) (k : CondKind) (x : KindSetting), parseCondition p = some (k, x) → x.level ≤ 7) ∧
    ∀ (k : CondKind) (x : KindSetting), x.level ≤ 7 →
      parseCondition (leBytes 1 k.code ++ leBytes 1 x.level ++ leBytes 1 (if x.masked then 1 else 0)) = some (k, x)) ∧
  ∀ (s : State) (f : PlantFrame) (rest : List PlantFrame), Ready s f rest → f.isKind 6 = true →
    (parseCondition f.payload = none → exec .loadCondition s = .next (s.answer f rest .range none)) ∧
    ∀ (k : CondKind) (x : KindSetting), parseCondition f.payload = some (k, x) →
      (s.conds.setting k = x → exec .loadCondition s = .next (s.answer f rest .accepted none)) ∧
      (s.unit.role = .standby →
        ∃ t, exec .loadCondition s = .next t ∧ t = State.answer { s with conds := t.conds } f rest .accepted none ∧
          t.conds.setting k = x ∧ (∀ j, j ≠ k → t.conds.setting j = s.conds.setting j) ∧
          t.conds.stack = s.conds.stack ∧
          (s.conds.setting k ≠ x →
            t.conds.waiting.Perm
              (s.conds.waiting.map fun r => if r.kind = k then { r with level := x.level } else r)))

/-! ## The Well Table -/

/-- The load form of LOAD WELL is refused by the first check that fails: RANGE, DUPLICATE, NOT PERMITTED, IN USE; a refusal
changes no record, no roster and no queue (R20). Checks 3 and 5 are stated for the slots they name first. A payload is read exactly
where every configuration field lies in its range of R3. -/
def Obligations.LoadWellRefusesInOrder : Prop :=
  ((∀ (p : List Byte) (x : WellLoad), WellLoad.parse p = some x → x.cfg.InRange) ∧
    ∀ x : WellLoad, x.cfg.InRange → WellLoad.parse x.payload = some x) ∧
  ∀ (s : State) (f : PlantFrame) (rest : List PlantFrame), Ready s f rest → f.isKind 1 = true → f.payload.length = 20 →
    (WellLoad.parse f.payload = none → exec .loadWell s = .next (s.answer f rest .range none)) ∧
    ∀ x : WellLoad, WellLoad.parse f.payload = some x →
      ((∃ (j : Slot) (v : Well), j ≠ x.slot ∧ s.well j = some v ∧ v.cfg.address = x.cfg.address) →
        exec .loadWell s = .next (s.answer f rest .duplicate none)) ∧
      ((∀ (j : Slot) (v : Well), j ≠ x.slot → s.well j = some v → v.cfg.address ≠ x.cfg.address) →
        (((s.stateOf x.slot).working = false → x.cfg.permitted.allows x.initial = false →
          exec .loadWell s = .next (s.answer f rest .notPermitted none)) ∧
        (∀ w, s.well x.slot = some w → (s.stateOf x.slot).working = true →
          (x.cfg.permitted.allows w.outlet = false ∨
            (∃ e, s.entryOf x.slot = some e ∧ x.cfg.permitted.allows e.outlet = false) ∨
            (∃ p, w.pendingProt = some p ∧ x.cfg.permitted.allows p.outlet = false) ∨
            (∃ m, w.move = some m ∧ x.cfg.permitted.allows m.outlet = false) →
              exec .loadWell s = .next (s.answer f rest .notPermitted none)) ∧
          (x.cfg.permitted = .both → (x.cfg.address ≠ w.cfg.address ∨ x.cfg.seg ≠ w.cfg.seg ∨
            (x.cfg.inService = false ∧ (w.move.isSome = true ∨ s.setInFlight x.slot = true))) →
              exec .loadWell s = .next (s.answer f rest .inUse none)))))

/-- A load form accepted for a VACANT slot makes it loaded with the working fields of R21. One accepted for a PARKED slot rewrites
every configuration field, the address and the segment included, and the outlet; its working fields, which stand at the values of
R21, are left there, and it stays PARKED with in service = no (R21) and is LISTED with in service = yes (R26). No roster, no other
slot and nothing else changes. -/
def Obligations.LoadWellFillsVacantAndParkedSlots : Prop :=
  ∀ (s : State) (f : PlantFrame) (rest : List PlantFrame) (x : WellLoad), Ready s f rest → RosterLaw s → f.isKind 1 = true →
    f.payload.length = 20 → WellLoad.parse f.payload = some x →
    (∀ (j : Slot) (v : Well), j ≠ x.slot → s.well j = some v → v.cfg.address ≠ x.cfg.address) →
    x.cfg.permitted.allows x.initial = true →
    (s.well x.slot = none ∨
      ∃ w, s.well x.slot = some w ∧ w.cfg.inService = false ∧ KeepsOutlets s x { w with outlet := x.initial }) →
      ∃ t, exec .loadWell s = .next t ∧ t = State.answer { s with wells := t.wells } f rest .accepted none ∧
        t.well x.slot =
          some ⟨x.cfg, x.initial, none, none, true, 0, false, ⟨false, false, false, false, false, false⟩, ⟨0, 0, 0, 0⟩, none, none⟩ ∧
        (∀ j, j ≠ x.slot → t.well j = s.well j) ∧ t.stateOf x.slot = if x.cfg.inService then .listed else .parked

/-- A load form accepted for a working slot and carrying in service = no parks it: the configuration is written and every working
field cleared, the slot's queue entry and its pending conditions are gone, and a POLL of it in flight is of no slot any more (R25,
R54, R111, R149); no other slot's record changes but for its holds, counts, move and pending field. One that carries in service =
yes rewrites the configuration and leaves the rest of its key and its move (R22). Where it changes pmin or pmax, the targets of the
slot's queue entry and pending field are clamped to the new range, and an entry so changed is marked not sent (R23); in DUTY a TRACKING
or HELD well with its target field outside the range and neither entry nor field has a PROTECTIVE command to the clamped target with
its outlet, at the end of the protective group where the queue has room (R71), and no other command is made. A form that repeats every
field changes nothing (R20). Stated for every set of permitted outlets that check 3 of R20 passes. -/
def Obligations.LoadWellParksOrChangesAWorkingSlot : Prop :=
  ∀ (s : State) (f : PlantFrame) (rest : List PlantFrame) (x : WellLoad) (w : Well), Ready s f rest → f.isKind 1 = true →
    f.payload.length = 20 → WellLoad.parse f.payload = some x → s.well x.slot = some w → (s.stateOf x.slot).working = true →
    x.cfg.address = w.cfg.address → x.cfg.seg = w.cfg.seg → KeepsOutlets s x w →
    (∀ (j : Slot) (v : Well), j ≠ x.slot → s.well j = some v → v.cfg.address ≠ x.cfg.address) →
      (x.cfg.inService = false → w.move = none → s.setInFlight x.slot = false →
        ∃ t, exec .loadWell s = .next t ∧ t.stateOf x.slot = .parked ∧
          t.well x.slot =
            some ⟨x.cfg, w.outlet, none, none, true, 0, false, ⟨false, false, false, false, false, false⟩, ⟨0, 0, 0, 0⟩, none, none⟩ ∧
          t.entryOf x.slot = none ∧ (∀ r ∈ t.conds.waiting, r.source ≠ x.slot.val) ∧
          (∀ (g : Seg) (y : Txn), (t.seg g).txn = some y → y.slot ≠ some x.slot) ∧
          ∀ j, j ≠ x.slot → (t.well j).map Well.key = (s.well j).map Well.key) ∧
      (x.cfg.inService = true →
        (∃ t v, exec .loadWell s = .next t ∧ t.well x.slot = some v ∧
          v.key = (x.cfg, w.outlet, w.target, w.last, w.answering, w.missCount, w.forced) ∧ v.move = w.move ∧
          ∀ j, j ≠ x.slot → (t.well j).map Well.key = (s.well j).map Well.key) ∧
        (RosterLaw s → x.cfg = w.cfg → exec .loadWell s = .next (s.answer f rest .accepted none)) ∧
        ((x.cfg.pmin ≠ w.cfg.pmin ∨ x.cfg.pmax ≠ w.cfg.pmax) →
          let q := s.seg w.cfg.seg
          let clamp := clampNat x.cfg.pmin x.cfg.pmax
          let clamped : List Entry := q.queue.map fun e =>
            if e.slot = x.slot ∧ clamp e.target ≠ e.target then { e with target := clamp e.target, sent := false } else e
          let v : Well :=
            { w with cfg := x.cfg, pendingProt := w.pendingProt.map fun p => { p with target := clamp p.target } }
          let rangeSet : Nat → Prop := fun target =>
            s.unit.role = .duty ∧ (s.stateOf x.slot = .tracking ∨ s.stateOf x.slot = .held) ∧ w.target = some target ∧
              clamp target ≠ target ∧ s.entryOf x.slot = none ∧ w.pendingProt = none
          ((∀ target, ¬ rangeSet target) →
            ∃ t, exec .loadWell s = .next t ∧
              t = State.answer
                { s with wells := t.wells, rosters := t.rosters, segs := s.segs.put w.cfg.seg { q with queue := clamped } } f rest
                .accepted none ∧
              t.well x.slot = some v ∧ ∀ j, j ≠ x.slot → t.well j = s.well j) ∧
          ∀ target, rangeSet target →
            ∃ t, exec .loadWell s = .next t ∧ t.protCommand x.slot = some ⟨clamp target, w.outlet⟩ ∧
              (q.queue.length < 16 →
                t.well x.slot = some v ∧
                (t.seg w.cfg.seg).queue = q.queue.takeWhile (fun e => decide (e.cls = .protective)) ++
                  ⟨x.slot, clamp target, w.outlet, .protective, false⟩ ::
                    q.queue.dropWhile (fun e => decide (e.cls = .protective)))))

/-- The vacate form is refused RANGE, NO SLOT or IN USE, and else frees the slot and its address; no other slot's key
changes (R20, R27). -/
def Obligations.VacateFreesTheSlot : Prop :=
  ∀ (s : State) (f : PlantFrame) (rest : List PlantFrame), Ready s f rest → f.isKind 1 = true → f.payload.length = 1 →
    (95 < byteAt f.payload 0 → exec .loadWellVacate s = .next (s.answer f rest .range none)) ∧
    ∀ i : Slot, byteAt f.payload 0 = i.val →
      (s.well i = none → exec .loadWellVacate s = .next (s.answer f rest .noSlot none)) ∧
      ∀ w, s.well i = some w →
        ((w.move.isSome = true ∨ s.setInFlight i = true) →
          exec .loadWellVacate s = .next (s.answer f rest .inUse none)) ∧
        (w.move = none → s.setInFlight i = false →
          ∃ t, exec .loadWellVacate s = .next t ∧ t.well i = none ∧ t.stateOf i = .vacant ∧
            ∀ j, j ≠ i → (t.well j).map Well.key = (s.well j).map Well.key)

/-- FORCE is refused by the first of its eight checks that fails, and a refusal changes nothing (R28). -/
def Obligations.ForceRefusesInOrder : Prop :=
  ∀ (s : State) (f : PlantFrame) (rest : List PlantFrame), Ready s f rest → f.isKind 10 = true →
    (s.unit.role = .standby → exec .force s = .next (s.answer f rest .notDuty none)) ∧
    (s.unit.role = .duty →
      ((95 < byteAt f.payload 0 ∨ (byteAt f.payload 3 ≠ 1 ∧ byteAt f.payload 3 ≠ 2) ∨ 1000 < wordAt f.payload 1) →
        exec .force s = .next (s.answer f rest .range none)) ∧
      ∀ (i : Slot) (o : Line), byteAt f.payload 0 = i.val → byteAt f.payload 3 = lineCode o → wordAt f.payload 1 ≤ 1000 →
        ((s.stateOf i = .vacant ∨ s.stateOf i = .parked) → exec .force s = .next (s.answer f rest .noSlot none)) ∧
        ∀ w, s.well i = some w → w.cfg.inService = true →
          ((wordAt f.payload 1 < w.cfg.pmin ∨ w.cfg.pmax < wordAt f.payload 1) →
            exec .force s = .next (s.answer f rest .range none)) ∧
          (w.cfg.pmin ≤ wordAt f.payload 1 → wordAt f.payload 1 ≤ w.cfg.pmax →
            (w.cfg.permitted.allows o = false → exec .force s = .next (s.answer f rest .notPermitted none)) ∧
            (w.cfg.permitted.allows o = true → s.isOpen o = false → exec .force s = .next (s.answer f rest .closed none)) ∧
            (w.cfg.permitted.allows o = true → s.isOpen o = true → s.stateOf i = .shut →
              exec .force s = .next (s.answer f rest .shut none)) ∧
            (w.cfg.permitted.allows o = true → s.isOpen o = true → s.stateOf i ≠ .shut →
              (w.move.isSome = true ∨ s.setInFlight i = true ∨ (s.protEntryOf i).isSome = true ∨ w.pendingProt.isSome = true) →
                exec .force s = .next (s.answer f rest .collision none))))

/-- An accepted FORCE sets forced and hands the well's queue a FORCED SET, which joins its end where the well has no entry
and there is room; target and outlet of the record stay (R28, R155). RELEASE is refused RANGE, NO SLOT or NOTHING, and else
sets forced to no; the queue stays (R29). -/
def Obligations.ForceAndReleaseSetTheForcedFlag : Prop :=
  (∀ (s : State) (f : PlantFrame) (rest : List PlantFrame) (i : Slot) (o : Line) (w : Well), Ready s f rest →
     f.isKind 10 = true → s.unit.role = .duty → byteAt f.payload 0 = i.val → byteAt f.payload 3 = lineCode o →
     s.well i = some w → w.cfg.inService = true → w.cfg.pmin ≤ wordAt f.payload 1 → wordAt f.payload 1 ≤ w.cfg.pmax →
     w.cfg.pmax ≤ 1000 → w.cfg.permitted.allows o = true → s.isOpen o = true → s.stateOf i ≠ .shut → w.move = none →
     s.setInFlight i = false → s.entryOf i = none → w.pendingProt = none → (s.seg w.cfg.seg).queue.length < 16 →
       ∃ t, exec .force s = .next t ∧
         t = State.answer { s with wells := t.wells, rosters := t.rosters, segs := t.segs } f rest .accepted none ∧
         t.well i = some { w with forced := true } ∧ (∀ j, j ≠ i → t.well j = s.well j) ∧
         t.seg w.cfg.seg =
           { s.seg w.cfg.seg with queue := (s.seg w.cfg.seg).queue ++ [⟨i, wordAt f.payload 1, o, .forced, false⟩] } ∧
         ∀ g, g ≠ w.cfg.seg → t.seg g = s.seg g) ∧
  (∀ (s : State) (f : PlantFrame) (rest : List PlantFrame), Ready s f rest → f.isKind 11 = true →
     (95 < byteAt f.payload 0 → exec .release s = .next (s.answer f rest .range none)) ∧
     ∀ i : Slot, byteAt f.payload 0 = i.val →
       ((s.stateOf i = .vacant ∨ s.stateOf i = .parked) → exec .release s = .next (s.answer f rest .noSlot none)) ∧
       ∀ w, s.well i = some w → w.cfg.inService = true →
         (w.forced = false → exec .release s = .next (s.answer f rest .nothing none)) ∧
         (w.forced = true →
           ∃ t, exec .release s = .next t ∧
             t = State.answer { s with wells := t.wells, rosters := t.rosters } f rest .accepted none ∧
             t.well i = some { w with forced := false } ∧ ∀ j, j ≠ i → t.well j = s.well j))

/-! ## READ -/

/-- READ returns the content of its target as it stands, and changes nothing but the Plant Link: a well, a line or a segment (R2,
R79, R130, R197); the levels and masks in kind order, the stack from its bottom, up to eight pending records from a start
position with the count of all, and one pair with its place (R126, R199); the role, the settings, the limits, the line state
and the link, whose READ counts its own execution, shows its own reservation, and returns the unlock as it stood (R174, R203,
R207). That a roster position counts from 0 and that the line state gives each filter whole is assumption 25 (DESIGN CHOICE).
READ with the clear flag returns the counters and then sets them to 0 (R198); stated for a segment with no transaction in
flight. An unknown target, an index out of range, or a clear flag on a target without counters is refused RANGE (R197); that
READ_WELL executes an unknown target, and the row without clear a clear flag other than 0 and 1, is assumption 6 (DESIGN
CHOICE). -/
def Obligations.ReadReturnsAndClearsItsTargets : Prop :=
  (∀ (s : State) (f : PlantFrame) (rest : List PlantFrame), Ready s f rest → f.isKind 7 = true → byteAt f.payload 3 = 0 →
       (∀ i : Slot, byteAt f.payload 0 = 1 → wordAt f.payload 1 = i.val →
         exec .readWell s = .next (s.answer f rest .reply (some (.well i (s.stateOf i)
           ((s.well i).map fun w => ⟨w, s.queued i, s.placeOf i⟩))))) ∧
       (∀ l : Line, byteAt f.payload 0 = 2 → wordAt f.payload 1 = lineCode l →
         exec .readLine s = .next (s.answer f rest .reply (some (.line l (s.lines.get l) (s.rosters.get l)
           (match l with
             | .engine => [s.balancer.counts.lineOxygen, s.balancer.counts.engineLow]
             | .flare => [s.balancer.counts.flareLow]))))) ∧
       ∀ g : Seg, byteAt f.payload 0 = 3 → wordAt f.payload 1 = segCode g →
         exec .readSegment s = .next (s.answer f rest .reply (some (.segment g
           { settings := (s.seg g).settings
             pointer := (s.seg g).pointer
             position := (s.seg g).position
             round := (s.seg g).round
             txn := (s.seg g).txn.map fun t => (t.kind, t.dest, t.began)
             queue := (s.seg g).queue
             outstanding := (s.seg g).outstanding
             budgetInForce := (s.seg g).budgetInForce
             sentCopy := (s.seg g).sentCopy
             moves := s.movesOf g
             counters := (s.seg g).counters })))) ∧
  (∀ (s : State) (f : PlantFrame) (rest : List PlantFrame), Ready s f rest → f.isKind 7 = true → byteAt f.payload 3 = 0 →
     (byteAt f.payload 0 = 4 → wordAt f.payload 1 = 0 →
       exec .readConditionLevels s = .next (s.answer f rest .reply (some (.levels s.conds.kinds.toList)))) ∧
     (byteAt f.payload 0 = 5 → wordAt f.payload 1 = 0 →
       exec .readInServiceStack s = .next (s.answer f rest .reply (some (.stack s.conds.stack.reverse)))) ∧
     (byteAt f.payload 0 = 6 → wordAt f.payload 1 ≤ 485 →
       exec .readPendingSet s = .next (s.answer f rest .reply (some (.waiting s.conds.waiting.length
         (((s.conds.waiting.drop (wordAt f.payload 1)).take 8).map fun r => (r, (s.conds.setting r.kind).masked)))))) ∧
     ∀ k : CondKind, byteAt f.payload 0 = 7 → byteAt f.payload 1 ≤ 98 → byteAt f.payload 2 = k.idx.val + 1 →
       (∀ r ∈ s.conds.waiting, s.conds.waiting.find? (·.isPair k (byteAt f.payload 1)) = some r →
         exec .readConditionPair s = .next (s.answer f rest .reply (some (.pair (some (r, .pending)))))) ∧
       (∀ r ∈ s.conds.stack, s.conds.waiting.find? (·.isPair k (byteAt f.payload 1)) = none →
         s.conds.stack.find? (·.isPair k (byteAt f.payload 1)) = some r →
           exec .readConditionPair s = .next (s.answer f rest .reply (some (.pair (some (r, .inService)))))) ∧
       (s.conds.find k (byteAt f.payload 1) = none →
         exec .readConditionPair s = .next (s.answer f rest .reply (some (.pair none))))) ∧
  (∀ (s : State) (f : PlantFrame) (rest : List PlantFrame), Ready s f rest → f.isKind 7 = true → byteAt f.payload 3 = 0 →
     wordAt f.payload 1 = 0 →
     (byteAt f.payload 0 = 8 →
       exec .readRole s = .next (s.answer f rest .reply (some (.role (if s.unit.strapHigh then 251 else 250) s.unit.role
         (s.site.silence * 1000 + if s.unit.strapHigh then 1000 else 0) (s.unit.silenceStart.map (s.timeBase - ·))
         s.unit.lastOther)))) ∧
     (byteAt f.payload 0 = 9 → exec .readSite s = .next (s.answer f rest .reply (some (.site s.site)))) ∧
     (byteAt f.payload 0 = 10 → exec .readLimits s = .next (s.answer f rest .reply (some (.limits s.limits)))) ∧
     (byteAt f.payload 0 = 11 →
       exec .readLink s = .next (s.answer f rest .reply (some (.link s.link.mode s.link.unlocked rest.length
         s.link.urgent.length s.link.routine.length true
         { s.link.counters with executed := satInc 65535 s.link.counters.executed })))) ∧
     (byteAt f.payload 0 = 12 →
       exec .readLineState s = .next (s.answer f rest .reply (some (.lineState s.demandNow
         (s.balancer.demandArrival.map (s.timeBase - ·)) s.balancer.lineLost s.balancer.flareFault s.trips s.balancer.move
         (s.balancer.lastEnd.map fun e => (e.1, s.timeBase - e.2))))))) ∧
  (∀ (s : State) (f : PlantFrame) (rest : List PlantFrame), Ready s f rest → f.isKind 7 = true → byteAt f.payload 3 = 1 →
     (∀ g : Seg, byteAt f.payload 0 = 3 → wordAt f.payload 1 = segCode g → (s.seg g).txn = none →
       exec .readSegmentClear s = .next (State.answer
         { s with segs := s.segs.put g { s.seg g with counters := ⟨0, 0, 0, 0, 0, 0, 0, 0, 0⟩ } } f rest .reply
         (some (.segment g
           { settings := (s.seg g).settings
             pointer := (s.seg g).pointer
             position := (s.seg g).position
             round := (s.seg g).round
             txn := none
             queue := (s.seg g).queue
             outstanding := (s.seg g).outstanding
             budgetInForce := (s.seg g).budgetInForce
             sentCopy := (s.seg g).sentCopy
             moves := s.movesOf g
             counters := (s.seg g).counters })))) ∧
     (byteAt f.payload 0 = 11 → wordAt f.payload 1 = 0 →
       ∃ t, exec .readLinkClear s = .next t ∧ t = { s with link := t.link } ∧ t.link.counters = ⟨0, 0, 0, 0, 0, 0⟩ ∧
         t.link.buffer = rest ∧ t.link.unlocked = false ∧
         (s.link.transmitter ≠ none → t.link.routine = s.link.routine ++ [.response ⟨f.tag, f.kind, .reply, s.timeBase,
           some (.link s.link.mode s.link.unlocked rest.length s.link.urgent.length s.link.routine.length true
             { s.link.counters with executed := satInc 65535 s.link.counters.executed })⟩]))) ∧
  (∀ (s : State) (f : PlantFrame) (rest : List PlantFrame), Ready s f rest → f.isKind 7 = true →
     ((95 < wordAt f.payload 1 ∨ byteAt f.payload 3 ≠ 0) → byteAt f.payload 0 = 1 →
       exec .readWell s = .next (s.answer f rest .range none)) ∧
     ((485 < wordAt f.payload 1 ∨ byteAt f.payload 3 ≠ 0) → byteAt f.payload 0 = 6 →
       exec .readPendingSet s = .next (s.answer f rest .range none)) ∧
     ((wordAt f.payload 1 ≠ 0 ∨ byteAt f.payload 3 ≠ 0) →
       (byteAt f.payload 0 = 4 → exec .readConditionLevels s = .next (s.answer f rest .range none)) ∧
       (byteAt f.payload 0 = 5 → exec .readInServiceStack s = .next (s.answer f rest .range none)) ∧
       (byteAt f.payload 0 = 8 → exec .readRole s = .next (s.answer f rest .range none)) ∧
       (byteAt f.payload 0 = 9 → exec .readSite s = .next (s.answer f rest .range none)) ∧
       (byteAt f.payload 0 = 10 → exec .readLimits s = .next (s.answer f rest .range none)) ∧
       (byteAt f.payload 0 = 12 → exec .readLineState s = .next (s.answer f rest .range none))) ∧
     ((wordAt f.payload 1 = 0 ∨ 2 < wordAt f.payload 1 ∨ byteAt f.payload 3 ≠ 0) → byteAt f.payload 0 = 2 →
       exec .readLine s = .next (s.answer f rest .range none)) ∧
     ((98 < byteAt f.payload 1 ∨ byteAt f.payload 2 = 0 ∨ 11 < byteAt f.payload 2 ∨ byteAt f.payload 3 ≠ 0) →
       byteAt f.payload 0 = 7 → exec .readConditionPair s = .next (s.answer f rest .range none)) ∧
     ((wordAt f.payload 1 = 0 ∨ 4 < wordAt f.payload 1) → byteAt f.payload 0 = 3 →
       (byteAt f.payload 3 = 0 → exec .readSegment s = .next (s.answer f rest .range none)) ∧
       (byteAt f.payload 3 = 1 → exec .readSegmentClear s = .next (s.answer f rest .range none))) ∧
     (wordAt f.payload 1 ≠ 0 → byteAt f.payload 0 = 11 →
       (byteAt f.payload 3 = 0 → exec .readLink s = .next (s.answer f rest .range none)) ∧
       (byteAt f.payload 3 = 1 → exec .readLinkClear s = .next (s.answer f rest .range none))) ∧
     ((byteAt f.payload 0 = 0 ∨ 12 < byteAt f.payload 0) → exec .readWell s = .next (s.answer f rest .range none)))

/-! ## DEMAND, MODE, conditions, budgets, RESTART -/

/-- DEMAND is refused RANGE or replaces the held demand and its arrival time (R83). -/
def Obligations.DemandReplacesTheHeldDemand : Prop :=
  ∀ (s : State) (f : PlantFrame) (rest : List PlantFrame), Ready s f rest → f.isKind 8 = true →
    ((60000 < wordAt f.payload 0 ∨ 8 < byteAt f.payload 2) → exec .demand s = .next (s.answer f rest .range none)) ∧
    (wordAt f.payload 0 ≤ 60000 → byteAt f.payload 2 ≤ 8 →
      exec .demand s = .next (State.answer
        { s with balancer := { s.balancer with
          demand := some (wordAt f.payload 0, byteAt f.payload 2), demandArrival := some s.timeBase } } f rest .accepted none))

/-- MODE is refused RANGE for a code that is neither HOLD nor RUN, by either row (assumption 6); RUN sets the mode; a MODE that
repeats the mode has no effect (R200). MODE HOLD executed in RUN removes every TRIM entry and every unsent BALANCE entry,
uncounted, ends the balancing move whose entry it removes NOT MADE, and changes nothing else (R69, R91, R200): stated in full in
STANDBY and where no pending protective field stands, which would be examined then (R157). Whatever fields stand, no such entry is
left, no counter but the evictions of entering fields changes, and every well keeps its move and its record but for its holds,
counts and pending field. -/
def Obligations.ModeChangesActOnTheQueues : Prop :=
  (∀ (s : State) (f : PlantFrame) (rest : List PlantFrame), Ready s f rest → f.isKind 9 = true →
     (byteAt f.payload 0 ≠ 1 → byteAt f.payload 0 ≠ 2 →
       exec .modeRun s = .next (s.answer f rest .range none) ∧ exec .modeHold s = .next (s.answer f rest .range none)) ∧
     (byteAt f.payload 0 = 2 →
       exec .modeRun s = .next (State.answer { s with link := { s.link with mode := .run } } f rest .accepted none)) ∧
     (byteAt f.payload 0 = 1 → s.link.mode = .hold → exec .modeHold s = .next (s.answer f rest .accepted none))) ∧
  (∀ (s : State) (f : PlantFrame) (rest : List PlantFrame), Ready s f rest → f.isKind 9 = true → byteAt f.payload 0 = 1 →
     s.link.mode = .run →
       let stays : Entry → Bool := fun e => decide (e.cls ≠ .trim) && (decide (e.cls ≠ .balance) || e.sent)
       let left : State :=
         { s with
           link := { s.link with mode := .hold }
           segs := s.segs.map fun q => { q with queue := q.queue.filter stays } }
       let balancingGoes : Prop := ∃ b, s.balancer.move = some b ∧ b.phase = .queued ∧
         ∃ g : Seg, ∃ e ∈ (s.seg g).queue, e.slot = b.slot ∧ e.cls = .balance ∧ e.sent = false
       (s.unit.role = .standby ∨ NoPending s →
         (balancingGoes →
           exec .modeHold s = .next (State.answer
             { left with balancer := { s.balancer with move := none, lastEnd := some (.notMade, s.timeBase) } } f rest
             .accepted none)) ∧
         (¬ balancingGoes → exec .modeHold s = .next (left.answer f rest .accepted none))) ∧
       ∃ t, exec .modeHold s = .next t ∧ t.link.mode = .hold ∧
         (∀ g : Seg, ∀ e ∈ (t.seg g).queue, e.cls ≠ .trim ∧ (e.cls = .balance → e.sent = true)) ∧
         (∀ g : Seg, { (t.seg g).counters with evictions := 0 } = { (s.seg g).counters with evictions := 0 }) ∧
         ∀ j : Slot, (t.well j).map Well.key = (s.well j).map Well.key ∧ (t.well j).bind (·.move) = (s.well j).bind (·.move))

/-- CLEAR is refused RANGE, NOTHING, NOT CURRENT or STILL ACTIVE, in this order (R117). DISMISS is refused RANGE, NOT
PENDING or STILL ACTIVE, in this order (R119). -/
def Obligations.ClearAndDismissRefuseInOrder : Prop :=
  (∀ (s : State) (f : PlantFrame) (rest : List PlantFrame), Ready s f rest → f.isKind 12 = true →
     (parsePair f.payload = none → exec .clear s = .next (s.answer f rest .range none)) ∧
     ∀ (k : CondKind) (src : Nat), parsePair f.payload = some (k, src) →
       (s.conds.stack = [] → exec .clear s = .next (s.answer f rest .nothing none)) ∧
       ∀ (r : CondRec) (below : List CondRec), s.conds.stack = r :: below →
         (¬ (r.kind = k ∧ r.source = src) → exec .clear s = .next (s.answer f rest .notCurrent none)) ∧
         (r.kind = k → r.source = src →
           (k = .engineLineLost ∧ s.combination = true) ∨
               (k = .noOutlet ∧ s.balancer.lineLost = true ∧ s.balancer.flareFault = true) →
             exec .clear s = .next (s.answer f rest .stillActive none))) ∧
  (∀ (s : State) (f : PlantFrame) (rest : List PlantFrame), Ready s f rest → f.isKind 13 = true →
     (parsePair f.payload = none → exec .dismiss s = .next (s.answer f rest .range none)) ∧
     ∀ (k : CondKind) (src : Nat), parsePair f.payload = some (k, src) →
       ((∀ r ∈ s.conds.waiting, ¬ (r.kind = k ∧ r.source = src)) →
         exec .dismiss s = .next (s.answer f rest .notPending none)) ∧
       ((∃ r ∈ s.conds.waiting, r.kind = k ∧ r.source = src) →
         (k = .engineLineLost ∧ s.combination = true) ∨
             (k = .noOutlet ∧ s.balancer.lineLost = true ∧ s.balancer.flareFault = true) →
           exec .dismiss s = .next (s.answer f rest .stillActive none)))

/-- An accepted CLEAR removes the top record, an accepted DISMISS the pending one, and where the record is an attached one
of a well kind its hold reason goes with it (R116, R118, R120). Stated in STANDBY, where nothing is taken. -/
def Obligations.RemovalTakesTheRecordAndItsReason : Prop :=
  ∀ (s : State) (f : PlantFrame) (rest : List PlantFrame) (r : CondRec), Ready s f rest → s.unit.role = .standby →
    parsePair f.payload = some (r.kind, r.source) → r.kind ≠ .engineLineLost →
    (r.kind = .noOutlet → s.isOpen .engine = true ∨ s.isOpen .flare = true) →
    (f.isKind 12 = true → ∀ below, s.conds.stack = r :: below →
      ∃ t, exec .clear s = .next t ∧
        t = State.answer { s with conds := { s.conds with stack := below }, wells := t.wells, rosters := t.rosters } f rest
          .accepted none ∧
        ∀ j : Slot, t.well j = (s.well j).map fun w =>
          match r.kind.reason with
          | some x => if r.attached = true ∧ r.source = j.val then { w with holds := w.holds.put x false } else w
          | none => w) ∧
    (f.isKind 13 = true → s.conds.waiting.find? (·.isPair r.kind r.source) = some r →
      ∃ t, exec .dismiss s = .next t ∧
        t = State.answer
          { s with conds := { s.conds with waiting := s.conds.waiting.filter fun x => !x.isPair r.kind r.source }
                   wells := t.wells, rosters := t.rosters } f rest .accepted none ∧
        ∀ j : Slot, t.well j = (s.well j).map fun w =>
          match r.kind.reason with
          | some x => if r.attached = true ∧ r.source = j.val then { w with holds := w.holds.put x false } else w
          | none => w)

/-- An accepted CLEAR in DUTY takes the pending record that R114 names: unmasked, of a level lower than every level left in service,
and before every other such record in taking order. It leaves the pending set for the top of the stack with its taken time, and its
CONDITION notice joins the urgent queue with the contents of R125, the depth and the count after the taking (R113, R118); stated
while the transmitter is sending. Where no record is eligible, none is taken and no notice goes. Stated for a top record other than
ENGINE LINE LOST. -/
def Obligations.ClearTakesTheNextRecord : Prop :=
  ∀ (s : State) (f : PlantFrame) (rest : List PlantFrame) (r : CondRec) (below : List CondRec), Ready s f rest →
    f.isKind 12 = true → s.unit.role = .duty → CondLaw s.conds → parsePair f.payload = some (r.kind, r.source) →
    s.conds.stack = r :: below → r.kind ≠ .engineLineLost →
    (r.kind = .noOutlet → s.isOpen .engine = true ∨ s.isOpen .flare = true) →
      let eligible : CondRec → Prop := fun p => (s.conds.setting p.kind).masked = false ∧ ∀ y ∈ below, p.level < y.level
      (∀ p ∈ s.conds.waiting, eligible p → (∀ y ∈ s.conds.waiting, eligible y → y = p ∨ p.takenBefore y = true) →
        ∃ t, exec .clear s = .next t ∧ t.conds.stack = { p with taken := some s.timeBase } :: below ∧
          t.conds.waiting = s.conds.waiting.filter (fun y => !decide (y = p)) ∧ t.conds.kinds = s.conds.kinds ∧
          (s.link.transmitter ≠ none → s.link.urgent.length < 16 →
            t.link.urgent = s.link.urgent ++ [.condition
              { kind := p.kind
                source := p.source
                address :=
                  if p.kind.isWell then (slotOfSource p.source).bind fun i => (s.well i).map fun w => (w.cfg.address, w.cfg.seg)
                  else none
                level := p.level
                raised := p.raised
                taken := s.timeBase
                recurrence := p.recurrence
                measured := p.measured
                limit := p.limit
                depth := below.length + 1
                waiting := s.conds.waiting.length - 1 }])) ∧
      ((∀ p ∈ s.conds.waiting, ¬ eligible p) →
        ∃ t, exec .clear s = .next t ∧ t.conds = { s.conds with stack := below } ∧
          (s.link.transmitter ≠ none → t.link.urgent = s.link.urgent))

/-- BUDGET RESET is refused RANGE for a segment that is none of the four. Else every move of the segment's wells ends and
outstanding travel is 0; the loaded budget comes into force unless a non-protective SET in flight travels further. The queue, the
sent copy, the counters and the transaction stand as they were, as do the other segments, every well but for its move, and all else
but the Line Balancer, whose move may end (R173, R195). -/
def Obligations.BudgetResetAbandonsTheMoves : Prop :=
  ∀ (s : State) (f : PlantFrame) (rest : List PlantFrame), Ready s f rest → f.isKind 14 = true →
    ((byteAt f.payload 0 = 0 ∨ 4 < byteAt f.payload 0) → exec .budgetReset s = .next (s.answer f rest .range none)) ∧
    ∀ g : Seg, byteAt f.payload 0 = segCode g →
      let flying := match (s.seg g).sentCopy with
        | some c => if c.cls = .protective then 0 else c.travel
        | none => 0
      ∃ t, exec .budgetReset s = .next t ∧ t.movesOf g = [] ∧
        t = State.answer { s with wells := t.wells, rosters := t.rosters, segs := t.segs, balancer := t.balancer } f rest
          .accepted none ∧
        t.seg g =
          { s.seg g with
            outstanding := 0
            budgetInForce := if flying ≤ (s.seg g).settings.budget then (s.seg g).settings.budget
              else (s.seg g).budgetInForce } ∧
        (∀ k : Seg, k ≠ g → t.seg k = s.seg k) ∧
        ∀ j : Slot, t.well j = (s.well j).map fun w => if w.cfg.seg = g then { w with move := none } else w

/-- RESTART keeps the settings, the limits, the levels and masks, the strap and every slot's configuration and outlet; it
clears the working fields, the queues, the conditions, the lines and the uplink, and its RESPONSE stands first (R31, R127,
R151, R152, R188, R201). Stated for trip inputs none of which is off. Whatever the trip inputs' intervals, RESTART keeps the
settings, the limits, the levels and masks and the configurations, and leaves role STANDBY and mode HOLD (R201). That every value
is taken at once, a frame being sent standing on its output to its end, is assumption 14 (DEDUCED). -/
def Obligations.RestartTakesItsValues : Prop :=
  (∀ (s : State) (f : PlantFrame) (rest : List PlantFrame), Ready s f rest → f.isKind 15 = true →
     (∀ k : Trip, s.site.intervals.get k ≠ .off) →
       ∃ t, exec .restart s = .next t ∧
         t = { State.reset with
               pending := s.pending
               timeBase := s.timeBase
               wells := t.wells
               segs := t.segs
               site := s.site
               limits := s.limits
               trips := t.trips
               balancer := ⟨⟨0, 0, 0⟩, none, none, none, none, s.timeBase, s.timeBase, false, false⟩
               conds := ⟨s.conds.kinds, [], []⟩
               unit := ⟨.standby, s.unit.strapHigh, some s.timeBase, none⟩
               link := t.link
               protMade := s.protMade } ∧
         (∀ j : Slot, t.well j = (s.well j).map fun w =>
           ⟨w.cfg, w.outlet, none, none, true, 0, false, ⟨false, false, false, false, false, false⟩, ⟨0, 0, 0, 0⟩, none, none⟩) ∧
         (∀ g : Seg, t.seg g = { Segment.start (s.seg g).settings with sending := (s.seg g).sending }) ∧
         (∀ k : Trip, t.trips.get k = ⟨(s.trips.get k).rawHigh, false, none, s.timeBase, true⟩) ∧
         (let first : Uplink := .response ⟨f.tag, f.kind, .accepted, s.timeBase, none⟩
          t.link = match s.link.transmitter with
           | none => ⟨[], false, false, .hold, [], [], some first, ⟨0, 0, 0, 0, 0, 0⟩⟩
           | some u => ⟨[], false, false, .hold, [], [first], some u, ⟨0, 0, 0, 0, 0, 0⟩⟩)) ∧
  (∀ (s : State) (f : PlantFrame) (rest : List PlantFrame), Ready s f rest → f.isKind 15 = true →
     ∃ t, exec .restart s = .next t ∧ t.site = s.site ∧ t.limits = s.limits ∧ t.conds.kinds = s.conds.kinds ∧
       t.unit = ⟨.standby, s.unit.strapHigh, some s.timeBase, none⟩ ∧ t.link.mode = .hold ∧ t.link.unlocked = false ∧
       t.link.buffer = [] ∧ (∀ g : Seg, (t.seg g).settings = (s.seg g).settings ∧ (t.seg g).queue = []) ∧
       ∀ j : Slot, (t.well j).map Well.cfg = (s.well j).map Well.cfg)

/-- A transmitter that has sent its frame takes the first urgent frame, else the first routine one, else idles (R206). -/
def Obligations.TransmitterTakesUrgentFramesFirst : Prop :=
  ∀ s : State, s.held = false →
    (∀ u r, s.link.urgent = u :: r →
      exec .uplinkFrameSent s = .next { s with link := { s.link with transmitter := some u, urgent := r } }) ∧
    (∀ u r, s.link.urgent = [] → s.link.routine = u :: r →
      exec .uplinkFrameSent s = .next { s with link := { s.link with transmitter := some u, routine := r } }) ∧
    (s.link.urgent = [] → s.link.routine = [] →
      exec .uplinkFrameSent s = .next { s with link := { s.link with transmitter := none } })

/-! ## Turns, transmission and arbitration -/

/-- The poll search finds a slot exactly where the segment serves one; the slot found is pollable in its round; and a slot
pollable in the present round after the poll position is found in that round, no later one before an earlier (R143). A turn
polls the slot the search finds: on an idle line of a duty segment with no PRESENCE due, at a P entry, or at a C entry with
an empty queue or a non-protective head that outstanding travel keeps from being sendable, which stays (R132, R140, R143, R161). -/
def Obligations.PollTurnPollsTheSlotTheSearchFinds : Prop :=
  (∀ (s : State) (g : Seg),
     ((s.nextPoll g).isSome = true ↔ ∃ (i : Slot) (w : Well), s.well i = some w ∧ w.cfg.inService = true ∧ w.cfg.seg = g) ∧
     (∀ i r, s.nextPoll g = some (i, r) → s.pollable g r i = true) ∧
     ∀ j : Slot, s.pollable g (s.seg g).round j = true → (∀ p, (s.seg g).position = some p → p < j) →
       ∃ i : Slot, s.nextPoll g = some (i, (s.seg g).round) ∧ i ≤ j ∧ ∀ p, (s.seg g).position = some p → p < i) ∧
  (∀ (s : State) (g : Seg) (i : Slot) (r : Fin 8) (w : Well), s.held = false → s.unit.role = .duty → Quiet s g →
     (s.seg g).presenceDue = false →
     ((s.seg g).settings.pattern.getLsbD (s.seg g).pointer.val = true ∨ (s.seg g).queue = [] ∨
       ∃ (e : Entry) (rest : List Entry) (v : Well), (s.seg g).queue = e :: rest ∧ e.cls ≠ .protective ∧ s.well e.slot = some v ∧
         travelOf v e.target ≤ (s.seg g).budgetInForce ∧
         (s.seg g).budgetInForce < travelOf v e.target + (s.seg g).outstanding) →
     s.nextPoll g = some (i, r) → s.well i = some w →
       let q := s.seg g
       let after : Segment :=
         { q with
           rateInForce := q.settings.rate
           pointer := q.pointer + 1
           position := some i
           round := r
           txn := some ⟨.poll, some i, w.cfg.address, s.timeBase, q.settings.replyTimeout, none,
             ⟨some q.pointer, q.position, q.round, decide (q.counters.transactions < 65535)⟩⟩
           sending := some (FieldFrame.poll s.ownAddress w.cfg.address)
           counters := { q.counters with transactions := satInc 65535 q.counters.transactions } }
       exec (.poll g) s = .next { s with segs := s.segs.put g after })

/-- At a C entry, and at a P entry with nothing to poll, a sendable head is sent: marked sent in its place, with the sent copy and the
travel just measured (R140, R160, R161, R163). A non-protective head whose travel alone exceeds the budget in force is removed there,
counted as a drop, a BALANCE head ending its balancing move NOT MADE, and the turn is taken by the queue behind it (R158, R161); that
it is removed when the head is looked at is assumption 21 (DEDUCED), and it is stated with no pending field that could enter. -/
def Obligations.CommandTurnSendsTheHead : Prop :=
  ∀ (s : State) (g : Seg) (e : Entry) (rest : List Entry) (w : Well), s.held = false → s.unit.role = .duty → Quiet s g →
    QueueLaw (s.seg g).queue → (s.seg g).presenceDue = false →
    ((s.seg g).settings.pattern.getLsbD (s.seg g).pointer.val = false ∨ s.nextPoll g = none) → (s.seg g).queue = e :: rest →
    s.well e.slot = some w →
      let q := s.seg g
      ((e.cls = .protective ∨ travelOf w e.target + q.outstanding ≤ q.budgetInForce) →
        let after : Segment :=
          { q with
            rateInForce := q.settings.rate
            pointer := q.pointer + 1
            txn := some ⟨.set, some e.slot, w.cfg.address, s.timeBase, q.settings.replyTimeout, none,
              ⟨some q.pointer, q.position, q.round, decide (q.counters.transactions < 65535)⟩⟩
            sending := some (FieldFrame.set s.ownAddress w.cfg.address e.target e.outlet e.cls)
            queue := { e with sent := true } :: rest
            sentCopy := some ⟨e.slot, e.target, e.outlet, e.cls, travelOf w e.target⟩
            counters := { q.counters with transactions := satInc 65535 q.counters.transactions } }
        exec (.set g) s = .next { s with segs := s.segs.put g after }) ∧
      (e.cls ≠ .protective → e.sent = false → q.budgetInForce < travelOf w e.target → NoPending s →
        let left : State :=
          { s with
            segs := s.segs.put g
              { q with queue := rest, counters := { q.counters with drops := satInc 65535 q.counters.drops } } }
        let owned : Prop := e.cls = .balance ∧ ∃ b, s.balancer.move = some b ∧ b.slot = e.slot ∧ b.phase = .queued
        let ended : State := { left with balancer := { s.balancer with move := none, lastEnd := some (.notMade, s.timeBase) } }
        ∀ c : Instr, c = .set g ∨ c = .poll g → (owned → exec c s = exec c ended) ∧ (¬ owned → exec c s = exec c left))

/-- At the end of a frame of its own a POLL or SET opens its reply window and a PRESENCE ends; in DUTY the presence timer
restarts (R133, R137, R142). -/
def Obligations.TransmissionOpensTheReplyWindow : Prop :=
  ∀ (s : State) (g : Seg) (f : FieldFrame) (t : Txn), s.held = false → (s.seg g).sending = some f → (s.seg g).txn = some t →
    let after : Segment :=
      { s.seg g with
        sending := none
        txn := if t.kind = .presence then none else some { t with window := some s.timeBase }
        presenceTimer := if s.unit.role = .duty then some s.timeBase else (s.seg g).presenceTimer }
    exec (.frameTransmitted g) s = .next { s with segs := s.segs.put g after }

/-- The lower address wins arbitration, so a loss to the own address or a higher one does not occur (R180) and changes nothing
(assumption 1). A loss to a wellhead leaves the transaction not begun: the loss is counted, the transaction counter and pointer
stand as before it, a SET's entry is not sent and its copy gone, and a PRESENCE is due again (R181 steps 1 and 2, R182); that poll
position and round are put back too, and the budget in force stays, is assumption 22 (DEDUCED). A duty controller that loses
arbitration to the other controller yields, and so does one at 251 that hears a complete frame of it: the role is STANDBY, the
silence timer starts, every queue is empty, no frame is on any segment's output, ROLE CONFLICT stands, and the ROLE notice of R187
with the number of entries removed joins the urgent queue (R181, R183, R184), stated while the transmitter is sending. A duty
controller at 250 that hears the other stays DUTY, with ROLE CONFLICT standing (R183). -/
def Obligations.TheLowerAddressWins : Prop :=
  (∀ (s : State) (g : Seg) (winner : Nat), s.ownAddress ≤ winner → exec (.arbitrationLoss g winner) s = .next s) ∧
  (∀ (s : State) (g : Seg) (winner : Nat) (f : FieldFrame) (t : Txn), s.held = false → (s.seg g).sending = some f →
       (s.seg g).txn = some t → winner < s.ownAddress → winner ≠ s.otherAddress →
         let q := s.seg g
         let before : Segment :=
           { q with
             sending := none
             txn := none
             pointer := t.undo.pointer.getD q.pointer
             position := t.undo.position
             round := t.undo.round
             counters :=
               { q.counters with
                 arbitrationLosses := satInc 65535 q.counters.arbitrationLosses
                 transactions := if t.undo.counted then q.counters.transactions - 1 else q.counters.transactions } }
         (t.kind = .poll → exec (.arbitrationLoss g winner) s = .next { s with segs := s.segs.put g before }) ∧
         (t.kind = .presence →
           exec (.arbitrationLoss g winner) s = .next { s with segs := s.segs.put g { before with presenceDue := true } }) ∧
         (∀ i, t.kind = .set → t.slot = some i →
           let unsent : Segment :=
             { before with
               queue := q.queue.map fun e => if e.slot = i then { e with sent := false } else e
               sentCopy := none }
           exec (.arbitrationLoss g winner) s = .next { s with segs := s.segs.put g unsent })) ∧
  (∀ (s : State) (g : Seg), s.held = false → s.unit.role = .duty → Settled s →
     let yielded := fun (cause : RoleCause) (t : State) => t.unit.role = .standby ∧ t.unit.silenceStart = some s.timeBase ∧
       Undisturbed s t ∧ t.timeBase = s.timeBase ∧ t.hasRec .roleConflict 98 = true ∧
       (∀ k : Seg, (t.seg k).queue = [] ∧ (t.seg k).sending = none ∧ (t.seg k).presenceTimer = none) ∧
       (s.link.transmitter ≠ none → s.link.urgent.length < 16 →
         t.link.urgent = s.link.urgent ++ [.role ⟨s.timeBase, .standby, .duty, cause, 251, some (250, g), none,
           some (Seg.all.map fun k => (s.seg k).queue.length).sum⟩])
     (∀ f : FieldFrame, s.unit.strapHigh = true → (s.seg g).sending = some f →
       ∃ t, exec (.arbitrationLoss g 250) s = .next t ∧ yielded .arbitration t) ∧
     (∀ f : FieldFrame, s.unit.strapHigh = true → FromOther s f → Quiet s g →
       ∃ t, exec (.otherControllerFrame g f) s = .next t ∧ yielded .yielded t ∧ t.unit.lastOther = some (s.timeBase, g))) ∧
  (∀ (s : State) (g : Seg) (f : FieldFrame), s.held = false → s.unit.role = .duty → s.unit.strapHigh = false → Settled s →
     FromOther s f → Quiet s g →
       ∃ t, exec (.otherControllerFrame g f) s = .next t ∧
         t = { s with unit := { s.unit with lastOther := some (s.timeBase, g) }, conds := t.conds, link := t.link } ∧
         t.hasRec .roleConflict 98 = true ∧ t.conds.kinds = s.conds.kinds ∧ t.link.mode = s.link.mode)

/-- In STANDBY a complete frame of the other controller restarts the silence timer, and a POLL or SET of an allowed length
opens an overheard transaction and counts (R146, R174, R176). -/
def Obligations.StandbyHearsTheOtherController : Prop :=
  ∀ (s : State) (g : Seg) (f : FieldFrame), s.held = false → s.unit.role = .standby → Settled s → FromOther s f → Quiet s g →
    let heard : State := { s with unit := { s.unit with lastOther := some (s.timeBase, g), silenceStart := some s.timeBase } }
    let q := s.seg g
    let counted : SegCounters := { q.counters with transactions := satInc 65535 q.counters.transactions }
    let poll : Overheard := ⟨.poll, f.destination, f.source, 0, none, none, s.timeBase, q.settings.replyTimeout⟩
    let set : Overheard :=
      ⟨.set, f.destination, f.source, wordAt f.payload 0, lineOfCode (byteAt f.payload 2), clsOfCode (byteAt f.payload 3),
        s.timeBase, q.settings.replyTimeout⟩
    (f.isPoll = false → f.isSet = false → exec (.otherControllerFrame g f) s = .next heard) ∧
    (f.isPoll = true →
      exec (.otherControllerFrame g f) s = .next
        { heard with segs := s.segs.put g { q with overheard := some poll, counters := counted } }) ∧
    (f.isSet = true →
      exec (.otherControllerFrame g f) s = .next
        { heard with segs := s.segs.put g { q with overheard := some set, counters := counted } })

/-! ## Replies -/

/-- An accepted SAMPLE, of a transaction awaited or overheard: the record holds it whole, the well answers with miss count
0, an absent target takes the clamped position, and the exchange ends (R37, R39, R135, R147). -/
def Obligations.AcceptedSampleIsStored : Prop :=
  ∀ (s : State) (g : Seg) (f : FieldFrame) (i : Slot) (w : Well), s.held = false → f.isSample = true →
    (RawSample.parse f.payload).malformed = false →
    let stored := (RawSample.parse f.payload).stored w.cfg.assumedFlow s.timeBase
    let taken := fun t : State => Undisturbed s t ∧ t.timeBase = s.timeBase ∧ t.unit = s.unit ∧
      (t.well i).map Well.key = some (w.cfg, w.outlet, some (w.target.getD stored.position), some stored, true, 0, w.forced) ∧
      ∀ j, j ≠ i → (t.well j).map Well.key = (s.well j).map Well.key
    (∀ x : Txn, Awaits s g x i w → x.kind = .poll → Arrives f x.dest s.ownAddress →
      ∃ t, exec (.sample g f) s = .next t ∧ taken t ∧ (t.seg g).txn = none) ∧
    (∀ o : Overheard, (s.seg g).txn = none → (s.seg g).overheard = some o → o.kind = .poll → s.wellAt g o.dest = some i →
      s.well i = some w → Arrives f o.dest o.src →
        ∃ t, exec (.sample g f) s = .next t ∧ taken t ∧ (t.seg g).overheard = none)

/-- An accepted SAMPLE of a POLL updates each excursion count by its kind's test (R42, R43): unchanged where the sample lacks the
field, 0 at no excursion, one higher at an excursion, and 0 with one more recurrence while a record is attached. The count that
reaches its verification count becomes 0; the condition stands attached, a new one with the values at raise, a detached one with one
more recurrence, and its hold reason is held (R44 to R46). In DUTY a HOT raised makes a PROTECTIVE command to pmin, an OXYGEN raised
alone on a TRACKING well one to its target less 2 × s within the range, each with the outlet of R48, an outlet field not permitted
included (assumption 44, DESIGN CHOICE); in STANDBY none is made (R47). Where line-lost status is set and the well is not permitted
FLARE, nothing is said of a command here. Stated under the law of the pending fields, which every step keeps. -/
def Obligations.ExcursionsAreCountedAndRaised : Prop :=
  ∀ (s : State) (g : Seg) (f : FieldFrame) (x : Txn) (i : Slot) (w : Well), s.held = false → Settled s → CondLaw s.conds →
    PendingLaw s → Awaits s g x i w → x.kind = .poll → Arrives f x.dest s.ownAddress → f.isSample = true →
    (RawSample.parse f.payload).malformed = false →
      let q := (RawSample.parse f.payload).stored w.cfg.assumedFlow s.timeBase
      let ended := endingBy s w q
      let test := excursionOf s.limits q ended
      let aim := if ended.isSome then (w.move.map (·.target)).getD 0 else w.target.getD q.position
      let base := match s.protCommand i with
        | some p => p.outlet
        | none => w.outlet
      ∃ t v, exec (.sample g f) s = .next t ∧ t.well i = some v ∧
        (∀ k : ExcKind,
          (test k = none → v.excursions.get k = w.excursions.get k) ∧
          (test k = some false → v.excursions.get k = 0) ∧
          (test k = some true → s.attachedRec k.kind i.val = true →
            v.excursions.get k = 0 ∧
              (t.conds.find k.kind i.val).map (·.recurrence) =
                (s.conds.find k.kind i.val).map fun r => satInc 255 r.recurrence) ∧
          (test k = some true → s.attachedRec k.kind i.val = false → ¬ Verifies s i w k →
            v.excursions.get k = satInc 15 (w.excursions.get k)) ∧
          (¬ (test k = some true ∧ Verifies s i w k) → v.holds.get k.reason = w.holds.get k.reason) ∧
          (test k = some true → Verifies s i w k →
            v.excursions.get k = 0 ∧ v.holds.get k.reason = true ∧
              ∃ r, t.conds.find k.kind i.val = some r ∧ r.attached = true ∧
                (s.conds.find k.kind i.val = none →
                  r.raised = s.timeBase ∧ r.recurrence = 0 ∧ (r.measured, r.limit) = valuesAtRaise s.limits q aim k) ∧
                ∀ old, s.conds.find k.kind i.val = some old → r.recurrence = satInc 255 old.recurrence)) ∧
        (s.unit.role = .duty → test .hot = some true → Verifies s i w .hot →
          (s.balancer.lineLost = false → t.protCommand i = some ⟨w.cfg.pmin, base⟩) ∧
          (s.balancer.lineLost = true → w.cfg.permitted.allows .flare = true →
            t.protCommand i = some ⟨w.cfg.pmin, .flare⟩)) ∧
        (∀ target, s.unit.role = .duty → s.stateOf i = .tracking → w.target = some target → s.protCommand i = none →
          s.balancer.lineLost = false → ¬ (test .hot = some true ∧ Verifies s i w .hot) → test .oxygen = some true →
          Verifies s i w .oxygen →
            t.protCommand i = some ⟨clampNat w.cfg.pmin w.cfg.pmax (target - 2 * w.cfg.step), w.outlet⟩) ∧
        (s.unit.role = .standby → v.pendingProt = w.pendingProt ∧ t.protMade = s.protMade)

/-- The REPORT of an accepted SAMPLE carries the slot's state, holds and fields after the sample, the sample as stored with its clamp
markers, the miss count before it, the excursions, the move's end and the trim outcome in the order of R58 (R51); stated while the
transmitter is sending and the routine queue has room. The kinds raised are those an excursion brings to verification. The command
made is PROTECTIVE where HOT or OXYGEN is raised in DUTY and R48 gives an outlet, and else TRIM where the outcome is one that makes a
SET and none otherwise, and none in STANDBY (R47, R48, R51); stated for a well on a roster before or with an open routing, since the
open-outlet rule at a joining may make one too (assumption 24, DEDUCED). An eligible sample without excursion has the outcome of the
computation, and where that makes a SET, a TRIM entry with the new target and the outlet field joins the end of the queue, and the
REPORT tells its class and step (R58, R59, R66, R67); stated for a well with no entry, with room in its queue, and with a balancing
move outstanding, which bars a balancing pass after the sample (R85). -/
def Obligations.AcceptedSampleIsReportedAndTrimmed : Prop :=
  ∀ (s : State) (g : Seg) (f : FieldFrame) (x : Txn) (i : Slot) (w : Well), s.held = false → Settled s →
    Awaits s g x i w → x.kind = .poll → Arrives f x.dest s.ownAddress → f.isSample = true →
    (RawSample.parse f.payload).malformed = false → s.link.transmitter ≠ none → s.link.routineFill < 64 →
      let q := (RawSample.parse f.payload).stored w.cfg.assumedFlow s.timeBase
      let ended := endingBy s w q
      let test := excursionOf s.limits q ended
      ∃ t v r, exec (.sample g f) s = .next t ∧ t.well i = some v ∧ t.link.routine = s.link.routine ++ [.report r] ∧
        (r.slot = i ∧ r.address = w.cfg.address ∧ r.seg = g ∧ r.role = s.unit.role ∧ r.sample = q ∧
          r.marks = (RawSample.parse f.payload).marks ∧ r.state = t.stateOf i ∧ r.holds = v.holds ∧ r.forced = w.forced ∧
          r.target = v.target ∧ r.outlet = w.outlet ∧ r.missCount = w.missCount ∧ r.moveEnd = ended) ∧
        (∀ k : ExcKind, r.excursions.get k = true ↔ test k = some true) ∧
        (CondLaw s.conds →
          let raised : ExcKind → Prop := fun k => test k = some true ∧ Verifies s i w k
          (∀ k : ExcKind, r.raised.get k = true ↔ raised k) ∧
          (s.unit.role = .standby → r.command = none) ∧
          (s.unit.role = .duty → (raised .hot ∨ raised .oxygen) →
            (s.balancer.lineLost = false ∨ w.cfg.permitted.allows .flare = true → r.command = some .protective) ∧
            (s.balancer.lineLost = true → w.cfg.permitted.allows .flare = false → s.protCommand i = none →
              w.outlet = .engine → (s.stateOf i).onRoster = true → r.command = none)) ∧
          (s.unit.role = .duty → ¬ (raised .hot ∨ raised .oxygen) →
            ((s.stateOf i).onRoster = true ∨ ∃ l, s.routing i = some l ∧ s.isOpen l = true) →
              r.command =
                if r.trimOutcome = .applied ∨ r.trimOutcome = .stepClamped ∨ r.trimOutcome = .rangeClamped then some .trim
                else none)) ∧
        (s.unit.role = .standby → r.trimOutcome = .standby ∧ r.step = 0) ∧
        (s.unit.role = .duty →
          (s.link.mode = .hold → r.trimOutcome = .holdMode ∧ r.step = 0) ∧
          (s.link.mode = .run → t.stateOf i ≠ .tracking → r.trimOutcome = .notTracking ∧ r.step = 0) ∧
          (s.link.mode = .run → t.stateOf i = .tracking → q.gas = none → r.trimOutcome = .noGas ∧ r.step = 0) ∧
          (s.link.mode = .run → t.stateOf i = .tracking → q.gas.isSome = true → q.moving = true →
            r.trimOutcome = .moving ∧ r.step = 0)) ∧
        ∀ (y : GasBlock) (target : Nat), s.unit.role = .duty → s.link.mode = .run → s.stateOf i = .tracking → w.move = none →
          w.pendingProt = none → s.entryOf i = none → q.moving = false → q.gas = some y → w.target = some target →
          (∀ k : ExcKind, test k ≠ some true) → (s.seg g).queue.length < 16 → s.balancer.move.isSome = true →
            let e := trimError w.cfg y
            let n := trimTarget w.cfg target e
            r.trimOutcome = trimOutcomeOf w.cfg target e ∧
              ((r.trimOutcome = .applied ∨ r.trimOutcome = .stepClamped ∨ r.trimOutcome = .rangeClamped) →
                r.command = some .trim ∧ r.step = n - target ∧
                  (t.seg g).queue = (s.seg g).queue ++ [⟨i, n.toNat, w.outlet, .trim, false⟩]) ∧
              ((r.trimOutcome = .deadband ∨ r.trimOutcome = .noChange) →
                r.command = none ∧ r.step = 0 ∧ (t.seg g).queue = (s.seg g).queue)

/-- A POLL ends as a miss of its well at the close of the window, at a failed check, at an abandoned frame, at a foreign
source or destination, at a wrong kind, at a malformed SAMPLE and at a frame of the own address, with the counters of each (R33,
R129, R133, R134, R135, R139, R145); a frame of the other controller in the window is a miss too, counted as a foreign reply
(R145). A POLL whose slot has no addressed well any more, as when it was parked, ends as a miss of the segment that touches no
record, also at a good SAMPLE (R54, R134). Stated below the miss limit. The time base at the close of the window is assumption 4
(DEDUCED); that a foreign reply comes in the row STRAY_FRAME is assumption 7. -/
def Obligations.EveryMissIsChargedOnce : Prop :=
  (∀ (s : State) (g : Seg) (x : Txn) (opened : Nat) (i : Slot) (w : Well), s.held = false → Settled s → Awaits s g x i w →
     x.window = some opened → x.kind = .poll → BelowMissLimit s w →
       let q := s.seg g
       let missed : SegCounters := { q.counters with misses := satInc 65535 q.counters.misses }
       (∃ t, exec (.replyTimeout g) s = .next t ∧
         OneMiss { s with timeBase := max s.timeBase (opened + x.timeout) } t g { q with txn := none, counters := missed } i w) ∧
       (∀ f : FieldFrame, f.fits = true → f.checkGood = false →
         ∃ t, exec (.fieldCheckFailure g f) s = .next t ∧
           OneMiss s t g
             { q with txn := none, counters := { missed with checkErrors := satInc 65535 q.counters.checkErrors } } i w) ∧
       (∃ t, exec (.fieldFrameAbandoned g) s = .next t ∧
         OneMiss s t g
           { q with txn := none, counters := { missed with checkErrors := satInc 65535 q.counters.checkErrors } } i w) ∧
       (∀ f : FieldFrame, f.fromWellhead = true → f.source ≠ x.dest ∨ f.destination ≠ s.ownAddress →
         ∃ t, exec (.strayFrame g f) s = .next t ∧
           OneMiss s t g
             { q with txn := none, counters := { missed with foreignReplies := satInc 65535 q.counters.foreignReplies } } i w) ∧
       (∀ f : FieldFrame, Arrives f x.dest s.ownAddress → f.isSample = false →
         ∃ t, exec (.replyOfWrongKind g f) s = .next t ∧ OneMiss s t g { q with txn := none, counters := missed } i w)) ∧
  (∀ (s : State) (g : Seg) (f : FieldFrame) (x : Txn) (i : Slot) (w : Well), s.held = false → Settled s → Awaits s g x i w →
     x.kind = .poll → Arrives f x.dest s.ownAddress → f.isSample = true → (RawSample.parse f.payload).malformed = true →
     BelowMissLimit s w →
       let q := s.seg g
       ∃ t, exec (.sample g f) s = .next t ∧
         OneMiss s t g
           { q with
             txn := none
             counters := { q.counters with misses := satInc 65535 q.counters.misses
                                           rejected := satInc 65535 q.counters.rejected } } i w) ∧
  (∀ (s : State) (g : Seg) (x : Txn) (i : Slot) (w : Well), s.held = false → Settled s → Awaits s g x i w → x.kind = .poll →
     BelowMissLimit s w →
       let q := s.seg g
       (∀ f : FieldFrame, f.complete = true → f.source = s.ownAddress →
         ∃ t, exec (.ownAddressFrame g f) s = .next t ∧
           OneMiss s t g
             { q with
               txn := none
               counters := { q.counters with misses := satInc 65535 q.counters.misses
                                             foreignReplies := satInc 65535 q.counters.foreignReplies } } i w) ∧
       (∀ f : FieldFrame, FromOther s f →
         ∃ t, exec (.otherControllerFrame g f) s = .next t ∧ (t.seg g).txn = none ∧
           (t.seg g).counters.misses = satInc 65535 q.counters.misses ∧
           (t.seg g).counters.foreignReplies = satInc 65535 q.counters.foreignReplies ∧
           t.unit.lastOther = some (s.timeBase, g) ∧
           (t.well i).map Well.key =
             some (w.cfg, w.outlet, w.target, w.last, w.answering, satInc 15 w.missCount, w.forced))) ∧
  (∀ (s : State) (g : Seg) (x : Txn) (opened : Nat), s.held = false → Settled s → (s.seg g).txn = some x →
     x.window = some opened → x.kind = .poll →
     (∀ (i : Slot) (w : Well), x.slot = some i → s.well i = some w →
       ¬ (w.cfg.inService = true ∧ w.cfg.seg = g ∧ w.cfg.address = x.dest)) →
       let q := s.seg g
       let missed : Segment :=
         { q with txn := none, counters := { q.counters with misses := satInc 65535 q.counters.misses } }
       exec (.replyTimeout g) s =
           .next { s with timeBase := max s.timeBase (opened + x.timeout), segs := s.segs.put g missed } ∧
         ∀ f : FieldFrame, Arrives f x.dest s.ownAddress → f.isSample = true →
           exec (.sample g f) s = .next { s with segs := s.segs.put g missed })

/-- The miss that reaches the miss limit of an answering well makes it silent: answering no, the SILENT reason held, WELL
SILENT standing, its move gone (R15, R50, R139, R171). -/
def Obligations.TheMissLimitMakesTheWellSilent : Prop :=
  ∀ (s : State) (g : Seg) (x : Txn) (i : Slot) (w : Well), s.held = false → Awaits s g x i w → x.kind = .poll →
    w.answering = true → (s.seg g).settings.missLimit ≤ satInc 15 w.missCount →
      ∃ t v, exec (.replyTimeout g) s = .next t ∧ t.well i = some v ∧
        v.key = (w.cfg, w.outlet, w.target, w.last, false, satInc 15 w.missCount, w.forced) ∧ v.holds.silent = true ∧
        v.move = none ∧ t.hasRec .wellSilent i.val = true ∧ Undisturbed s t

/-- A SET that ends as a miss, at the close of its window or at an ECHO of another target or outlet, is a failed echo: the miss and
the failure are counted and the copy goes (R134, R136, R139). A sent entry of class FORCED, BALANCE or TRIM leaves, a changed one
stays, not marked sent; the outstanding balancing move of a BALANCE SET ends NOT MADE (R91, R166), also where its entry has been
clamped meanwhile and stays (assumption 43, DEDUCED). A PROTECTIVE entry stays, not marked sent, while the well
answers, and goes into the pending field while it does not (R167). The loaded budget comes into force where the non-protective
travel now allows it (R162). Stated in DUTY, below the miss limit, with no pending field that could enter a queue. The time base at
the close is assumption 4 (DEDUCED). -/
def Obligations.FailedEchoLeavesTheValveAsItWas : Prop :=
  ∀ (s late : State) (g : Seg) (x : Txn) (opened : Nat) (i : Slot) (w : Well) (c : SentCopy) (row : Instr), s.held = false →
    Settled s → s.unit.role = .duty → Awaits s g x i w → x.window = some opened → x.kind = .set →
    (s.seg g).sentCopy = some c → c.slot = i → BelowMissLimit s w → NoPending s →
    ((row = .replyTimeout g ∧ late = { s with timeBase := max s.timeBase (opened + x.timeout) }) ∨
      (late = s ∧ ∃ f, row = .echo g f ∧ Arrives f x.dest s.ownAddress ∧ f.isEcho = true ∧
        (f.echoTarget ≠ c.target ∨ f.echoOutlet ≠ some c.outlet))) →
      let q := s.seg g
      let travel := ((s.movesOf g).map fun m => if m.2.cls = .protective then 0 else m.2.travel).sum
      let failed : List Entry → Segment := fun queue =>
        { q with
          txn := none
          sentCopy := none
          queue := queue
          budgetInForce := if travel ≤ q.settings.budget then q.settings.budget else q.budgetInForce
          counters := { q.counters with misses := satInc 65535 q.counters.misses
                                        echoFailures := satInc 65535 q.counters.echoFailures } }
      let others := q.queue.filter fun e => !decide (e.slot = i)
      let balancingGoes : Cls → Prop := fun k =>
        (c.cls = .balance ∨ k = .balance) ∧ ∃ b, s.balancer.move = some b ∧ b.slot = i ∧ b.phase = .queued
      let ended : State :=
        { late with balancer := { s.balancer with move := none, lastEnd := some (.notMade, late.timeBase) } }
      (c.cls ≠ .protective → (∀ e, s.entryOf i = some e → e.sent = false) →
        (balancingGoes c.cls → ∃ t, exec row s = .next t ∧ OneMiss ended t g (failed q.queue) i w) ∧
        (¬ balancingGoes c.cls → ∃ t, exec row s = .next t ∧ OneMiss late t g (failed q.queue) i w)) ∧
      (∀ e, c.cls ≠ .protective → s.entryOf i = some e → e.sent = true →
        (balancingGoes e.cls → ∃ t, exec row s = .next t ∧ OneMiss ended t g (failed others) i w) ∧
        (¬ balancingGoes e.cls → ∃ t, exec row s = .next t ∧ OneMiss late t g (failed others) i w)) ∧
      (c.cls = .protective → w.answering = true →
        ∃ t, exec row s = .next t ∧
          OneMiss late t g (failed (q.queue.map fun e => if e.slot = i then { e with sent := false } else e)) i w) ∧
      (∀ e, c.cls = .protective → w.answering = false → s.entryOf i = some e → e.cls = .protective →
        ∃ t, exec row s = .next t ∧
          t = { late with wells := t.wells, rosters := t.rosters, segs := s.segs.put g (failed others) } ∧
          t.well i = some { w with missCount := satInc 15 w.missCount, pendingProt := some ⟨e.target, e.outlet⟩ } ∧
          ∀ j, j ≠ i → t.well j = s.well j)

/-- A good ECHO in DUTY writes the target and the outlet, opens the move record with the travel of the sent copy, and ends
the SET and its copy (R136, R139, R164). A good overheard ECHO in STANDBY writes the target and the outlet and makes no move
record; a move kept from a time of duty ends (R148, R168). -/
def Obligations.GoodEchoWritesTheRecord : Prop :=
  (∀ (s : State) (g : Seg) (f : FieldFrame) (x : Txn) (c : SentCopy) (i : Slot) (w : Well), s.held = false → s.unit.role = .duty →
     Awaits s g x i w → x.kind = .set → (s.seg g).sentCopy = some c → c.slot = i → Arrives f x.dest s.ownAddress →
     f.isEcho = true → f.echoTarget = c.target → f.echoOutlet = some c.outlet →
       ∃ t v, exec (.echo g f) s = .next t ∧ Undisturbed s t ∧ t.unit = s.unit ∧ (t.seg g).txn = none ∧
         (t.seg g).sentCopy = none ∧ t.well i = some v ∧
         v.key = (w.cfg, c.outlet, some c.target, w.last, true, 0, w.forced) ∧
         v.move = some ⟨c.target, c.outlet, c.cls, c.travel, s.timeBase⟩ ∧
         ∀ j, j ≠ i → (t.well j).map Well.key = (s.well j).map Well.key) ∧
  (∀ (s : State) (g : Seg) (f : FieldFrame) (o : Overheard) (l : Line) (i : Slot) (w : Well), s.held = false →
     s.unit.role = .standby → (s.seg g).txn = none → (s.seg g).overheard = some o → o.kind = .set → o.outlet = some l →
     s.wellAt g o.dest = some i → s.well i = some w → Arrives f o.dest o.src → f.isEcho = true → f.echoTarget = o.target →
     f.echoOutlet = some l →
       ∃ t v, exec (.echo g f) s = .next t ∧ Undisturbed s t ∧ t.unit = s.unit ∧ (t.seg g).overheard = none ∧
         t.well i = some v ∧ v.key = (w.cfg, l, some o.target, w.last, true, 0, w.forced) ∧ v.move = none ∧
         ∀ j, j ≠ i → (t.well j).map Well.key = (s.well j).map Well.key)

/-- With no exchange open, a wellhead's frame and a frame of the own address are discarded as foreign replies, and a failed
or abandoned frame is a check error; nothing else changes (R129, R144, R145). -/
def Obligations.StrayFramesChangeOneCounter : Prop :=
  ∀ (s : State) (g : Seg), s.held = false → Settled s → Quiet s g →
    let q := s.seg g
    let oneForeign : SegCounters := { q.counters with foreignReplies := satInc 65535 q.counters.foreignReplies }
    let oneError : SegCounters := { q.counters with checkErrors := satInc 65535 q.counters.checkErrors }
    let foreign : State := { s with segs := s.segs.put g { q with counters := oneForeign } }
    let errors : State := { s with segs := s.segs.put g { q with counters := oneError } }
    (∀ f : FieldFrame, f.fromWellhead = true → exec (.strayFrame g f) s = .next foreign) ∧
    (∀ f : FieldFrame, f.complete = true → f.source = s.ownAddress → exec (.ownAddressFrame g f) s = .next foreign) ∧
    (∀ f : FieldFrame, f.checkGood = false → exec (.fieldCheckFailure g f) s = .next errors) ∧
    exec (.fieldFrameAbandoned g) s = .next errors

/-- The timeout of an overheard transaction closes it: a miss of the destination where that is loaded, in service and on the
segment (R139, R146). Where it is not, R146 has the transaction close without touching a record; that no miss is counted then,
though R150 counts also a miss that touches no well record, is assumption 16, and the time base is assumption 4 (both DEDUCED). A
failed check in the window is a miss of either destination, which touches a record only where it is served (R147, R148, R150).
Stated below the miss limit. -/
def Obligations.OverheardTimeoutClosesTheExchange : Prop :=
  ∀ (s : State) (g : Seg) (o : Overheard), s.held = false → Settled s → (s.seg g).overheard = some o →
    let q := s.seg g
    let late : State := { s with timeBase := max s.timeBase (o.ended + o.timeout) }
    (s.wellAt g o.dest = none →
      exec (.overheardTimeout g) s = .next { late with segs := s.segs.put g { q with overheard := none } } ∧
      ∀ f : FieldFrame, (s.seg g).txn = none → f.fits = true → f.checkGood = false →
        let closed : Segment :=
          { q with
            overheard := none
            counters := { q.counters with misses := satInc 65535 q.counters.misses
                                          checkErrors := satInc 65535 q.counters.checkErrors } }
        exec (.fieldCheckFailure g f) s = .next { s with segs := s.segs.put g closed }) ∧
    ∀ (i : Slot) (w : Well), s.wellAt g o.dest = some i → s.well i = some w → BelowMissLimit s w →
      (∃ t, exec (.overheardTimeout g) s = .next t ∧
        OneMiss late t g
          { q with overheard := none, counters := { q.counters with misses := satInc 65535 q.counters.misses } } i w) ∧
      ∀ f : FieldFrame, (s.seg g).txn = none → f.fits = true → f.checkGood = false →
        ∃ t, exec (.fieldCheckFailure g f) s = .next t ∧
          OneMiss s t g
            { q with
              overheard := none
              counters := { q.counters with misses := satInc 65535 q.counters.misses
                                            checkErrors := satInc 65535 q.counters.checkErrors } } i w

/-! ## Timers and pins -/

/-- The expiry of the silence timer takes duty: the timer stops, a PRESENCE is due on every segment, every move record ends,
and the mode and the settings stay (R178). The ROLE notice of R187, with the moves ended and the protective commands made, is the
last frame of the urgent queue, stated while the transmitter is sending and the queue has room for it and a CONDITION notice. The
time base is assumption 4 (DEDUCED). -/
def Obligations.SilenceTakeoverTakesDuty : Prop :=
  ∀ (s : State) (start : Nat), s.held = false → s.unit.role = .standby → s.unit.silenceStart = some start →
    ∃ t, exec .silenceTakeover s = .next t ∧ Undisturbed s t ∧
      t.unit = { s.unit with role := .duty, silenceStart := none } ∧
      t.timeBase = max s.timeBase (start + (s.site.silence * 1000 + if s.unit.strapHigh then 1000 else 0)) ∧
      (∀ g : Seg, (t.seg g).presenceDue = true ∧ t.movesOf g = []) ∧
      (∀ j : Slot, (t.well j).map Well.key = (s.well j).map Well.key) ∧
      (Settled s → s.link.transmitter ≠ none → s.link.urgent.length < 14 →
        t.link.urgent.getLast? = some (.role ⟨t.timeBase, .duty, .standby, .takeover,
          if s.unit.strapHigh then 251 else 250, none,
          some ((allSlots.filter fun i => ((s.well i).bind (·.move)).isSome).length, t.protMade - s.protMade), none⟩))

/-- The expiry of a duty segment's presence timer makes a PRESENCE due, 500 ms after the last transmission; a due PRESENCE is
sent on an idle line, moves neither pointer nor poll position, and carries the broadcast destination (R137, R142). A move still
outstanding when the move timeout has passed ends TIMED OUT: its travel is released, a balancing move that was MOVING with it ends
TIMED OUT (R91, R170, R172), and one ACTUATOR excursion is counted, as a recurrence where a record is attached, and at verification
raises ACTUATOR FAULT with the values of R46 and its hold reason (R43, R49); a well with none is left alone (assumption 1). The demand
timeout makes the held demand absent and keeps its arrival time (R84). The expiry of the report timer evaluates both lines and
leaves the timer at its expiry (R77): each blend record takes the contributors, sums, blends and status of its roster (R78 to R80), and
each line kind is counted, raised or withdrawn by it (R81, R82, R111), both stated under the laws of the rosters and the conditions.
A LINE summary of the state it leaves joins the routine queue, or is discarded and
counted where that has no room (R102, R204); stated while the transmitter is sending. That an expiry brings the time base to its
due time is assumption 4 (DEDUCED). -/
def Obligations.PresenceMoveDemandAndReportTimersExpire : Prop :=
  (∀ (s : State) (g : Seg), s.held = false → s.unit.role = .duty →
       (∀ start, (s.seg g).presenceTimer = some start →
         exec (.presenceTimerExpiry g) s = .next
           { s with timeBase := max s.timeBase (start + 500)
                    segs := s.segs.put g { s.seg g with presenceTimer := none, presenceDue := true } }) ∧
       (Quiet s g → (s.seg g).presenceDue = true →
         let q := s.seg g
         let after : Segment :=
           { q with
             rateInForce := q.settings.rate
             txn := some ⟨.presence, none, 255, s.timeBase, q.settings.replyTimeout, none,
               ⟨none, q.position, q.round, decide (q.counters.transactions < 65535)⟩⟩
             sending := some (FieldFrame.presence s.ownAddress)
             presenceDue := false
             counters := { q.counters with transactions := satInc 65535 q.counters.transactions } }
         exec (.presence g) s = .next { s with segs := s.segs.put g after })) ∧
  (∀ (s : State) (i : Slot), s.held = false →
     ((s.well i).bind (·.move) = none → exec (.moveTimeout i) s = .next s) ∧
     ∀ (w : Well) (m : MoveRec), s.well i = some w → w.move = some m →
       ∃ t, exec (.moveTimeout i) s = .next t ∧ Undisturbed s t ∧ t.unit = s.unit ∧ (t.well i).bind (·.move) = none ∧
         t.timeBase = max s.timeBase (m.start + (s.seg w.cfg.seg).settings.moveTimeout * 1000) ∧
         (t.seg w.cfg.seg).outstanding = (s.seg w.cfg.seg).outstanding - m.travel ∧
         (∀ b, s.balancer.move = some b → b.slot = i → b.phase = .moving →
           t.balancer.move = none ∧ t.balancer.lastEnd = some (.timedOut, t.timeBase)) ∧
         (∀ j : Slot, (t.well j).map Well.key = (s.well j).map Well.key) ∧
         ∃ v, t.well i = some v ∧
           (s.attachedRec .actuatorFault i.val = true →
             v.excursions = w.excursions.put .actuator 0 ∧ v.holds = w.holds ∧
               (t.conds.find .actuatorFault i.val).map (·.recurrence) =
                 (s.conds.find .actuatorFault i.val).map fun r => satInc 255 r.recurrence) ∧
           (s.attachedRec .actuatorFault i.val = false → ¬ Verifies s i w .actuator →
             v.excursions = w.excursions.put .actuator (satInc 15 w.excursions.actuator) ∧ v.holds = w.holds ∧
               t.conds = s.conds) ∧
           (Verifies s i w .actuator →
             v.excursions = w.excursions.put .actuator 0 ∧ v.holds = w.holds.put .actuator true ∧
               ∃ r, t.conds.find .actuatorFault i.val = some r ∧ r.attached = true ∧
                 (s.conds.find .actuatorFault i.val = none →
                   r.raised = t.timeBase ∧ r.recurrence = 0 ∧ r.limit = some (m.target : Int) ∧
                     r.measured = match w.last with
                       | some q => some (q.position : Int)
                       | none => w.target.map fun x => (x : Int)) ∧
                 ∀ old, s.conds.find .actuatorFault i.val = some old → r.recurrence = satInc 255 old.recurrence)) ∧
  (∀ (s : State) (d : Nat × Nat) (arrival : Nat), s.held = false → s.balancer.demand = some d →
     s.balancer.demandArrival = some arrival →
       exec .demandTimeout s = .next
         { s with timeBase := max s.timeBase (arrival + s.site.demandTimeout * 1000)
                  balancer := { s.balancer with demand := none } }) ∧
  (∀ s : State, s.held = false →
     let due := s.balancer.reportTimer + s.site.reportInterval * 1000
     ∃ t, exec .reportTimer s = .next t ∧ Undisturbed s t ∧ t.unit = s.unit ∧ t.trips = s.trips ∧
       t.timeBase = max s.timeBase due ∧ t.balancer.reportTimer = due ∧ t.lines.engine.evaluated = some t.timeBase ∧
       t.lines.flare.evaluated = some t.timeBase ∧ (∀ j : Slot, (t.well j).map Well.key = (s.well j).map Well.key) ∧
       (RosterLaw s → CondLaw s.conds →
         let gases : Line → List (Nat × GasBlock) := fun l => (s.rosters.get l).filterMap fun j =>
           ((s.well j).bind (·.last)).bind fun q =>
             q.gas.bind fun x => if t.timeBase - q.time ≤ s.site.maxSampleAge * 1000 then some (q.flow, x) else none
         let sf : Line → Nat := fun l => ((gases l).map fun c => c.1).sum
         let sm : Line → Nat := fun l => ((gases l).map fun c => c.1 * c.2.ch4).sum
         let so : Line → Nat := fun l => ((gases l).map fun c => c.1 * c.2.o2).sum
         let ch4 : Line → Option Nat := fun l => if sf l = 0 then none else some (sm l / sf l)
         let o2 : Line → Option Nat := fun l => if sf l = 0 then none else some (so l / sf l)
         let status : Line → LineStatus := fun l =>
           if l = .engine ∧ s.balancer.lineLost = true then .lost
           else if l = .flare ∧ s.balancer.flareFault = true then .fault
           else if sf l = 0 then .noFlow
           else if l = .engine ∧ s.limits.engineO2Max < so l / sf l then .oxygen
           else if sm l / sf l < (if l = .engine then s.limits.engineMin else s.limits.flareMin) then .low
           else .normal
         (∀ l : Line, t.lines.get l =
           ⟨status l, (gases l).length, sf l, sm l, so l, ch4 l, o2 l, some t.timeBase⟩) ∧
         LineKindTreated s t .lineOxygenHigh 96 (status .engine = .oxygen) (o2 .engine) s.limits.engineO2Max
           s.site.verifyLineOxygen s.balancer.counts.lineOxygen t.balancer.counts.lineOxygen ∧
         LineKindTreated s t .engineBlendLow 96 (status .engine = .low) (ch4 .engine) s.limits.engineMin
           s.site.verifyEngineLow s.balancer.counts.engineLow t.balancer.counts.engineLow ∧
         LineKindTreated s t .flareBlendLow 97 (status .flare = .low) (ch4 .flare) s.limits.flareMin
           s.site.verifyFlareLow s.balancer.counts.flareLow t.balancer.counts.flareLow) ∧
       let block : Line → LineBlock := fun l =>
         { status := (t.lines.get l).status
           contributors := (t.lines.get l).contributors
           rosterSize := (t.rosters.get l).length
           sf := (t.lines.get l).sf
           ch4 := (t.lines.get l).ch4
           o2 := (t.lines.get l).o2
           evaluated := (t.lines.get l).evaluated }
       (s.link.transmitter ≠ none →
         (64 ≤ s.link.routineFill → t.link.routine = s.link.routine ∧
           t.link.counters.routineDiscards = satInc 65535 s.link.counters.routineDiscards) ∧
         (s.link.routineFill < 64 → t.link.routine = s.link.routine ++ [.line
           { time := t.timeBase
             role := s.unit.role
             mode := s.link.mode
             lines := ⟨block .engine, block .flare⟩
             counts := t.balancer.counts
             demand := t.demandNow
             demandAge := s.balancer.demandArrival.map (t.timeBase - ·)
             lineLost := s.balancer.lineLost
             flareFault := s.balancer.flareFault
             accepted := .ofFn fun k => (s.trips.get k).accepted
             candidates := .ofFn fun k => (s.trips.get k).candidate.isSome
             combination := s.combination
             balancing := t.balancer.move
             lastEnd := t.balancer.lastEnd.map fun e => (e.1, t.timeBase - e.2) }])))

/-- The expiry of a verification timer acts on its filter by the sampled state: equal to the accepted one, the candidate
goes; different, it becomes the candidate, and accepted when it was the candidate already; the first expiry after a reset
takes it at once. No other filter changes (R92, R93). A change of an input's level changes the pin alone while the input has
an interval; the accepted state of an input whose interval is off follows it at once (R93). -/
def Obligations.TripInputsAreVerifiedOrFollowed : Prop :=
  (∀ (s : State) (t : Trip) (ms : Nat), s.held = false → (s.site.intervals.get t).ms = some ms →
     ∃ u, exec (.tripFilterExpiry t) s = .next u ∧ Undisturbed s u ∧ u.unit = s.unit ∧
       (∀ k, k ≠ t → u.trips.get k = s.trips.get k) ∧
       let old := s.trips.get t
       let sampled := xor old.rawHigh (s.limits.activeLow.get t)
       let new := u.trips.get t
       new.rawHigh = old.rawHigh ∧ new.timer = old.timer + ms ∧ new.awaitingFirst = false ∧
         (old.awaitingFirst = true → new.accepted = sampled ∧ new.candidate = none) ∧
         (old.awaitingFirst = false → sampled = old.accepted → new.accepted = old.accepted ∧ new.candidate = none) ∧
         (old.awaitingFirst = false → sampled ≠ old.accepted → old.candidate ≠ some sampled →
           new.accepted = old.accepted ∧ new.candidate = some sampled) ∧
         (old.awaitingFirst = false → sampled ≠ old.accepted → old.candidate = some sampled →
           new.accepted = sampled ∧ new.candidate = none)) ∧
  (∀ (s : State) (t : Trip) (high : Bool), s.held = false →
     (s.site.intervals.get t ≠ .off →
       exec (.tripInputChange t high) s = .next { s with trips := s.trips.put t { s.trips.get t with rawHigh := high } }) ∧
     (s.site.intervals.get t = .off →
       ∃ u, exec (.tripInputChange t high) s = .next u ∧ Undisturbed s u ∧
         u.trips = s.trips.put t ⟨high, xor high (s.limits.activeLow.get t), none, (s.trips.get t).timer, false⟩))

/-- When the expiry of a verification timer, or a change of level on an input whose interval is off, satisfies the combination,
line-lost status is set and ENGINE LINE LOST raised with the mask as measured value; satisfied again while the status is set, it gives
a recurrence alone; where it ceases after the record has gone the status ends, ENGINE is open and its line evaluated; else the status
stays. Flare fault status follows its accepted state (R92 to R95, R97 to R99). The removal of ENGINE LINE LOST with the combination no
longer satisfied ends line-lost status, so that ENGINE is open, and evaluates the ENGINE line (R98, R116). -/
def Obligations.LineLostBeginsAndEnds : Prop :=
  (∀ (s : State) (k : Trip) (c : Instr), s.held = false → TripEvent s k c → ∃ u, exec c s = .next u ∧ LineLostFollows s u) ∧
  (∀ (s : State) (f : PlantFrame) (rest : List PlantFrame) (r : CondRec) (below : List CondRec), Ready s f rest →
     f.isKind 12 = true → parsePair f.payload = some (.engineLineLost, 96) → s.conds.stack = r :: below →
     r.kind = .engineLineLost → r.source = 96 → s.combination = false → s.balancer.lineLost = true →
       ∃ t, exec .clear s = .next t ∧ t.balancer.lineLost = false ∧ t.isOpen .engine = true ∧
         t.lines.engine.evaluated = some s.timeBase ∧ Undisturbed s { t with link := { t.link with unlocked := s.link.unlocked } })

/-- The open-outlet rule at a roster member (R100): an open routing takes NO OUTLET away, a closed one adds it, and makes in DUTY a
PROTECTIVE command to pmin with the outlet of R48 (assumption 44 where the outlet field is not permitted). Line-lost onset in DUTY
(R95): no entry and no pending field names ENGINE any more. With FLARE open, each ENGINE roster member permitted FLARE and not HOT is
diverted, routed to FLARE without NO OUTLET, at the target of its standing command or else its target field within its range (R96); a
member not permitted FLARE with no command standing is SHUT by NO OUTLET. With FLARE closed every roster member with no command
standing is, and the site's NO OUTLET stands (R101). The end of flare fault status while line-lost status is set diverts likewise in
DUTY each ENGINE roster member permitted FLARE and not HOT, and takes its NO OUTLET away (R99); stated for one that holds NO OUTLET or
has a command to FLARE, as the onset leaves it. The occasions are the expiry of a verification timer and a change of level on an input
whose interval is off. -/
def Obligations.LineLostDivertsTheEngineWells : Prop :=
  (∀ (s : State) (i : Slot) (w : Well) (l : Line), s.well i = some w → (s.stateOf i).onRoster = true → s.routing i = some l →
     let u := applyOutletRule i s
     (s.isOpen l = true → w.holds.noOutlet = true →
       u.well i = some { w with holds := w.holds.put .noOutlet false } ∧ u.segs = s.segs) ∧
     (s.isOpen l = true → w.holds.noOutlet = false → u = s) ∧
     (s.isOpen l = false → w.holds.noOutlet = true → u = s) ∧
     (s.isOpen l = false → w.holds.noOutlet = false →
       (u.well i).map (·.holds) = some (w.holds.put .noOutlet true) ∧
       (s.unit.role = .standby → u.segs = s.segs ∧ u.protMade = s.protMade) ∧
       (s.unit.role = .duty → s.protOutlet i = none → u.segs = s.segs ∧ u.protMade = s.protMade) ∧
       ∀ o, s.unit.role = .duty → s.protOutlet i = some o → u.protCommand i = some ⟨w.cfg.pmin, o⟩)) ∧
  (∀ (s : State) (k : Trip) (c : Instr), s.held = false → s.unit.role = .duty → RosterLaw s → QueuesLaw s →
     PendingLaw s → TripEvent s k c → s.combination = false → s.balancer.lineLost = false →
     s.balancer.flareFault = s.trips.flareFault.accepted →
       ∃ u, exec c s = .next u ∧
         (u.combination = true →
           (∀ g : Seg, ∀ e ∈ (u.seg g).queue, e.outlet = .flare) ∧
           (∀ (i : Slot) (w : Well) (p : PendingProt), u.well i = some w → w.pendingProt = some p → p.outlet = .flare) ∧
           (∀ (i : Slot) (w : Well), i ∈ s.rosters.engine → s.well i = some w → s.balancer.flareFault = false →
             (w.cfg.permitted.allows .flare = true → w.holds.hot = false →
               u.routing i = some .flare ∧ (u.well i).map (·.holds.noOutlet) = some false ∧
                 u.protCommand i = some
                   ⟨match s.protCommand i with
                     | some p => p.target
                     | none => clampNat w.cfg.pmin w.cfg.pmax (w.target.getD w.cfg.pmin), .flare⟩) ∧
             (w.cfg.permitted.allows .flare = false → s.protCommand i = none → s.sentProt i = none →
               u.stateOf i = .shut ∧ (u.well i).map (·.holds.noOutlet) = some true)) ∧
           (s.balancer.flareFault = true → ∀ i : Slot, i ∈ s.rosters.engine ∨ i ∈ s.rosters.flare → s.protCommand i = none →
             s.sentProt i = none →
               u.stateOf i = .shut ∧ (u.well i).map (·.holds.noOutlet) = some true ∧ u.hasRec .noOutlet 98 = true))) ∧
  (∀ (s : State) (c : Instr), s.held = false → s.unit.role = .duty → RosterLaw s → QueuesLaw s → PendingLaw s →
     TripEvent s .flareFault c → s.balancer.lineLost = true → s.hasRec .engineLineLost 96 = true →
     s.balancer.flareFault = true →
       ∃ u, exec c s = .next u ∧
         (u.trips.flareFault.accepted = false →
           u.balancer.flareFault = false ∧
           ∀ (i : Slot) (w : Well), i ∈ s.rosters.engine → s.well i = some w → w.cfg.permitted.allows .flare = true →
             w.holds.hot = false → (w.holds.noOutlet = true ∨ ∃ p, s.protCommand i = some p ∧ p.outlet = .flare) →
               u.routing i = some .flare ∧ (u.well i).map (·.holds.noOutlet) = some false ∧
                 u.protCommand i = some
                   ⟨match s.protCommand i with
                     | some p => p.target
                     | none => clampNat w.cfg.pmin w.cfg.pmax (w.target.getD w.cfg.pmin), .flare⟩))

/-! ## Figures -/

/-- R35: the balance gas is 1000 less the three gases, 0 where they exceed 1000; it is absent with the gas block, and lies
in 0 to 1000; a sum above 1000 is no malformation. R36: the stored flow is the one measured, after its clamp, or the
estimate from the assumed flow and the clamped position. -/
def Obligations.StoredSampleValues : Prop :=
  (∀ (r : RawSample) (a t : Nat),
     (∀ m c o, r.gas = some (m, c, o) → ∃ x, (r.stored a t).gas = some x ∧ x.ch4 = m ∧ x.co2 = c ∧ x.o2 = o ∧
       (m + c + o ≤ 1000 → x.balance + m + c + o = 1000) ∧ (1000 < m + c + o → x.balance = 0) ∧ x.balance ≤ 1000) ∧
     (r.gas = none → (r.stored a t).gas = none)) ∧
  (∀ (r : RawSample) (m c o : Nat), r.gas = some (m, c, o) → m ≤ 1000 → c ≤ 1000 → o ≤ 1000 → r.faultBytes = [] →
     r.malformed = false) ∧
  (∀ (r : RawSample) (a t : Nat),
     (∀ f, r.flow = some f → (r.stored a t).flow = min f 4000 ∧ (r.stored a t).flowMeasured = true) ∧
     (r.flow = none → (r.stored a t).flow = a * min r.position 1000 / 1000 ∧ (r.stored a t).flowMeasured = false) ∧
     (a ≤ 4000 → (r.stored a t).flow ≤ 4000) ∧ (r.flow = none → a = 0 ∨ r.position = 0 → (r.stored a t).flow = 0))

/-- R61: the trim error in its stages, with the ranges of each for values in their ranges. -/
def Obligations.TrimErrorInStages : Prop :=
  ∀ (c : WellCfg) (x : GasBlock),
    let quality : Int := (x.ch4 : Int) - c.ch4Target
    let oxygen : Int := 4 * max 0 ((x.o2 : Int) - c.o2Soft)
    let balance : Int := max 0 ((x.balance : Int) - c.balanceCeiling)
    trimError c x = quality - oxygen - balance ∧ trimError c x ≤ quality ∧
      (x.ch4 ≤ 1000 → c.ch4Target ≤ 1000 → x.o2 ≤ 1000 → x.balance ≤ 1000 →
        -1000 ≤ quality ∧ quality ≤ 1000 ∧ 0 ≤ oxygen ∧ oxygen ≤ 4000 ∧ 0 ≤ balance ∧ balance ≤ 1000 ∧
          -6000 ≤ trimError c x ∧ trimError c x ≤ 1000)

/-- R63: the raw step is g × e / 16, the product formed whole and the quotient truncated toward zero, with its ranges and
its examples. The step clamp bounds the step by the step limit and the range clamp the target by the range; a target the
trim gives lies in the well's range (R64, R65). -/
def Obligations.TrimStepIsTruncatedAndClamped : Prop :=
  (∀ (c : WellCfg) (e : Int),
     (0 ≤ e → 16 * rawStep c e ≤ c.gain * e ∧ (c.gain : Int) * e < 16 * rawStep c e + 16) ∧
     (e ≤ 0 → (c.gain : Int) * e ≤ 16 * rawStep c e ∧ 16 * rawStep c e - 16 < c.gain * e) ∧
     rawStep c (-e) = -rawStep c e ∧
     (c.gain ≤ 255 → -6000 ≤ e → e ≤ 1000 →
       -1530000 ≤ (c.gain : Int) * e ∧ (c.gain : Int) * e ≤ 255000 ∧ -95625 ≤ rawStep c e ∧ rawStep c e ≤ 15937) ∧
     (c.gain = 1 → (-15 ≤ e → e ≤ 15 → rawStep c e = 0) ∧ rawStep c (-17) = -1 ∧ rawStep c (-2040) = -127 ∧
       rawStep c 2040 = 127) ∧
     (c.gain = 0 → rawStep c e = 0)) ∧
  (∀ (c : WellCfg) (target : Nat) (e : Int), c.pmin ≤ c.pmax →
     (-(c.step : Int) ≤ clampedStep c e ∧ clampedStep c e ≤ c.step) ∧
     (-(c.step : Int) ≤ rawStep c e → rawStep c e ≤ c.step → clampedStep c e = rawStep c e) ∧
     ((c.pmin : Int) ≤ trimTarget c target e ∧ trimTarget c target e ≤ c.pmax) ∧
     (c.pmin ≤ target + clampedStep c e → target + clampedStep c e ≤ c.pmax → trimTarget c target e = target + clampedStep c e))

/-- R160: the travel of an entry, by what the record holds, and its range. -/
def Obligations.TravelByWhatTheRecordHolds : Prop :=
  ∀ (w : Well) (t : Nat),
    (∀ x, w.target = some x → travelOf w t = max (t - x) (x - t)) ∧
    (∀ q, w.target = none → w.last = some q → travelOf w t = max (t - q.position) (q.position - t)) ∧
    (w.target = none → w.last = none → travelOf w t = max t (1000 - t)) ∧
    (t ≤ 1000 → (∀ x, w.target = some x → x ≤ 1000) → (∀ q, w.last = some q → q.position ≤ 1000) → travelOf w t ≤ 1000)

/-- A computed blend, of CH4 or of O2, lies between the least and the greatest gas of the contributors, and is absent exactly without
flow (R79). The status of a line is the first of its table that applies (R80). What a balancing pass chooses (R85 to R90): a
contributor in TRACKING or HELD with no move, no pending field and no entry but TRIM, whose SET names a permitted and open outlet and
a target within its range, by the trigger of its action, the first in order that finds a candidate; that the O2 excess action passes
over wells barred by R86 is assumption 36. A chosen SET joins its queue as a BALANCE entry and its move is outstanding; at a full
queue it is dropped, the move ends NOT MADE and the pending fields are examined (R91, R155, R158; assumption 39). No pass is made in
STANDBY, in HOLD, with a move outstanding, or before the balance interval has passed (R85): a REPORT_TIMER then leaves every queue and
the move. At the good ECHO of its SET the move is MOVING, or ends NOT MADE where its entry was clamped meanwhile and is overtaken (R91,
R164, R165); no balance interval is 0 (R76). -/
def Obligations.BlendsStatusAndBalancing : Prop :=
  (∀ (cs : List Contrib) (lo hi : Nat), (∀ c ∈ cs, lo ≤ c.ch4 ∧ c.ch4 ≤ hi) →
     (sumFlow cs = 0 → blend (sumCh4 cs) (sumFlow cs) = none) ∧
     (sumFlow cs ≠ 0 → ∃ m, blend (sumCh4 cs) (sumFlow cs) = some m ∧ lo ≤ m ∧ m ≤ hi)) ∧
  (∀ (cs : List Contrib) (lo hi : Nat), (∀ c ∈ cs, lo ≤ c.o2 ∧ c.o2 ≤ hi) →
     (sumFlow cs = 0 → blend (sumO2 cs) (sumFlow cs) = none) ∧
     (sumFlow cs ≠ 0 → ∃ o, blend (sumO2 cs) (sumFlow cs) = some o ∧ lo ≤ o ∧ o ≤ hi)) ∧
  (∀ (lim : Limits) (m o : Nat),
     (∀ x y, engineStatus true lim x y = .lost ∧ flareStatus true lim x = .fault) ∧
     engineStatus false lim none none = .noFlow ∧ flareStatus false lim none = .noFlow ∧
     (lim.engineO2Max < o → engineStatus false lim (some m) (some o) = .oxygen) ∧
     (o ≤ lim.engineO2Max → m < lim.engineMin → engineStatus false lim (some m) (some o) = .low) ∧
     (o ≤ lim.engineO2Max → lim.engineMin ≤ m → engineStatus false lim (some m) (some o) = .normal) ∧
     (m < lim.flareMin → flareStatus false lim (some m) = .low) ∧
     (lim.flareMin ≤ m → flareStatus false lim (some m) = .normal)) ∧
  (∀ (s : State) (b : BalMove), s.chooseBalance = some b →
     b.phase = .queued ∧
     (b.action ≠ .o2Excess → s.actionO2 = none) ∧ (b.action = .promotion ∨ b.action = .throttle → s.actionLow = none) ∧
     (b.action = .throttle → s.actionPromote = none) ∧
     ∃ (w : Well) (c : Contrib), s.well b.slot = some w ∧ s.contribOf b.slot = some c ∧ w.move = none ∧
       w.pendingProt = none ∧ (∀ e, s.entryOf b.slot = some e → e.cls = .trim) ∧ w.cfg.permitted.allows b.outlet = true ∧
       s.isOpen b.outlet = true ∧ (s.stateOf b.slot = .tracking ∨ s.stateOf b.slot = .held) ∧
       (w.cfg.pmin ≤ w.cfg.pmax → w.cfg.pmin ≤ b.target ∧ b.target ≤ w.cfg.pmax) ∧
       (∀ target, w.target = some target → b.target =
         if b.action = .throttle then clampNat w.cfg.pmin w.cfg.pmax (target - w.cfg.step)
         else clampNat w.cfg.pmin w.cfg.pmax target) ∧
       match b.action with
       | .o2Excess => b.outlet = .flare ∧ b.slot ∈ s.rosters.engine ∧
           (∃ o, s.lines.engine.o2 = some o ∧ s.limits.engineO2Max < o) ∧
           ∀ d ∈ s.contribs .engine, s.trackingOrHeld d.slot = true → s.candidate d.slot .flare = true → d.o2 ≤ c.o2
       | .blendLow => b.outlet = .flare ∧ b.slot ∈ s.rosters.engine ∧
           ∃ m, s.lines.engine.ch4 = some m ∧ m < s.limits.engineMin
       | .promotion => b.outlet = .engine ∧ b.slot ∈ s.rosters.flare ∧ s.stateOf b.slot = .tracking ∧
           s.balancer.lineLost = false ∧ (∃ d, s.demandNow = some d ∧ 1 ≤ d.2 ∧ s.lines.engine.sf < d.1) ∧
           ((∃ m, s.lines.engine.ch4 = some m ∧ s.limits.engineMin + s.site.hysteresis ≤ m) ∨
             s.lines.engine.status = .noFlow) ∧ 0 < c.flow ∧
           s.limits.engineMin + s.site.hysteresis ≤
             (s.lines.engine.sm + c.flow * c.ch4) / (s.lines.engine.sf + c.flow)
       | .throttle => b.outlet = .flare ∧ b.slot ∈ s.rosters.flare ∧ s.stateOf b.slot = .tracking ∧
           (∃ target, w.target = some target ∧ w.cfg.pmin < target) ∧
           ∃ m, s.lines.flare.ch4 = some m ∧ m < s.limits.flareMin) ∧
  (∀ (s : State) (b : BalMove) (w : Well), s.chooseBalance = some b → s.well b.slot = some w → s.entryOf b.slot = none →
     let q := s.seg w.cfg.seg
     (q.queue.length < 16 →
       balancingPass s =
         { s with
           balancer := { s.balancer with move := some b }
           segs := s.segs.put w.cfg.seg
             { q with queue := q.queue ++ [⟨b.slot, b.target, b.outlet, .balance, false⟩] } }) ∧
     (16 ≤ q.queue.length →
       let ended : Balancer := { s.balancer with move := none, lastEnd := some (.notMade, s.timeBase) }
       let dropped : SegCounters := { q.counters with drops := satInc 65535 q.counters.drops }
       (NoPending s →
         balancingPass s =
           { s with balancer := ended, segs := s.segs.put w.cfg.seg { q with counters := dropped } }) ∧
       (balancingPass s).balancer = ended ∧ ((balancingPass s).seg w.cfg.seg).counters.drops = dropped.drops ∧
         (balancingPass s).entryOf b.slot = none)) ∧
  (∀ s : State, s.held = false →
     (s.unit.role = .standby ∨ s.link.mode = .hold ∨ s.balancer.move.isSome = true ∨
       max s.timeBase (s.balancer.reportTimer + s.site.reportInterval * 1000) -
         (match s.balancer.lastEnd with
          | some e => e.2
          | none => s.balancer.resetTime) < s.site.balanceInterval * 1000) →
       ∃ t, exec .reportTimer s = .next t ∧ t.balancer.move = s.balancer.move ∧ ∀ g : Seg, (t.seg g).queue = (s.seg g).queue) ∧
  (∀ (s : State) (g : Seg) (f : FieldFrame) (x : Txn) (c : SentCopy) (i : Slot) (w : Well) (e : Entry) (b : BalMove),
     s.held = false → s.unit.role = .duty → Awaits s g x i w → x.kind = .set → (s.seg g).sentCopy = some c → c.slot = i →
     c.cls = .balance → s.entryOf i = some e → e.cls = .balance → s.balancer.move = some b → b.slot = i → b.phase = .queued →
     w.move = none → NoPending s → w.answering = true → s.isOpen c.outlet = true → 1 ≤ s.site.balanceInterval →
     Arrives f x.dest s.ownAddress →
     f.isEcho = true → f.echoTarget = c.target → f.echoOutlet = some c.outlet →
       ∃ t, exec (.echo g f) s = .next t ∧ t.entryOf i = none ∧
         (e.sent = true → t.balancer.move = some { b with phase := .moving }) ∧
         (e.sent = false → t.balancer.move = none ∧ t.balancer.lastEnd = some (.notMade, s.timeBase)))

/-- The check is that of R210, which the bytes 31h to 39h give as 6F91h. A field frame the part makes carries it over source,
destination, kind, length and payload, behind its delimiter, and an address survives the reversal of its bits on the line (R211 to
R213); R211's POLL is one. A plant frame carries it over length, kind, tag and payload (R214); the part's are of kinds 17 to 21, a
RESPONSE with the tag of the frame it answers and the others with tag 0, and REPORT, LINE, CONDITION and ROLE are 45, 74, 26 and 17
bytes long (10.7). -/
def Obligations.SentFramesCarryTheirCheckAndAddresses : Prop :=
  crc [0x31#8, 0x32#8, 0x33#8, 0x34#8, 0x35#8, 0x36#8, 0x37#8, 0x38#8, 0x39#8] = 0x6F91#16 ∧
  (∀ (src dst kind : Nat) (p : List Byte), src < 256 → dst < 256 →
    (FieldFrame.make src dst kind p).checkGood = true ∧ (FieldFrame.make src dst kind p).source = src ∧
      (FieldFrame.make src dst kind p).destination = dst ∧ (FieldFrame.make src dst kind p).payload = p ∧
      let covered := [addressByte src, addressByte dst, BitVec.ofNat 8 kind, BitVec.ofNat 8 p.length] ++ p
      (FieldFrame.make src dst kind p).characters = 0x5A#8 :: covered ++ leBytes 2 (crc covered).toNat) ∧
  (FieldFrame.poll 250 118).characters.take 5 = [0x5A#8, 0x5F#8, 0x6E#8, 1#8, 0#8] ∧
  (∀ (kind tag : Nat) (p : List Byte), (PlantFrame.make kind tag p).checkGood = true ∧ (PlantFrame.make kind tag p).payload = p) ∧
  (∀ u : Uplink,
    let p := u.frame.payload
    let covered := leBytes 2 p.length ++ [u.frame.kind, u.frame.tag] ++ p
    u.frame.checkGood = true ∧ u.characters = 0x7E#8 :: covered ++ leBytes 2 (crc covered).toNat ∧
      match u with
      | .response r => u.frame.kind = 17#8 ∧ u.frame.tag = r.tag
      | .report _ => u.frame.kind = 18#8 ∧ u.frame.tag = 0#8 ∧ p.length = 45
      | .line _ => u.frame.kind = 19#8 ∧ u.frame.tag = 0#8 ∧ p.length = 74
      | .condition _ => u.frame.kind = 20#8 ∧ u.frame.tag = 0#8 ∧ p.length = 26
      | .role _ => u.frame.kind = 21#8 ∧ u.frame.tag = 0#8 ∧ p.length = 17) ∧
  addressByte 118 = 0x6E#8 ∧ addressByte 250 = 0x5F#8 ∧ addressByte 251 = 0xDF#8 ∧ addressByte 255 = 0xFF#8

/-! ## Invariants -/

/-- At most 16 urgent frames, 64 routine ones with the reserved place, and 8 received ones, after every step (R203). -/
def Obligations.UplinkQueuesNeverOverflow : Prop := ∀ s t : State, LinkLaw s.link → step s = .next t → LinkLaw t.link

/-- At most 16 entries, at most one per well, and the protective ones first, in every Command Queue after every step
(R153). -/
def Obligations.CommandQueuesKeepTheirLaw : Prop := ∀ s t : State, QueuesLaw s → step s = .next t → QueuesLaw t

/-- Outstanding travel equals the sum of the travels of the segment's move records after every step, and at power-on reset (R161).
The law holds together with two facts it needs: a well out of service has no move, since parking and vacating are refused while one
stands (R20, R25), and a sent copy stands only with the SET of its slot in flight (R152). -/
def Obligations.OutstandingTravelIsTheSumOfTheMoves : Prop :=
  TravelLaw State.reset ∧ ∀ s t : State, TravelLaw s → step s = .next t → TravelLaw t

/-- No well holds both a PROTECTIVE entry and the pending protective field, and every queue is empty in STANDBY, after every step
and at power-on reset (R152, R156, R157, R184). -/
def Obligations.PendingFieldsStandAlone : Prop :=
  PendingLaw State.reset ∧ ∀ s t : State, PendingLaw s → step s = .next t → PendingLaw t

/-- Each roster holds exactly the slots its records put on it, once, in lean order, after every step (R17, R18). -/
def Obligations.RostersFollowTheRecords : Prop := ∀ s t : State, RosterLaw s → step s = .next t → RosterLaw t

/-- No pair stands twice, the pending set stands in taking order, and the levels in service strictly decrease, after every
step (R107, R110, R112). No more than eight conditions are in service, since the levels strictly decrease (R112). -/
def Obligations.ConditionsKeepTheirOrder : Prop :=
  (∀ s t : State, CondLaw s.conds → step s = .next t → CondLaw t.conds) ∧
  (∀ c : Conditions, CondLaw c → c.stack.length ≤ 8)

/-- No two loaded slots carry one address, and the silence timer runs exactly in STANDBY, after every step (R3, R20,
R176). -/
def Obligations.AddressesAndRoleKeepTheirLaw : Prop :=
  (∀ s t : State, AddressLaw s → step s = .next t → AddressLaw t) ∧
    ∀ s t : State, RoleLaw s.unit → step s = .next t → RoleLaw t.unit

/-- No evaluation is left over between commands, so that what one event asks for is made in it (R19; assumption 28). -/
def Obligations.EvaluationsEndWithTheirCommand : Prop := ∀ s t : State, Settled s → step s = .next t → Settled t

/-- Power-on reset has every law the invariants speak of: of the link, the queues, the rosters, the conditions, the role, the
addresses, outstanding travel and the pending fields, with no evaluation left over. -/
def Obligations.ResetHasEveryLaw : Prop :=
  LinkLaw State.reset.link ∧ QueuesLaw State.reset ∧ RosterLaw State.reset ∧ CondLaw State.reset.conds ∧
    RoleLaw State.reset.unit ∧ AddressLaw State.reset ∧ TravelLaw State.reset ∧ PendingLaw State.reset ∧ Settled State.reset

/-- No event of the field, the pins or the time base changes a setting, a limit, a level, the mode, the strap or a slot's
configuration (R22, R30, R105, R130, R194, R196, R200). The rows of the plant computer that load nothing leave every
setting, limit, level and configuration (R192). -/
def Obligations.OnlyLoadingRowsChangeSettings : Prop :=
  (∀ (c : Instr) (s t : State), c ∉ plantRows → c ≠ .resetAsserted → (∀ h, c ≠ .resetReleased h) → exec c s = .next t →
     Undisturbed s t) ∧
  (∀ (c : Instr) (s t : State), c ∈ plantRows → c ∉ loadingRows → exec c s = .next t →
     Undisturbed s { t with link := { t.link with unlocked := s.link.unlocked } })
end

