-- ==== Sys2Proof/Laws/State.lean ====
section
/-! SUPPORT. One lemma per field per updater of State, true by rfl, so that no proof unfolds a record update; and the get and put
lemmas of the families. -/

-- One theorem at a time: the one-text build of the package runs out of threads otherwise.
set_option Elab.async false

namespace Sys2Proof.Machine

/-! ## modSeg -/

@[simp] theorem State.modSeg_pending (s : State) (g : Seg) (f : Segment → Segment) :
    (s.modSeg g f).pending = s.pending := rfl
@[simp] theorem State.modSeg_held (s : State) (g : Seg) (f : Segment → Segment) :
    (s.modSeg g f).held = s.held := rfl
@[simp] theorem State.modSeg_timeBase (s : State) (g : Seg) (f : Segment → Segment) :
    (s.modSeg g f).timeBase = s.timeBase := rfl
@[simp] theorem State.modSeg_wells (s : State) (g : Seg) (f : Segment → Segment) :
    (s.modSeg g f).wells = s.wells := rfl
@[simp] theorem State.modSeg_rosters (s : State) (g : Seg) (f : Segment → Segment) :
    (s.modSeg g f).rosters = s.rosters := rfl
@[simp] theorem State.modSeg_segs (s : State) (g : Seg) (f : Segment → Segment) :
    (s.modSeg g f).segs = s.segs.put g (f (s.segs.get g)) := rfl
@[simp] theorem State.modSeg_site (s : State) (g : Seg) (f : Segment → Segment) :
    (s.modSeg g f).site = s.site := rfl
@[simp] theorem State.modSeg_limits (s : State) (g : Seg) (f : Segment → Segment) :
    (s.modSeg g f).limits = s.limits := rfl
@[simp] theorem State.modSeg_trips (s : State) (g : Seg) (f : Segment → Segment) :
    (s.modSeg g f).trips = s.trips := rfl
@[simp] theorem State.modSeg_lines (s : State) (g : Seg) (f : Segment → Segment) :
    (s.modSeg g f).lines = s.lines := rfl
@[simp] theorem State.modSeg_balancer (s : State) (g : Seg) (f : Segment → Segment) :
    (s.modSeg g f).balancer = s.balancer := rfl
@[simp] theorem State.modSeg_conds (s : State) (g : Seg) (f : Segment → Segment) :
    (s.modSeg g f).conds = s.conds := rfl
@[simp] theorem State.modSeg_unit (s : State) (g : Seg) (f : Segment → Segment) :
    (s.modSeg g f).unit = s.unit := rfl
@[simp] theorem State.modSeg_link (s : State) (g : Seg) (f : Segment → Segment) :
    (s.modSeg g f).link = s.link := rfl
@[simp] theorem State.modSeg_evalAsked (s : State) (g : Seg) (f : Segment → Segment) :
    (s.modSeg g f).evalAsked = s.evalAsked := rfl
@[simp] theorem State.modSeg_protMade (s : State) (g : Seg) (f : Segment → Segment) :
    (s.modSeg g f).protMade = s.protMade := rfl

/-! ## modBalancer -/

@[simp] theorem State.modBalancer_pending (s : State) (f : Balancer → Balancer) :
    (s.modBalancer f).pending = s.pending := rfl
@[simp] theorem State.modBalancer_held (s : State) (f : Balancer → Balancer) :
    (s.modBalancer f).held = s.held := rfl
@[simp] theorem State.modBalancer_timeBase (s : State) (f : Balancer → Balancer) :
    (s.modBalancer f).timeBase = s.timeBase := rfl
@[simp] theorem State.modBalancer_wells (s : State) (f : Balancer → Balancer) :
    (s.modBalancer f).wells = s.wells := rfl
@[simp] theorem State.modBalancer_rosters (s : State) (f : Balancer → Balancer) :
    (s.modBalancer f).rosters = s.rosters := rfl
@[simp] theorem State.modBalancer_segs (s : State) (f : Balancer → Balancer) :
    (s.modBalancer f).segs = s.segs := rfl
@[simp] theorem State.modBalancer_site (s : State) (f : Balancer → Balancer) :
    (s.modBalancer f).site = s.site := rfl
@[simp] theorem State.modBalancer_limits (s : State) (f : Balancer → Balancer) :
    (s.modBalancer f).limits = s.limits := rfl
@[simp] theorem State.modBalancer_trips (s : State) (f : Balancer → Balancer) :
    (s.modBalancer f).trips = s.trips := rfl
@[simp] theorem State.modBalancer_lines (s : State) (f : Balancer → Balancer) :
    (s.modBalancer f).lines = s.lines := rfl
@[simp] theorem State.modBalancer_balancer (s : State) (f : Balancer → Balancer) :
    (s.modBalancer f).balancer = f s.balancer := rfl
@[simp] theorem State.modBalancer_conds (s : State) (f : Balancer → Balancer) :
    (s.modBalancer f).conds = s.conds := rfl
@[simp] theorem State.modBalancer_unit (s : State) (f : Balancer → Balancer) :
    (s.modBalancer f).unit = s.unit := rfl
@[simp] theorem State.modBalancer_link (s : State) (f : Balancer → Balancer) :
    (s.modBalancer f).link = s.link := rfl
@[simp] theorem State.modBalancer_evalAsked (s : State) (f : Balancer → Balancer) :
    (s.modBalancer f).evalAsked = s.evalAsked := rfl
@[simp] theorem State.modBalancer_protMade (s : State) (f : Balancer → Balancer) :
    (s.modBalancer f).protMade = s.protMade := rfl

/-! ## modConds -/

@[simp] theorem State.modConds_pending (s : State) (f : Conditions → Conditions) :
    (s.modConds f).pending = s.pending := rfl
@[simp] theorem State.modConds_held (s : State) (f : Conditions → Conditions) :
    (s.modConds f).held = s.held := rfl
@[simp] theorem State.modConds_timeBase (s : State) (f : Conditions → Conditions) :
    (s.modConds f).timeBase = s.timeBase := rfl
@[simp] theorem State.modConds_wells (s : State) (f : Conditions → Conditions) :
    (s.modConds f).wells = s.wells := rfl
@[simp] theorem State.modConds_rosters (s : State) (f : Conditions → Conditions) :
    (s.modConds f).rosters = s.rosters := rfl
@[simp] theorem State.modConds_segs (s : State) (f : Conditions → Conditions) :
    (s.modConds f).segs = s.segs := rfl
@[simp] theorem State.modConds_site (s : State) (f : Conditions → Conditions) :
    (s.modConds f).site = s.site := rfl
@[simp] theorem State.modConds_limits (s : State) (f : Conditions → Conditions) :
    (s.modConds f).limits = s.limits := rfl
@[simp] theorem State.modConds_trips (s : State) (f : Conditions → Conditions) :
    (s.modConds f).trips = s.trips := rfl
@[simp] theorem State.modConds_lines (s : State) (f : Conditions → Conditions) :
    (s.modConds f).lines = s.lines := rfl
@[simp] theorem State.modConds_balancer (s : State) (f : Conditions → Conditions) :
    (s.modConds f).balancer = s.balancer := rfl
@[simp] theorem State.modConds_conds (s : State) (f : Conditions → Conditions) :
    (s.modConds f).conds = f s.conds := rfl
@[simp] theorem State.modConds_unit (s : State) (f : Conditions → Conditions) :
    (s.modConds f).unit = s.unit := rfl
@[simp] theorem State.modConds_link (s : State) (f : Conditions → Conditions) :
    (s.modConds f).link = s.link := rfl
@[simp] theorem State.modConds_evalAsked (s : State) (f : Conditions → Conditions) :
    (s.modConds f).evalAsked = s.evalAsked := rfl
@[simp] theorem State.modConds_protMade (s : State) (f : Conditions → Conditions) :
    (s.modConds f).protMade = s.protMade := rfl

/-! ## modUnit -/

@[simp] theorem State.modUnit_pending (s : State) (f : RoleUnit → RoleUnit) :
    (s.modUnit f).pending = s.pending := rfl
@[simp] theorem State.modUnit_held (s : State) (f : RoleUnit → RoleUnit) :
    (s.modUnit f).held = s.held := rfl
@[simp] theorem State.modUnit_timeBase (s : State) (f : RoleUnit → RoleUnit) :
    (s.modUnit f).timeBase = s.timeBase := rfl
@[simp] theorem State.modUnit_wells (s : State) (f : RoleUnit → RoleUnit) :
    (s.modUnit f).wells = s.wells := rfl
@[simp] theorem State.modUnit_rosters (s : State) (f : RoleUnit → RoleUnit) :
    (s.modUnit f).rosters = s.rosters := rfl
@[simp] theorem State.modUnit_segs (s : State) (f : RoleUnit → RoleUnit) :
    (s.modUnit f).segs = s.segs := rfl
@[simp] theorem State.modUnit_site (s : State) (f : RoleUnit → RoleUnit) :
    (s.modUnit f).site = s.site := rfl
@[simp] theorem State.modUnit_limits (s : State) (f : RoleUnit → RoleUnit) :
    (s.modUnit f).limits = s.limits := rfl
@[simp] theorem State.modUnit_trips (s : State) (f : RoleUnit → RoleUnit) :
    (s.modUnit f).trips = s.trips := rfl
@[simp] theorem State.modUnit_lines (s : State) (f : RoleUnit → RoleUnit) :
    (s.modUnit f).lines = s.lines := rfl
@[simp] theorem State.modUnit_balancer (s : State) (f : RoleUnit → RoleUnit) :
    (s.modUnit f).balancer = s.balancer := rfl
@[simp] theorem State.modUnit_conds (s : State) (f : RoleUnit → RoleUnit) :
    (s.modUnit f).conds = s.conds := rfl
@[simp] theorem State.modUnit_unit (s : State) (f : RoleUnit → RoleUnit) :
    (s.modUnit f).unit = f s.unit := rfl
@[simp] theorem State.modUnit_link (s : State) (f : RoleUnit → RoleUnit) :
    (s.modUnit f).link = s.link := rfl
@[simp] theorem State.modUnit_evalAsked (s : State) (f : RoleUnit → RoleUnit) :
    (s.modUnit f).evalAsked = s.evalAsked := rfl
@[simp] theorem State.modUnit_protMade (s : State) (f : RoleUnit → RoleUnit) :
    (s.modUnit f).protMade = s.protMade := rfl

/-! ## modLink -/

@[simp] theorem State.modLink_pending (s : State) (f : Link → Link) :
    (s.modLink f).pending = s.pending := rfl
@[simp] theorem State.modLink_held (s : State) (f : Link → Link) :
    (s.modLink f).held = s.held := rfl
@[simp] theorem State.modLink_timeBase (s : State) (f : Link → Link) :
    (s.modLink f).timeBase = s.timeBase := rfl
@[simp] theorem State.modLink_wells (s : State) (f : Link → Link) :
    (s.modLink f).wells = s.wells := rfl
@[simp] theorem State.modLink_rosters (s : State) (f : Link → Link) :
    (s.modLink f).rosters = s.rosters := rfl
@[simp] theorem State.modLink_segs (s : State) (f : Link → Link) :
    (s.modLink f).segs = s.segs := rfl
@[simp] theorem State.modLink_site (s : State) (f : Link → Link) :
    (s.modLink f).site = s.site := rfl
@[simp] theorem State.modLink_limits (s : State) (f : Link → Link) :
    (s.modLink f).limits = s.limits := rfl
@[simp] theorem State.modLink_trips (s : State) (f : Link → Link) :
    (s.modLink f).trips = s.trips := rfl
@[simp] theorem State.modLink_lines (s : State) (f : Link → Link) :
    (s.modLink f).lines = s.lines := rfl
@[simp] theorem State.modLink_balancer (s : State) (f : Link → Link) :
    (s.modLink f).balancer = s.balancer := rfl
@[simp] theorem State.modLink_conds (s : State) (f : Link → Link) :
    (s.modLink f).conds = s.conds := rfl
@[simp] theorem State.modLink_unit (s : State) (f : Link → Link) :
    (s.modLink f).unit = s.unit := rfl
@[simp] theorem State.modLink_link (s : State) (f : Link → Link) :
    (s.modLink f).link = f s.link := rfl
@[simp] theorem State.modLink_evalAsked (s : State) (f : Link → Link) :
    (s.modLink f).evalAsked = s.evalAsked := rfl
@[simp] theorem State.modLink_protMade (s : State) (f : Link → Link) :
    (s.modLink f).protMade = s.protMade := rfl

/-! ## modTrip -/

@[simp] theorem State.modTrip_pending (s : State) (t : Trip) (f : TripFilter → TripFilter) :
    (s.modTrip t f).pending = s.pending := rfl
@[simp] theorem State.modTrip_held (s : State) (t : Trip) (f : TripFilter → TripFilter) :
    (s.modTrip t f).held = s.held := rfl
@[simp] theorem State.modTrip_timeBase (s : State) (t : Trip) (f : TripFilter → TripFilter) :
    (s.modTrip t f).timeBase = s.timeBase := rfl
@[simp] theorem State.modTrip_wells (s : State) (t : Trip) (f : TripFilter → TripFilter) :
    (s.modTrip t f).wells = s.wells := rfl
@[simp] theorem State.modTrip_rosters (s : State) (t : Trip) (f : TripFilter → TripFilter) :
    (s.modTrip t f).rosters = s.rosters := rfl
@[simp] theorem State.modTrip_segs (s : State) (t : Trip) (f : TripFilter → TripFilter) :
    (s.modTrip t f).segs = s.segs := rfl
@[simp] theorem State.modTrip_site (s : State) (t : Trip) (f : TripFilter → TripFilter) :
    (s.modTrip t f).site = s.site := rfl
@[simp] theorem State.modTrip_limits (s : State) (t : Trip) (f : TripFilter → TripFilter) :
    (s.modTrip t f).limits = s.limits := rfl
@[simp] theorem State.modTrip_trips (s : State) (t : Trip) (f : TripFilter → TripFilter) :
    (s.modTrip t f).trips = s.trips.put t (f (s.trips.get t)) := rfl
@[simp] theorem State.modTrip_lines (s : State) (t : Trip) (f : TripFilter → TripFilter) :
    (s.modTrip t f).lines = s.lines := rfl
@[simp] theorem State.modTrip_balancer (s : State) (t : Trip) (f : TripFilter → TripFilter) :
    (s.modTrip t f).balancer = s.balancer := rfl
@[simp] theorem State.modTrip_conds (s : State) (t : Trip) (f : TripFilter → TripFilter) :
    (s.modTrip t f).conds = s.conds := rfl
@[simp] theorem State.modTrip_unit (s : State) (t : Trip) (f : TripFilter → TripFilter) :
    (s.modTrip t f).unit = s.unit := rfl
@[simp] theorem State.modTrip_link (s : State) (t : Trip) (f : TripFilter → TripFilter) :
    (s.modTrip t f).link = s.link := rfl
@[simp] theorem State.modTrip_evalAsked (s : State) (t : Trip) (f : TripFilter → TripFilter) :
    (s.modTrip t f).evalAsked = s.evalAsked := rfl
@[simp] theorem State.modTrip_protMade (s : State) (t : Trip) (f : TripFilter → TripFilter) :
    (s.modTrip t f).protMade = s.protMade := rfl

/-! ## setLine -/

@[simp] theorem State.setLine_pending (s : State) (l : Line) (r : LineRecord) :
    (s.setLine l r).pending = s.pending := rfl
@[simp] theorem State.setLine_held (s : State) (l : Line) (r : LineRecord) :
    (s.setLine l r).held = s.held := rfl
@[simp] theorem State.setLine_timeBase (s : State) (l : Line) (r : LineRecord) :
    (s.setLine l r).timeBase = s.timeBase := rfl
@[simp] theorem State.setLine_wells (s : State) (l : Line) (r : LineRecord) :
    (s.setLine l r).wells = s.wells := rfl
@[simp] theorem State.setLine_rosters (s : State) (l : Line) (r : LineRecord) :
    (s.setLine l r).rosters = s.rosters := rfl
@[simp] theorem State.setLine_segs (s : State) (l : Line) (r : LineRecord) :
    (s.setLine l r).segs = s.segs := rfl
@[simp] theorem State.setLine_site (s : State) (l : Line) (r : LineRecord) :
    (s.setLine l r).site = s.site := rfl
@[simp] theorem State.setLine_limits (s : State) (l : Line) (r : LineRecord) :
    (s.setLine l r).limits = s.limits := rfl
@[simp] theorem State.setLine_trips (s : State) (l : Line) (r : LineRecord) :
    (s.setLine l r).trips = s.trips := rfl
@[simp] theorem State.setLine_lines (s : State) (l : Line) (r : LineRecord) :
    (s.setLine l r).lines = s.lines.put l r := rfl
@[simp] theorem State.setLine_balancer (s : State) (l : Line) (r : LineRecord) :
    (s.setLine l r).balancer = s.balancer := rfl
@[simp] theorem State.setLine_conds (s : State) (l : Line) (r : LineRecord) :
    (s.setLine l r).conds = s.conds := rfl
@[simp] theorem State.setLine_unit (s : State) (l : Line) (r : LineRecord) :
    (s.setLine l r).unit = s.unit := rfl
@[simp] theorem State.setLine_link (s : State) (l : Line) (r : LineRecord) :
    (s.setLine l r).link = s.link := rfl
@[simp] theorem State.setLine_evalAsked (s : State) (l : Line) (r : LineRecord) :
    (s.setLine l r).evalAsked = s.evalAsked := rfl
@[simp] theorem State.setLine_protMade (s : State) (l : Line) (r : LineRecord) :
    (s.setLine l r).protMade = s.protMade := rfl

/-! ## setSite -/

@[simp] theorem State.setSite_pending (s : State) (x : SiteSettings) :
    (s.setSite x).pending = s.pending := rfl
@[simp] theorem State.setSite_held (s : State) (x : SiteSettings) :
    (s.setSite x).held = s.held := rfl
@[simp] theorem State.setSite_timeBase (s : State) (x : SiteSettings) :
    (s.setSite x).timeBase = s.timeBase := rfl
@[simp] theorem State.setSite_wells (s : State) (x : SiteSettings) :
    (s.setSite x).wells = s.wells := rfl
@[simp] theorem State.setSite_rosters (s : State) (x : SiteSettings) :
    (s.setSite x).rosters = s.rosters := rfl
@[simp] theorem State.setSite_segs (s : State) (x : SiteSettings) :
    (s.setSite x).segs = s.segs := rfl
@[simp] theorem State.setSite_site (s : State) (x : SiteSettings) :
    (s.setSite x).site = x := rfl
@[simp] theorem State.setSite_limits (s : State) (x : SiteSettings) :
    (s.setSite x).limits = s.limits := rfl
@[simp] theorem State.setSite_trips (s : State) (x : SiteSettings) :
    (s.setSite x).trips = s.trips := rfl
@[simp] theorem State.setSite_lines (s : State) (x : SiteSettings) :
    (s.setSite x).lines = s.lines := rfl
@[simp] theorem State.setSite_balancer (s : State) (x : SiteSettings) :
    (s.setSite x).balancer = s.balancer := rfl
@[simp] theorem State.setSite_conds (s : State) (x : SiteSettings) :
    (s.setSite x).conds = s.conds := rfl
@[simp] theorem State.setSite_unit (s : State) (x : SiteSettings) :
    (s.setSite x).unit = s.unit := rfl
@[simp] theorem State.setSite_link (s : State) (x : SiteSettings) :
    (s.setSite x).link = s.link := rfl
@[simp] theorem State.setSite_evalAsked (s : State) (x : SiteSettings) :
    (s.setSite x).evalAsked = s.evalAsked := rfl
@[simp] theorem State.setSite_protMade (s : State) (x : SiteSettings) :
    (s.setSite x).protMade = s.protMade := rfl

/-! ## setLimits -/

@[simp] theorem State.setLimits_pending (s : State) (x : Limits) :
    (s.setLimits x).pending = s.pending := rfl
@[simp] theorem State.setLimits_held (s : State) (x : Limits) :
    (s.setLimits x).held = s.held := rfl
@[simp] theorem State.setLimits_timeBase (s : State) (x : Limits) :
    (s.setLimits x).timeBase = s.timeBase := rfl
@[simp] theorem State.setLimits_wells (s : State) (x : Limits) :
    (s.setLimits x).wells = s.wells := rfl
@[simp] theorem State.setLimits_rosters (s : State) (x : Limits) :
    (s.setLimits x).rosters = s.rosters := rfl
@[simp] theorem State.setLimits_segs (s : State) (x : Limits) :
    (s.setLimits x).segs = s.segs := rfl
@[simp] theorem State.setLimits_site (s : State) (x : Limits) :
    (s.setLimits x).site = s.site := rfl
@[simp] theorem State.setLimits_limits (s : State) (x : Limits) :
    (s.setLimits x).limits = x := rfl
@[simp] theorem State.setLimits_trips (s : State) (x : Limits) :
    (s.setLimits x).trips = s.trips := rfl
@[simp] theorem State.setLimits_lines (s : State) (x : Limits) :
    (s.setLimits x).lines = s.lines := rfl
@[simp] theorem State.setLimits_balancer (s : State) (x : Limits) :
    (s.setLimits x).balancer = s.balancer := rfl
@[simp] theorem State.setLimits_conds (s : State) (x : Limits) :
    (s.setLimits x).conds = s.conds := rfl
@[simp] theorem State.setLimits_unit (s : State) (x : Limits) :
    (s.setLimits x).unit = s.unit := rfl
@[simp] theorem State.setLimits_link (s : State) (x : Limits) :
    (s.setLimits x).link = s.link := rfl
@[simp] theorem State.setLimits_evalAsked (s : State) (x : Limits) :
    (s.setLimits x).evalAsked = s.evalAsked := rfl
@[simp] theorem State.setLimits_protMade (s : State) (x : Limits) :
    (s.setLimits x).protMade = s.protMade := rfl

/-! ## advanceTo -/

@[simp] theorem State.advanceTo_pending (s : State) (t : Nat) :
    (s.advanceTo t).pending = s.pending := rfl
@[simp] theorem State.advanceTo_held (s : State) (t : Nat) :
    (s.advanceTo t).held = s.held := rfl
@[simp] theorem State.advanceTo_timeBase (s : State) (t : Nat) :
    (s.advanceTo t).timeBase = if s.timeBase < t then t else s.timeBase := rfl
@[simp] theorem State.advanceTo_wells (s : State) (t : Nat) :
    (s.advanceTo t).wells = s.wells := rfl
@[simp] theorem State.advanceTo_rosters (s : State) (t : Nat) :
    (s.advanceTo t).rosters = s.rosters := rfl
@[simp] theorem State.advanceTo_segs (s : State) (t : Nat) :
    (s.advanceTo t).segs = s.segs := rfl
@[simp] theorem State.advanceTo_site (s : State) (t : Nat) :
    (s.advanceTo t).site = s.site := rfl
@[simp] theorem State.advanceTo_limits (s : State) (t : Nat) :
    (s.advanceTo t).limits = s.limits := rfl
@[simp] theorem State.advanceTo_trips (s : State) (t : Nat) :
    (s.advanceTo t).trips = s.trips := rfl
@[simp] theorem State.advanceTo_lines (s : State) (t : Nat) :
    (s.advanceTo t).lines = s.lines := rfl
@[simp] theorem State.advanceTo_balancer (s : State) (t : Nat) :
    (s.advanceTo t).balancer = s.balancer := rfl
@[simp] theorem State.advanceTo_conds (s : State) (t : Nat) :
    (s.advanceTo t).conds = s.conds := rfl
@[simp] theorem State.advanceTo_unit (s : State) (t : Nat) :
    (s.advanceTo t).unit = s.unit := rfl
@[simp] theorem State.advanceTo_link (s : State) (t : Nat) :
    (s.advanceTo t).link = s.link := rfl
@[simp] theorem State.advanceTo_evalAsked (s : State) (t : Nat) :
    (s.advanceTo t).evalAsked = s.evalAsked := rfl
@[simp] theorem State.advanceTo_protMade (s : State) (t : Nat) :
    (s.advanceTo t).protMade = s.protMade := rfl

/-! ## countProt -/

@[simp] theorem State.countProt_pending (s : State) :
    (s.countProt).pending = s.pending := rfl
@[simp] theorem State.countProt_held (s : State) :
    (s.countProt).held = s.held := rfl
@[simp] theorem State.countProt_timeBase (s : State) :
    (s.countProt).timeBase = s.timeBase := rfl
@[simp] theorem State.countProt_wells (s : State) :
    (s.countProt).wells = s.wells := rfl
@[simp] theorem State.countProt_rosters (s : State) :
    (s.countProt).rosters = s.rosters := rfl
@[simp] theorem State.countProt_segs (s : State) :
    (s.countProt).segs = s.segs := rfl
@[simp] theorem State.countProt_site (s : State) :
    (s.countProt).site = s.site := rfl
@[simp] theorem State.countProt_limits (s : State) :
    (s.countProt).limits = s.limits := rfl
@[simp] theorem State.countProt_trips (s : State) :
    (s.countProt).trips = s.trips := rfl
@[simp] theorem State.countProt_lines (s : State) :
    (s.countProt).lines = s.lines := rfl
@[simp] theorem State.countProt_balancer (s : State) :
    (s.countProt).balancer = s.balancer := rfl
@[simp] theorem State.countProt_conds (s : State) :
    (s.countProt).conds = s.conds := rfl
@[simp] theorem State.countProt_unit (s : State) :
    (s.countProt).unit = s.unit := rfl
@[simp] theorem State.countProt_link (s : State) :
    (s.countProt).link = s.link := rfl
@[simp] theorem State.countProt_evalAsked (s : State) :
    (s.countProt).evalAsked = s.evalAsked := rfl
@[simp] theorem State.countProt_protMade (s : State) :
    (s.countProt).protMade = s.protMade + 1 := rfl

/-! ## askEval -/

@[simp] theorem State.askEval_pending (s : State) (l : Line) :
    (s.askEval l).pending = s.pending := rfl
@[simp] theorem State.askEval_held (s : State) (l : Line) :
    (s.askEval l).held = s.held := rfl
@[simp] theorem State.askEval_timeBase (s : State) (l : Line) :
    (s.askEval l).timeBase = s.timeBase := rfl
@[simp] theorem State.askEval_wells (s : State) (l : Line) :
    (s.askEval l).wells = s.wells := rfl
@[simp] theorem State.askEval_rosters (s : State) (l : Line) :
    (s.askEval l).rosters = s.rosters := rfl
@[simp] theorem State.askEval_segs (s : State) (l : Line) :
    (s.askEval l).segs = s.segs := rfl
@[simp] theorem State.askEval_site (s : State) (l : Line) :
    (s.askEval l).site = s.site := rfl
@[simp] theorem State.askEval_limits (s : State) (l : Line) :
    (s.askEval l).limits = s.limits := rfl
@[simp] theorem State.askEval_trips (s : State) (l : Line) :
    (s.askEval l).trips = s.trips := rfl
@[simp] theorem State.askEval_lines (s : State) (l : Line) :
    (s.askEval l).lines = s.lines := rfl
@[simp] theorem State.askEval_balancer (s : State) (l : Line) :
    (s.askEval l).balancer = s.balancer := rfl
@[simp] theorem State.askEval_conds (s : State) (l : Line) :
    (s.askEval l).conds = s.conds := rfl
@[simp] theorem State.askEval_unit (s : State) (l : Line) :
    (s.askEval l).unit = s.unit := rfl
@[simp] theorem State.askEval_link (s : State) (l : Line) :
    (s.askEval l).link = s.link := rfl
@[simp] theorem State.askEval_evalAsked (s : State) (l : Line) :
    (s.askEval l).evalAsked = s.evalAsked.put l true := rfl
@[simp] theorem State.askEval_protMade (s : State) (l : Line) :
    (s.askEval l).protMade = s.protMade := rfl

/-! ## modCounters -/

@[simp] theorem State.modCounters_pending (s : State) (g : Seg) (f : SegCounters → SegCounters) :
    (s.modCounters g f).pending = s.pending := rfl
@[simp] theorem State.modCounters_held (s : State) (g : Seg) (f : SegCounters → SegCounters) :
    (s.modCounters g f).held = s.held := rfl
@[simp] theorem State.modCounters_timeBase (s : State) (g : Seg) (f : SegCounters → SegCounters) :
    (s.modCounters g f).timeBase = s.timeBase := rfl
@[simp] theorem State.modCounters_wells (s : State) (g : Seg) (f : SegCounters → SegCounters) :
    (s.modCounters g f).wells = s.wells := rfl
@[simp] theorem State.modCounters_rosters (s : State) (g : Seg) (f : SegCounters → SegCounters) :
    (s.modCounters g f).rosters = s.rosters := rfl
@[simp] theorem State.modCounters_segs (s : State) (g : Seg) (f : SegCounters → SegCounters) :
    (s.modCounters g f).segs = s.segs.put g { s.segs.get g with counters := f (s.segs.get g).counters } := rfl
@[simp] theorem State.modCounters_site (s : State) (g : Seg) (f : SegCounters → SegCounters) :
    (s.modCounters g f).site = s.site := rfl
@[simp] theorem State.modCounters_limits (s : State) (g : Seg) (f : SegCounters → SegCounters) :
    (s.modCounters g f).limits = s.limits := rfl
@[simp] theorem State.modCounters_trips (s : State) (g : Seg) (f : SegCounters → SegCounters) :
    (s.modCounters g f).trips = s.trips := rfl
@[simp] theorem State.modCounters_lines (s : State) (g : Seg) (f : SegCounters → SegCounters) :
    (s.modCounters g f).lines = s.lines := rfl
@[simp] theorem State.modCounters_balancer (s : State) (g : Seg) (f : SegCounters → SegCounters) :
    (s.modCounters g f).balancer = s.balancer := rfl
@[simp] theorem State.modCounters_conds (s : State) (g : Seg) (f : SegCounters → SegCounters) :
    (s.modCounters g f).conds = s.conds := rfl
@[simp] theorem State.modCounters_unit (s : State) (g : Seg) (f : SegCounters → SegCounters) :
    (s.modCounters g f).unit = s.unit := rfl
@[simp] theorem State.modCounters_link (s : State) (g : Seg) (f : SegCounters → SegCounters) :
    (s.modCounters g f).link = s.link := rfl
@[simp] theorem State.modCounters_evalAsked (s : State) (g : Seg) (f : SegCounters → SegCounters) :
    (s.modCounters g f).evalAsked = s.evalAsked := rfl
@[simp] theorem State.modCounters_protMade (s : State) (g : Seg) (f : SegCounters → SegCounters) :
    (s.modCounters g f).protMade = s.protMade := rfl

/-! ## modLinkCounters -/

@[simp] theorem State.modLinkCounters_pending (s : State) (f : LinkCounters → LinkCounters) :
    (s.modLinkCounters f).pending = s.pending := rfl
@[simp] theorem State.modLinkCounters_held (s : State) (f : LinkCounters → LinkCounters) :
    (s.modLinkCounters f).held = s.held := rfl
@[simp] theorem State.modLinkCounters_timeBase (s : State) (f : LinkCounters → LinkCounters) :
    (s.modLinkCounters f).timeBase = s.timeBase := rfl
@[simp] theorem State.modLinkCounters_wells (s : State) (f : LinkCounters → LinkCounters) :
    (s.modLinkCounters f).wells = s.wells := rfl
@[simp] theorem State.modLinkCounters_rosters (s : State) (f : LinkCounters → LinkCounters) :
    (s.modLinkCounters f).rosters = s.rosters := rfl
@[simp] theorem State.modLinkCounters_segs (s : State) (f : LinkCounters → LinkCounters) :
    (s.modLinkCounters f).segs = s.segs := rfl
@[simp] theorem State.modLinkCounters_site (s : State) (f : LinkCounters → LinkCounters) :
    (s.modLinkCounters f).site = s.site := rfl
@[simp] theorem State.modLinkCounters_limits (s : State) (f : LinkCounters → LinkCounters) :
    (s.modLinkCounters f).limits = s.limits := rfl
@[simp] theorem State.modLinkCounters_trips (s : State) (f : LinkCounters → LinkCounters) :
    (s.modLinkCounters f).trips = s.trips := rfl
@[simp] theorem State.modLinkCounters_lines (s : State) (f : LinkCounters → LinkCounters) :
    (s.modLinkCounters f).lines = s.lines := rfl
@[simp] theorem State.modLinkCounters_balancer (s : State) (f : LinkCounters → LinkCounters) :
    (s.modLinkCounters f).balancer = s.balancer := rfl
@[simp] theorem State.modLinkCounters_conds (s : State) (f : LinkCounters → LinkCounters) :
    (s.modLinkCounters f).conds = s.conds := rfl
@[simp] theorem State.modLinkCounters_unit (s : State) (f : LinkCounters → LinkCounters) :
    (s.modLinkCounters f).unit = s.unit := rfl
@[simp] theorem State.modLinkCounters_link (s : State) (f : LinkCounters → LinkCounters) :
    (s.modLinkCounters f).link = { s.link with counters := f s.link.counters } := rfl
@[simp] theorem State.modLinkCounters_evalAsked (s : State) (f : LinkCounters → LinkCounters) :
    (s.modLinkCounters f).evalAsked = s.evalAsked := rfl
@[simp] theorem State.modLinkCounters_protMade (s : State) (f : LinkCounters → LinkCounters) :
    (s.modLinkCounters f).protMade = s.protMade := rfl

/-! ## Families -/

theorem PerSeg.get_put {α : Type} (p : PerSeg α) (g h : Seg) (x : α) :
    (p.put g x).get h = if h = g then x else p.get h := by cases g <;> cases h <;> rfl

@[simp] theorem PerSeg.get_put_same {α : Type} (p : PerSeg α) (g : Seg) (x : α) : (p.put g x).get g = x := by
  cases g <;> rfl

theorem PerLine.get_put {α : Type} (p : PerLine α) (g h : Line) (x : α) :
    (p.put g x).get h = if h = g then x else p.get h := by cases g <;> cases h <;> rfl

@[simp] theorem PerLine.get_put_same {α : Type} (p : PerLine α) (g : Line) (x : α) : (p.put g x).get g = x := by
  cases g <;> rfl

theorem PerTrip.get_put {α : Type} (p : PerTrip α) (g h : Trip) (x : α) :
    (p.put g x).get h = if h = g then x else p.get h := by cases g <;> cases h <;> rfl

@[simp] theorem PerTrip.get_put_same {α : Type} (p : PerTrip α) (g : Trip) (x : α) : (p.put g x).get g = x := by
  cases g <;> rfl

@[simp] theorem PerTrip.get_ofFn {α : Type} (f : Trip → α) (t : Trip) : (PerTrip.ofFn f).get t = f t := by
  cases t <;> rfl

@[simp] theorem PerTrip.ofFn_get {α : Type} (p : PerTrip α) : PerTrip.ofFn p.get = p := rfl

@[simp] theorem PerSeg.get_map {α β : Type} (f : α → β) (p : PerSeg α) (g : Seg) : (p.map f).get g = f (p.get g) := by
  cases g <;> rfl

@[simp] theorem PerSeg.get_all {α : Type} (x : α) (g : Seg) : (PerSeg.all x).get g = x := by cases g <;> rfl

@[simp] theorem PerLine.get_all {α : Type} (x : α) (l : Line) : (PerLine.all x).get l = x := by cases l <;> rfl

/-- Reading segment `h` after an update of segment `g`. -/
theorem State.seg_modSeg (s : State) (g h : Seg) (f : Segment → Segment) :
    (s.modSeg g f).seg h = if h = g then f (s.seg g) else s.seg h := PerSeg.get_put _ _ _ _

/-- Reading a well does not see an update of a segment. -/
@[simp] theorem State.well_modSeg (s : State) (g : Seg) (f : Segment → Segment) (i : Slot) :
    (s.modSeg g f).well i = s.well i := rfl

end Sys2Proof.Machine
end

