-- ==== Sys2Proof/Laws/CondLaw.lean ====
section
/-! SUPPORT. What each way of changing the Condition Controller does to its law (R107, R110, R112). -/

-- One theorem at a time: the one-text build of the package runs out of threads otherwise.
set_option Elab.async false

namespace Sys2Proof.Machine

/-- The pair of a record. -/
def CondRec.pair (r : CondRec) : CondKind × Nat := (r.kind, r.source)

theorem CondKind.idx_inj (k l : CondKind) (h : k.idx = l.idx) : k = l := by
  cases k <;> cases l <;> first | rfl | (exact absurd h (by decide))

theorem CondRec.takenBefore_iff (x y : CondRec) :
    x.takenBefore y = true ↔
      x.level < y.level ∨ (x.level = y.level ∧
        (x.source < y.source ∨ (x.source = y.source ∧ x.kind.idx.val < y.kind.idx.val))) := by
  unfold CondRec.takenBefore
  by_cases h1 : x.level = y.level
  · by_cases h2 : x.source = y.source
    · simp [h1, h2]
    · simp [h1, h2]
  · simp [h1]

theorem CondRec.takenBefore_total (x y : CondRec) (h : x.pair ≠ y.pair) :
    x.takenBefore y = true ∨ y.takenBefore x = true := by
  rw [CondRec.takenBefore_iff, CondRec.takenBefore_iff]
  by_cases h2 : x.source = y.source
  · have : x.kind.idx.val ≠ y.kind.idx.val := by
      intro e
      exact h (by simp [CondRec.pair, h2, CondKind.idx_inj _ _ (Fin.ext e)])
    omega
  · omega

theorem CondRec.takenBefore_trans (x y z : CondRec) (h1 : x.takenBefore y = true) (h2 : y.takenBefore z = true) :
    x.takenBefore z = true := by
  rw [CondRec.takenBefore_iff] at *
  omega

theorem mem_placeRec (r x : CondRec) (l : List CondRec) : x ∈ placeRec r l ↔ x = r ∨ x ∈ l := by
  induction l with
  | nil => simp [placeRec]
  | cons a t ih =>
    unfold placeRec
    split
    · simp
    · simp only [List.mem_cons, ih]; tauto

theorem perm_placeRec (r : CondRec) (l : List CondRec) : (placeRec r l).Perm (r :: l) := by
  induction l with
  | nil => exact List.Perm.refl _
  | cons a t ih =>
    unfold placeRec
    split
    · exact List.Perm.refl _
    · exact (ih.cons a).trans (List.Perm.swap _ _ _)

theorem pairwise_placeRec (r : CondRec) (l : List CondRec) (h : l.Pairwise fun a b => a.takenBefore b = true)
    (hr : r.pair ∉ l.map CondRec.pair) : (placeRec r l).Pairwise fun a b => a.takenBefore b = true := by
  induction l with
  | nil => simp [placeRec]
  | cons a t ih =>
    unfold placeRec
    have hp := List.pairwise_cons.mp h
    have hr' : r.pair ≠ a.pair ∧ r.pair ∉ t.map CondRec.pair := by simpa using hr
    split
    · rename_i hb
      refine List.pairwise_cons.mpr ⟨fun b hbm => ?_, h⟩
      rcases List.mem_cons.mp hbm with e | e
      · rw [e]; exact hb
      · exact CondRec.takenBefore_trans _ _ _ hb (hp.1 b e)
    · rename_i hb
      refine List.pairwise_cons.mpr ⟨fun b hbm => ?_, ih hp.2 hr'.2⟩
      rcases (mem_placeRec r b t).mp hbm with e | e
      · rw [e]
        rcases CondRec.takenBefore_total r a hr'.1 with q | q
        · exact absurd q hb
        · exact q
      · exact hp.1 b e

theorem perm_sortRecs (l : List CondRec) : (sortRecs l).Perm l := by
  induction l with
  | nil => exact List.Perm.refl _
  | cons a t ih => exact (perm_placeRec a (sortRecs t)).trans (ih.cons a)

theorem pairwise_sortRecs (l : List CondRec) (h : (l.map CondRec.pair).Nodup) :
    (sortRecs l).Pairwise fun a b => a.takenBefore b = true := by
  induction l with
  | nil => simp [sortRecs]
  | cons a t ih =>
    rw [List.map_cons, List.nodup_cons] at h
    refine pairwise_placeRec a (sortRecs t) (ih h.2) ?_
    rw [((perm_sortRecs t).map CondRec.pair).mem_iff]
    exact h.1

/-! ## The law -/

theorem CondLaw.mk' {c : Conditions} (h1 : ((c.waiting ++ c.stack).map CondRec.pair).Nodup)
    (h2 : ∀ k : CondKind, (c.setting k).level ≤ 7) (h3 : ∀ r ∈ c.waiting ++ c.stack, r.level ≤ 7)
    (h4 : c.waiting.Pairwise fun a b => a.takenBefore b = true) (h5 : c.stack.Pairwise fun a b => a.level < b.level) :
    CondLaw c := ⟨h1, h2, h3, h4, h5⟩

theorem CondLaw.pairs {c : Conditions} (h : CondLaw c) : ((c.waiting ++ c.stack).map CondRec.pair).Nodup := h.1

/-- Records changed in place, their pairs and levels staying. -/
theorem CondLaw.mapRecs {c : Conditions} (h : CondLaw c) (f g : CondRec → CondRec)
    (hf : ∀ r, (f r).kind = r.kind ∧ (f r).source = r.source ∧ (f r).level = r.level)
    (hg : ∀ r, (g r).kind = r.kind ∧ (g r).source = r.source ∧ (g r).level = r.level) :
    CondLaw { c with waiting := c.waiting.map f, stack := c.stack.map g } := by
  refine CondLaw.mk' ?_ h.2.1 ?_ ?_ ?_
  · have e : ((c.waiting.map f ++ c.stack.map g).map CondRec.pair) = (c.waiting ++ c.stack).map CondRec.pair := by
      rw [List.map_append, List.map_append, List.map_map, List.map_map]
      congr 1
      · exact List.map_congr_left fun r _ => by simp [CondRec.pair, (hf r).1, (hf r).2.1]
      · exact List.map_congr_left fun r _ => by simp [CondRec.pair, (hg r).1, (hg r).2.1]
    show ((c.waiting.map f ++ c.stack.map g).map CondRec.pair).Nodup
    rw [e]; exact h.1
  · intro r hr
    rcases List.mem_append.mp hr with m | m
    · obtain ⟨x, hx, rfl⟩ := List.mem_map.mp m
      rw [(hf x).2.2]; exact h.2.2.1 x (List.mem_append_left _ hx)
    · obtain ⟨x, hx, rfl⟩ := List.mem_map.mp m
      rw [(hg x).2.2]; exact h.2.2.1 x (List.mem_append_right _ hx)
  · show (c.waiting.map f).Pairwise _
    rw [List.pairwise_map]
    refine h.2.2.2.1.imp ?_
    intro a b hab
    rw [CondRec.takenBefore_iff] at *
    rw [(hf a).1, (hf a).2.1, (hf a).2.2, (hf b).1, (hf b).2.1, (hf b).2.2]
    exact hab
  · show (c.stack.map g).Pairwise _
    rw [List.pairwise_map]
    refine h.2.2.2.2.imp ?_
    intro a b hab
    rw [(hg a).2.2, (hg b).2.2]
    exact hab

/-- Pending records leaving. -/
theorem CondLaw.filterWaiting {c : Conditions} (h : CondLaw c) (p : CondRec → Bool) :
    CondLaw { c with waiting := c.waiting.filter p } := by
  refine CondLaw.mk' ?_ h.2.1 ?_ (h.2.2.2.1.filter _) h.2.2.2.2
  · exact h.1.sublist (List.Sublist.map _ (List.Sublist.append_right (List.filter_sublist) _))
  · intro r hr
    refine h.2.2.1 r ?_
    rcases List.mem_append.mp hr with m | m
    · exact List.mem_append_left _ (List.mem_filter.mp m).1
    · exact List.mem_append_right _ m

/-- The top record leaving. -/
theorem CondLaw.tailStack {c : Conditions} (h : CondLaw c) : CondLaw { c with stack := c.stack.tail } := by
  refine CondLaw.mk' ?_ h.2.1 ?_ h.2.2.2.1 ?_
  · exact h.1.sublist (List.Sublist.map _ (List.Sublist.append_left (List.tail_sublist _) _))
  · intro r hr
    refine h.2.2.1 r ?_
    rcases List.mem_append.mp hr with m | m
    · exact List.mem_append_left _ m
    · exact List.mem_append_right _ (List.mem_of_mem_tail m)
  · exact h.2.2.2.2.sublist (List.tail_sublist _)

/-- A new record of a pair that has none. -/
theorem CondLaw.place {c : Conditions} (h : CondLaw c) (r : CondRec) (hl : r.level ≤ 7)
    (hr : r.pair ∉ (c.waiting ++ c.stack).map CondRec.pair) :
    CondLaw { c with waiting := placeRec r c.waiting } := by
  have hw : r.pair ∉ c.waiting.map CondRec.pair := fun m => hr (by rw [List.map_append]; exact List.mem_append_left _ m)
  have perm : (placeRec r c.waiting ++ c.stack).Perm (r :: (c.waiting ++ c.stack)) :=
    (perm_placeRec r c.waiting).append_right _
  refine CondLaw.mk' ?_ h.2.1 ?_ (pairwise_placeRec r _ h.2.2.2.1 hw) h.2.2.2.2
  · show ((placeRec r c.waiting ++ c.stack).map CondRec.pair).Nodup
    rw [(perm.map CondRec.pair).nodup_iff, List.map_cons, List.nodup_cons]
    exact ⟨hr, h.1⟩
  · intro x hx
    rcases List.mem_cons.mp (perm.mem_iff.mp hx) with e | e
    · rw [e]; exact hl
    · exact h.2.2.1 x e

theorem CondRec.isPair_iff (r : CondRec) (k : CondKind) (src : Nat) : r.isPair k src = true ↔ r.pair = (k, src) := by
  simp [CondRec.isPair, CondRec.pair]

/-- A pair without a record. -/
theorem hasRec_false {s : State} {k : CondKind} {src : Nat} (h : ¬ s.hasRec k src = true) :
    (k, src) ∉ (s.conds.waiting ++ s.conds.stack).map CondRec.pair := by
  intro hm
  obtain ⟨r, hr, hp⟩ := List.mem_map.mp hm
  have hp' : r.isPair k src = true := (CondRec.isPair_iff r k src).mpr hp
  apply h
  unfold State.hasRec Conditions.find
  cases hw : s.conds.waiting.find? (·.isPair k src) with
  | some x => rfl
  | none =>
    rcases List.mem_append.mp hr with m | m
    · rw [List.find?_eq_none] at hw
      exact absurd hp' (hw r m)
    · show (s.conds.stack.find? (·.isPair k src)).isSome = true
      rw [List.find?_isSome]
      exact ⟨r, m, hp'⟩

/-- Taking an eligible pending record (R114). -/
theorem CondLaw.take {c : Conditions} (h : CondLaw c) (r : CondRec) (t : Nat) (hr : r ∈ c.waiting)
    (he : c.eligible r = true) :
    CondLaw { c with
      waiting := c.waiting.filter fun x => !x.isPair r.kind r.source
      stack := { r with taken := some t } :: c.stack } := by
  have hlt : ∀ x ∈ c.stack, r.level < x.level := by
    have := (Bool.and_eq_true_iff.mp he).2
    intro x hx
    simpa using List.all_eq_true.mp this x hx
  have hn := h.pairs
  rw [List.map_append, List.nodup_append] at hn
  have hws : r.pair ∉ c.stack.map CondRec.pair := by
    intro m
    exact hn.2.2 r.pair (List.mem_map_of_mem hr) r.pair m rfl
  refine CondLaw.mk' ?_ h.2.1 ?_ (h.2.2.2.1.filter _) ?_
  · show ((c.waiting.filter _ ++ { r with taken := some t } :: c.stack).map CondRec.pair).Nodup
    rw [List.map_append, List.map_cons, List.nodup_append, List.nodup_cons]
    refine ⟨hn.1.sublist (List.filter_sublist.map _), ⟨hws, hn.2.1⟩, ?_⟩
    intro a ha b hb
    obtain ⟨x, hx, rfl⟩ := List.mem_map.mp ha
    have hx' := List.mem_filter.mp hx
    rcases List.mem_cons.mp hb with e | e
    · rw [e]
      intro e'
      have : x.isPair r.kind r.source = true := (CondRec.isPair_iff _ _ _).mpr e'
      simp [this] at hx'
    · exact hn.2.2 _ (List.mem_map_of_mem hx'.1) _ e
  · intro x hx
    rcases List.mem_append.mp hx with m | m
    · exact h.2.2.1 x (List.mem_append_left _ (List.mem_filter.mp m).1)
    · rcases List.mem_cons.mp m with e | e
      · rw [e]; exact h.2.2.1 r (List.mem_append_left _ hr)
      · exact h.2.2.1 x (List.mem_append_right _ e)
  · show ({ r with taken := some t } :: c.stack).Pairwise _
    rw [List.pairwise_cons]
    exact ⟨hlt, h.2.2.2.2⟩

/-- A kind's level and mask written, its pending records at the new level (R105). -/
theorem CondLaw.setKind {c : Conditions} (h : CondLaw c) (k : CondKind) (x : KindSetting) (hx : x.level ≤ 7) :
    CondLaw { c with
      kinds := c.kinds.set k.idx.val x k.idx.isLt
      waiting := sortRecs (c.waiting.map fun r => if r.kind = k then { r with level := x.level } else r) } := by
  set f : CondRec → CondRec := fun r => if r.kind = k then { r with level := x.level } else r with hf
  have hp : ∀ r, (f r).pair = r.pair := by
    intro r
    simp only [hf]
    split <;> rfl
  have hmap : (c.waiting.map f).map CondRec.pair = c.waiting.map CondRec.pair := by
    rw [List.map_map]
    exact List.map_congr_left fun r _ => hp r
  have hn := h.pairs
  have hwn : ((c.waiting.map f).map CondRec.pair).Nodup := by
    rw [hmap]
    rw [List.map_append, List.nodup_append] at hn
    exact hn.1
  refine CondLaw.mk' ?_ ?_ ?_ (pairwise_sortRecs _ hwn) h.2.2.2.2
  · show ((sortRecs (c.waiting.map f) ++ c.stack).map CondRec.pair).Nodup
    have perm := (((perm_sortRecs (c.waiting.map f)).append_right c.stack).map CondRec.pair)
    rw [perm.nodup_iff, List.map_append, hmap, ← List.map_append]
    exact hn
  · intro l
    show ((c.kinds.set k.idx.val x k.idx.isLt)[l.idx.val]).level ≤ 7
    rw [Vector.getElem_set]
    split
    · exact hx
    · exact h.2.1 l
  · intro r hr
    rcases List.mem_append.mp hr with m | m
    · have m' := (perm_sortRecs _).mem_iff.mp m
      obtain ⟨y, hy, rfl⟩ := List.mem_map.mp m'
      simp only [hf]
      split
      · exact hx
      · exact h.2.2.1 y (List.mem_append_left _ hy)
    · exact h.2.2.1 r (List.mem_append_right _ m)

/-- No more than eight conditions are in service (R112). -/
theorem CondLaw.depth {c : Conditions} (h : CondLaw c) : c.stack.length ≤ 8 := by
  have h5 := h.2.2.2.2
  have h3 : ∀ r ∈ c.stack, r.level ≤ 7 := fun r hr => h.2.2.1 r (List.mem_append_right _ hr)
  have hn : (c.stack.map (·.level)).Nodup := by
    unfold List.Nodup
    rw [List.pairwise_map]
    exact h5.imp fun hab => Nat.ne_of_lt hab
  have hs : c.stack.map (·.level) ⊆ List.range 8 := by
    intro n hm
    obtain ⟨r, hr, rfl⟩ := List.mem_map.mp hm
    rw [List.mem_range]
    exact Nat.lt_succ_of_le (h3 r hr)
  have := (List.subperm_of_subset hn hs).length_le
  simpa using this

end Sys2Proof.Machine
end

