-- ==== Sys2Proof/Laws/QueueLaw.lean ====
section
/-! SUPPORT. What each way of changing a queue does to its law (R153). -/

-- One theorem at a time: the one-text build of the package runs out of threads otherwise.
set_option Elab.async false

namespace Sys2Proof.Machine

theorem QueueLaw.nil : QueueLaw [] := by simp [QueueLaw]

theorem QueueLaw.filter {q : List Entry} (h : QueueLaw q) (p : Entry → Bool) : QueueLaw (q.filter p) :=
  ⟨(List.length_filter_le p q).trans h.1, h.2.1.sublist (List.filter_sublist.map _), h.2.2.filter _⟩

theorem QueueLaw.dropSlot {q : List Entry} (h : QueueLaw q) (i : Slot) : QueueLaw (dropSlot i q) := h.filter _

/-- Entries changed in place, some of them leaving, their slots and groups staying. -/
theorem QueueLaw.filterMap {q : List Entry} (h : QueueLaw q) (f : Entry → Option Entry)
    (hf : ∀ e e', f e = some e' → e'.slot = e.slot ∧ e'.isProt = e.isProt) : QueueLaw (q.filterMap f) := by
  refine ⟨(List.length_filterMap_le f q).trans h.1, ?_, ?_⟩
  · have h1 := h.2.1
    unfold List.Nodup at *
    rw [List.pairwise_map] at *
    rw [List.pairwise_filterMap]
    refine h1.imp ?_
    intro a b hab a' ha b' hb
    rw [(hf _ _ ha).1, (hf _ _ hb).1]
    exact hab
  · rw [List.pairwise_filterMap]
    refine h.2.2.imp ?_
    intro a b hab a' ha b' hb
    rw [(hf _ _ ha).2, (hf _ _ hb).2]
    exact hab

/-- Entries changed in place, their slots and groups staying. -/
theorem QueueLaw.map {q : List Entry} (h : QueueLaw q) (f : Entry → Entry)
    (hf : ∀ e ∈ q, (f e).slot = e.slot ∧ (f e).isProt = e.isProt) : QueueLaw (q.map f) := by
  refine ⟨by rw [List.length_map]; exact h.1, ?_, ?_⟩
  · have : (q.map f).map (·.slot) = q.map (·.slot) := by
      rw [List.map_map]
      exact List.map_congr_left fun e he => (hf e he).1
    rw [this]; exact h.2.1
  · rw [List.pairwise_map]
    refine List.Pairwise.imp_of_mem ?_ h.2.2
    intro a b ha hb hab
    rw [(hf a ha).2, (hf b hb).2]
    exact hab

theorem QueueLaw.replaceSlot {q : List Entry} (h : QueueLaw q) (i : Slot) (e : Entry) (hi : e.slot = i)
    (hp : ∀ x ∈ q, x.slot = i → x.isProt = e.isProt) : QueueLaw (replaceSlot i e q) := by
  refine h.map _ fun x hx => ?_
  by_cases c : x.slot = i
  · rw [if_pos c]; exact ⟨hi.trans c.symm, (hp x hx c).symm⟩
  · rw [if_neg c]; exact ⟨rfl, rfl⟩

theorem slot_mem_joinProt (e : Entry) (q : List Entry) : (joinProt e q).Perm (e :: q) := by
  unfold joinProt
  refine (List.perm_middle).trans ?_
  rw [List.takeWhile_append_dropWhile]

/-- A protective entry of a slot without one joins the end of the protective group. -/
theorem QueueLaw.joinProt {q : List Entry} (h : QueueLaw q) (e : Entry) (hp : e.isProt = true)
    (hl : q.length < Config.queueCap) (hs : e.slot ∉ q.map (·.slot)) : QueueLaw (joinProt e q) := by
  have perm := slot_mem_joinProt e q
  refine ⟨?_, ?_, ?_⟩
  · rw [perm.length_eq]; simpa using hl
  · have : ((Sys2Proof.Machine.joinProt e q).map (·.slot)).Perm ((e :: q).map (·.slot)) := perm.map _
    rw [this.nodup_iff, List.map_cons, List.nodup_cons]
    exact ⟨hs, h.2.1⟩
  · unfold Sys2Proof.Machine.joinProt
    have hq := h.2.2
    rw [← List.takeWhile_append_dropWhile (p := (·.isProt)) (l := q), List.pairwise_append] at hq
    have htake : ∀ a ∈ q.takeWhile (·.isProt), a.isProt = true := fun a ha => by
      simpa using List.mem_takeWhile_imp ha
    rw [List.pairwise_append]
    refine ⟨hq.1, ?_, ?_⟩
    · rw [List.pairwise_cons]
      exact ⟨fun b _ _ => hp, hq.2.1⟩
    · intro a ha b hb
      exact fun _ => htake a ha

/-- A non-protective entry of a slot without one joins the end. -/
theorem QueueLaw.append {q : List Entry} (h : QueueLaw q) (e : Entry) (hp : e.isProt = false)
    (hl : q.length < Config.queueCap) (hs : e.slot ∉ q.map (·.slot)) : QueueLaw (q ++ [e]) := by
  refine ⟨by simpa using hl, ?_, ?_⟩
  · rw [List.map_append, List.nodup_append]
    refine ⟨h.2.1, by simp, ?_⟩
    intro a ha b hb
    simp only [List.map_cons, List.map_nil, List.mem_singleton] at hb
    rw [hb]
    exact fun e' => hs (e' ▸ ha)
  · rw [List.pairwise_append]
    refine ⟨h.2.2, by simp, ?_⟩
    intro a _ b hb
    rw [List.mem_singleton] at hb
    rw [hb, hp]
    simp

theorem QueueLaw.tail {q : List Entry} (h : QueueLaw q) : QueueLaw q.tail := by
  cases q with
  | nil => exact h
  | cons a r =>
    refine ⟨by have := h.1; simp at this ⊢; omega, ?_, ?_⟩
    · have h1 := h.2.1
      rw [List.map_cons, List.nodup_cons] at h1
      exact h1.2
    · exact (List.pairwise_cons.mp h.2.2).2

/-- A slot without an entry. -/
theorem Segment.entryOf_none {q : Segment} {i : Slot} (h : q.entryOf i = none) : i ∉ q.queue.map (·.slot) := by
  unfold Segment.entryOf at h
  rw [List.find?_eq_none] at h
  intro hm
  obtain ⟨e, he, hi⟩ := List.mem_map.mp hm
  exact h e he (by simp [hi])

/-- The entry of a slot. -/
theorem Segment.entryOf_some {q : Segment} {i : Slot} {e : Entry} (h : q.entryOf i = some e) :
    e ∈ q.queue ∧ e.slot = i :=
  ⟨List.mem_of_find?_eq_some h, by simpa using List.find?_some h⟩

/-- With at most one entry per well, every entry of a slot is the one found. -/
theorem QueueLaw.unique {q : List Entry} (h : QueueLaw q) {x y : Entry} (hx : x ∈ q) (hy : y ∈ q)
    (hs : x.slot = y.slot) : x = y := by
  have := h.2.1
  exact List.inj_on_of_nodup_map this hx hy hs

/-- A slot dropped from the queue is not in it. -/
theorem not_mem_dropSlot (i : Slot) (q : List Entry) : i ∉ (dropSlot i q).map (·.slot) := by
  simp [dropSlot]

end Sys2Proof.Machine
end

