-- ==== Sys2Proof/Laws/Rosters.lean ====
section
/-! SUPPORT. The order of R18 is a strict total order, and writing a record keeps the roster law (R17, R18). -/

-- One theorem at a time: the one-text build of the package runs out of threads otherwise.
set_option Elab.async false

namespace Sys2Proof.Machine

/-! ## Reading after a write -/

theorem putWell_well (s : State) (i j : Slot) (w : Option Well) :
    (putWell s i w).well j = if j = i then w else s.well j := by
  have key : (s.wells.set i.val w i.isLt)[j.val] = if j = i then w else s.wells[j.val] := by
    rw [Vector.getElem_set]
    by_cases h : j = i
    · subst h; simp
    · have : i.val ≠ j.val := fun e => h (Fin.ext e.symm)
      simp [h, this]
  have : (putWell s i w).wells = s.wells.set i.val w i.isLt := by
    unfold putWell State.askEvalOf
    simp only
    split
    · rfl
    · cases rosterLine (s.well i) <;> cases rosterLine w <;> rfl
  unfold State.well
  rw [this]
  exact key

theorem putWell_rosters (s : State) (i : Slot) (w : Option Well) :
    (putWell s i w).rosters =
      ⟨placeRoster (s.wells.set i.val w i.isLt) i .engine s.rosters.engine,
        placeRoster (s.wells.set i.val w i.isLt) i .flare s.rosters.flare⟩ := by
  unfold putWell State.askEvalOf
  simp only
  split
  · rfl
  · cases rosterLine (s.well i) <;> cases rosterLine w <;> rfl

theorem putWell_wells (s : State) (i : Slot) (w : Option Well) :
    (putWell s i w).wells = s.wells.set i.val w i.isLt := by
  unfold putWell State.askEvalOf
  simp only
  split
  · rfl
  · cases rosterLine (s.well i) <;> cases rosterLine w <;> rfl

/-- What writing a record leaves alone: everything but the records, the rosters and the evaluations asked for. -/
theorem putWell_frame (s : State) (i : Slot) (w : Option Well) :
    putWell s i w =
      { s with
        wells := (putWell s i w).wells
        rosters := (putWell s i w).rosters
        evalAsked := (putWell s i w).evalAsked } := by
  unfold putWell State.askEvalOf
  simp only
  split
  · rfl
  · cases rosterLine (s.well i) <;> cases rosterLine w <;> rfl

/-! ## The order of R18 -/

theorem leanBefore_irrefl (x : Option GasBlock) (i : Slot) : leanBefore x i x i = false := by
  cases x <;> simp [leanBefore]

theorem leanBefore_total (x y : Option GasBlock) (i j : Slot) (h : i ≠ j) :
    leanBefore x i y j = true ∨ leanBefore y j x i = true := by
  have hij : i < j ∨ j < i := lt_or_gt_of_ne h
  cases x with
  | none => cases y <;> simp [leanBefore, hij]
  | some p =>
    cases y with
    | none => simp [leanBefore]
    | some q =>
      simp only [leanBefore]
      by_cases h1 : p.ch4 = q.ch4
      · by_cases h2 : p.o2 = q.o2
        · simp [h1, h2, hij]
        · have h2' : ¬ q.o2 = p.o2 := fun e => h2 e.symm
          simp only [h1, h2, h2', if_true, if_false, decide_eq_true_eq]
          omega
      · have h1' : ¬ q.ch4 = p.ch4 := fun e => h1 e.symm
        simp only [h1, h1', if_false, decide_eq_true_eq]
        omega

theorem leanBefore_some (p q : GasBlock) (i j : Slot) :
    leanBefore (some p) i (some q) j = true ↔
      p.ch4 < q.ch4 ∨ (p.ch4 = q.ch4 ∧ (q.o2 < p.o2 ∨ (q.o2 = p.o2 ∧ i.val < j.val))) := by
  simp only [leanBefore]
  by_cases h1 : p.ch4 = q.ch4
  · by_cases h2 : p.o2 = q.o2
    · simp [h1, h2]
    · have h2' : ¬ q.o2 = p.o2 := fun e => h2 e.symm
      simp [h1, h2, h2']
  · simp [h1]

theorem leanBefore_trans (x y z : Option GasBlock) (i j k : Slot) (h1 : leanBefore x i y j = true)
    (h2 : leanBefore y j z k = true) : leanBefore x i z k = true := by
  cases x with
  | none =>
    cases y with
    | some _ => simp [leanBefore] at h1
    | none =>
      cases z with
      | some _ => simp [leanBefore] at h2
      | none =>
        simp only [leanBefore, decide_eq_true_eq, Fin.lt_def] at *
        omega
  | some p =>
    cases y with
    | none =>
      cases z with
      | some _ => simp [leanBefore] at h2
      | none => simp [leanBefore]
    | some q =>
      cases z with
      | none => simp [leanBefore]
      | some r =>
        rw [leanBefore_some] at *
        omega

theorem leanOrder_total (wells : Vector (Option Well) 96) (i j : Slot) (h : i ≠ j) :
    leanOrder wells i j = true ∨ leanOrder wells j i = true := leanBefore_total _ _ _ _ h

theorem leanOrder_trans (wells : Vector (Option Well) 96) (i j k : Slot) (h1 : leanOrder wells i j = true)
    (h2 : leanOrder wells j k = true) : leanOrder wells i k = true := leanBefore_trans _ _ _ _ _ _ h1 h2

/-! ## Placing a slot -/

theorem mem_placeOn (before : Slot → Slot → Bool) (i j : Slot) (l : List Slot) :
    j ∈ placeOn before i l ↔ j = i ∨ j ∈ l := by
  induction l with
  | nil => simp [placeOn]
  | cons a r ih =>
    unfold placeOn
    split
    · simp
    · simp only [List.mem_cons, ih]; tauto

theorem nodup_placeOn (before : Slot → Slot → Bool) (i : Slot) (l : List Slot) (h : l.Nodup) (hi : i ∉ l) :
    (placeOn before i l).Nodup := by
  induction l with
  | nil => simp [placeOn]
  | cons a r ih =>
    unfold placeOn
    have ha : a ∉ r := (List.nodup_cons.mp h).1
    have hr : r.Nodup := (List.nodup_cons.mp h).2
    have hi' : i ≠ a ∧ i ∉ r := by simpa using hi
    split
    · exact List.nodup_cons.mpr ⟨hi, h⟩
    · refine List.nodup_cons.mpr ⟨?_, ih hr hi'.2⟩
      rw [mem_placeOn]
      rintro (e | e)
      · exact hi'.1 e.symm
      · exact ha e

theorem pairwise_placeOn (before : Slot → Slot → Bool)
    (total : ∀ i j, i ≠ j → before i j = true ∨ before j i = true)
    (trans : ∀ i j k, before i j = true → before j k = true → before i k = true)
    (i : Slot) (l : List Slot) (h : l.Pairwise fun a b => before a b = true) (hi : i ∉ l) :
    (placeOn before i l).Pairwise fun a b => before a b = true := by
  induction l with
  | nil => simp [placeOn]
  | cons a r ih =>
    unfold placeOn
    have hp := List.pairwise_cons.mp h
    have hi' : i ≠ a ∧ i ∉ r := by simpa using hi
    split
    · rename_i hb
      refine List.pairwise_cons.mpr ⟨fun b hbm => ?_, h⟩
      rcases List.mem_cons.mp hbm with e | e
      · rw [e]; exact hb
      · exact trans _ _ _ hb (hp.1 b e)
    · rename_i hb
      refine List.pairwise_cons.mpr ⟨fun b hbm => ?_, ih hp.2 hi'.2⟩
      rcases (mem_placeOn before i b r).mp hbm with e | e
      · rw [e]
        rcases total i a hi'.1 with t | t
        · exact absurd t hb
        · exact t
      · exact hp.1 b e

/-- Writing one record keeps the roster law. -/
theorem putWell_rosterLaw (s : State) (i : Slot) (w : Option Well) (h : RosterLaw s) : RosterLaw (putWell s i w) := by
  intro l
  obtain ⟨hn, hm, hp⟩ := h l
  have hr : (putWell s i w).rosters.get l = placeRoster (s.wells.set i.val w i.isLt) i l (s.rosters.get l) := by
    rw [putWell_rosters]; cases l <;> rfl
  have hw : (s.wells.set i.val w i.isLt)[i.val] = w := by simp
  have hset : ∀ j : Slot, j ≠ i → (s.wells.set i.val w i.isLt)[j.val] = s.wells[j.val] := by
    intro j hj
    rw [Vector.getElem_set]
    have : i.val ≠ j.val := fun e => hj (Fin.ext e.symm)
    simp [this]
  rw [hr, putWell_wells]
  unfold placeRoster
  simp only [hw]
  set others := (s.rosters.get l).filter fun j => !decide (j = i) with ho
  have on : others.Nodup := hn.filter _
  have oi : i ∉ others := by simp [ho]
  have om : ∀ j, j ∈ others ↔ j ∈ s.rosters.get l ∧ j ≠ i := by intro j; simp [ho]
  have op : others.Pairwise fun a b => leanOrder (s.wells.set i.val w i.isLt) a b = true := by
    have h1 : others.Pairwise fun a b => leanOrder s.wells a b = true := hp.filter _
    refine List.Pairwise.imp_of_mem ?_ h1
    intro a b ha hb hab
    have ha' := ((om a).mp ha).2
    have hb' := ((om b).mp hb).2
    unfold leanOrder at *
    rw [hset a ha', hset b hb']
    exact hab
  by_cases hc : rosterLine w = some l
  · simp only [hc, if_true]
    refine ⟨nodup_placeOn _ _ _ on oi, fun j => ?_,
      pairwise_placeOn _ (leanOrder_total _) (leanOrder_trans _) _ _ op oi⟩
    rw [mem_placeOn, putWell_well, om, hm]
    by_cases e : j = i
    · simp [e, hc]
    · simp [e]
  · simp only [hc, if_false]
    refine ⟨on, fun j => ?_, op⟩
    rw [putWell_well, om, hm]
    by_cases e : j = i
    · simp [e, hc]
    · simp [e]

end Sys2Proof.Machine
end

