-- ==== Sys2Proof/Laws/Keeps.lean ====
section
/-! SUPPORT. What every shared operation keeps, said once: `Keeps s t` tells what an operation of the blocks below the commands
leaves alone (the commands that wait, RESET, settings and limits, the strap, the link but for its uplink queues, the configuration of
every well) and that it keeps the manual's laws. One lemma per operation follows. -/

-- One theorem at a time: the one-text build of the package runs out of threads otherwise.
set_option Elab.async false

namespace Sys2Proof.Machine

variable {d : Prop}

/-- What the operations of the blocks keep. -/
structure Keeps (s t : State) : Prop where
  pending : t.pending = s.pending
  held : t.held = s.held
  site : t.site = s.site
  limits : t.limits = s.limits
  kinds : t.conds.kinds = s.conds.kinds
  settings : ∀ g, (t.seg g).settings = (s.seg g).settings
  strap : t.unit.strapHigh = s.unit.strapHigh
  buffer : t.link.buffer = s.link.buffer
  reserved : t.link.reserved = s.link.reserved
  unlocked : t.link.unlocked = s.link.unlocked
  mode : t.link.mode = s.link.mode
  cfg : ∀ j, (t.well j).map (·.cfg) = (s.well j).map (·.cfg)
  linkLaw : LinkLaw s.link → LinkLaw t.link
  rosterLaw : RosterLaw s → RosterLaw t
  queuesLaw : QueuesLaw s → QueuesLaw t
  condLaw : CondLaw s.conds → CondLaw t.conds
  roleLaw : RoleLaw s.unit → RoleLaw t.unit

theorem Keeps.refl (s : State) : Keeps s s :=
  ⟨rfl, rfl, rfl, rfl, rfl, fun _ => rfl, rfl, rfl, rfl, rfl, rfl, fun _ => rfl, id, id, id, id, id⟩

theorem Keeps.trans {s t u : State} (a : Keeps s t) (b : Keeps t u) : Keeps s u where
  pending := b.pending.trans a.pending
  held := b.held.trans a.held
  site := b.site.trans a.site
  limits := b.limits.trans a.limits
  kinds := b.kinds.trans a.kinds
  settings := fun g => (b.settings g).trans (a.settings g)
  strap := b.strap.trans a.strap
  buffer := b.buffer.trans a.buffer
  reserved := b.reserved.trans a.reserved
  unlocked := b.unlocked.trans a.unlocked
  mode := b.mode.trans a.mode
  cfg := fun j => (b.cfg j).trans (a.cfg j)
  linkLaw := b.linkLaw ∘ a.linkLaw
  rosterLaw := b.rosterLaw ∘ a.rosterLaw
  queuesLaw := b.queuesLaw ∘ a.queuesLaw
  condLaw := b.condLaw ∘ a.condLaw
  roleLaw := b.roleLaw ∘ a.roleLaw

/-- The addresses stay unique, since no configuration changes (R3). -/
theorem Keeps.addressLaw {s t : State} (k : Keeps s t) (h : AddressLaw s) : AddressLaw t := by
  intro i j w v hw hv e
  have hi := k.cfg i
  have hj := k.cfg j
  rw [hw] at hi
  rw [hv] at hj
  cases hwi : s.well i with
  | none => rw [hwi] at hi; simp at hi
  | some w' =>
    cases hvj : s.well j with
    | none => rw [hvj] at hj; simp at hj
    | some v' =>
      rw [hwi] at hi
      rw [hvj] at hj
      simp only [Option.map_some, Option.some.injEq] at hi hj
      exact h i j w' v' hwi hvj (by rw [← hi, ← hj]; exact e)

/-! ## The leaves -/

/-- An operation that touches none of the parts the laws speak of. -/
theorem Keeps.quiet {s t : State} (pending : t.pending = s.pending) (held : t.held = s.held) (site : t.site = s.site)
    (limits : t.limits = s.limits) (unit : t.unit = s.unit) (link : t.link = s.link) (wells : t.wells = s.wells)
    (rosters : t.rosters = s.rosters) (conds : t.conds = s.conds)
    (queues : ∀ g, QueueLaw (s.seg g).queue → QueueLaw (t.seg g).queue)
    (settings : ∀ g, (t.seg g).settings = (s.seg g).settings := by intro _; rfl) : Keeps s t where
  pending := pending
  held := held
  site := site
  limits := limits
  kinds := by rw [conds]
  settings := settings
  strap := by rw [unit]
  buffer := by rw [link]
  reserved := by rw [link]
  unlocked := by rw [link]
  mode := by rw [link]
  cfg := fun j => by unfold State.well; rw [wells]
  linkLaw := by rw [link]; exact id
  rosterLaw := by
    intro h l
    have := h l
    unfold State.well at *
    rw [wells, rosters]
    exact this
  queuesLaw := fun h g => queues g (h g)
  condLaw := by rw [conds]; exact id
  roleLaw := by rw [unit]; exact id

/-- An update of one segment that keeps its queue's law. -/
theorem Keeps.modSeg (s : State) (g : Seg) (f : Segment → Segment)
    (h : QueueLaw (s.seg g).queue → QueueLaw (f (s.seg g)).queue)
    (hs : ∀ q, (f q).settings = q.settings := by intro _; rfl) : Keeps s (s.modSeg g f) :=
  Keeps.quiet rfl rfl rfl rfl rfl rfl rfl rfl rfl
    (fun k => by
      rw [State.seg_modSeg]
      split
      · rename_i e; rw [e]; exact h
      · exact id)
    (fun k => by
      rw [State.seg_modSeg]
      split
      · rename_i e; rw [e]; exact hs _
      · rfl)

/-- An update of one segment that leaves its queue. -/
theorem Keeps.modSeg' (s : State) (g : Seg) (f : Segment → Segment) (h : ∀ q, (f q).queue = q.queue)
    (hs : ∀ q, (f q).settings = q.settings := by intro _; rfl) : Keeps s (s.modSeg g f) :=
  Keeps.modSeg s g f (by rw [h]; exact id) hs

theorem keeps_modCounters (s : State) (g : Seg) (f : SegCounters → SegCounters) : Keeps s (s.modCounters g f) :=
  Keeps.modSeg' _ _ _ fun _ => rfl

theorem keeps_modBalancer (s : State) (f : Balancer → Balancer) : Keeps s (s.modBalancer f) :=
  Keeps.quiet rfl rfl rfl rfl rfl rfl rfl rfl rfl fun _ => id

theorem keeps_modTrip (s : State) (t : Trip) (f : TripFilter → TripFilter) : Keeps s (s.modTrip t f) :=
  Keeps.quiet rfl rfl rfl rfl rfl rfl rfl rfl rfl fun _ => id

theorem keeps_setLine (s : State) (l : Line) (r : LineRecord) : Keeps s (s.setLine l r) :=
  Keeps.quiet rfl rfl rfl rfl rfl rfl rfl rfl rfl fun _ => id

theorem keeps_advanceTo (s : State) (t : Nat) : Keeps s (s.advanceTo t) :=
  Keeps.quiet rfl rfl rfl rfl rfl rfl rfl rfl rfl fun _ => id

theorem keeps_countProt (s : State) : Keeps s s.countProt :=
  Keeps.quiet rfl rfl rfl rfl rfl rfl rfl rfl rfl fun _ => id

theorem keeps_askEval (s : State) (l : Line) : Keeps s (s.askEval l) :=
  Keeps.quiet rfl rfl rfl rfl rfl rfl rfl rfl rfl fun _ => id

theorem keeps_askEvalOf (s : State) (o : Option Line) : Keeps s (s.askEvalOf o) := by
  cases o
  · exact Keeps.refl s
  · exact keeps_askEval _ _

theorem keeps_evalAsked (s : State) (x : PerLine Bool) : Keeps s { s with evalAsked := x } :=
  Keeps.quiet rfl rfl rfl rfl rfl rfl rfl rfl rfl fun _ => id

theorem keeps_trips (s : State) (x : PerTrip TripFilter) : Keeps s { s with trips := x } :=
  Keeps.quiet rfl rfl rfl rfl rfl rfl rfl rfl rfl fun _ => id

/-- An update of the conditions that keeps their law. -/
theorem Keeps.modConds (s : State) (f : Conditions → Conditions) (h : CondLaw s.conds → CondLaw (f s.conds))
    (hk : (f s.conds).kinds = s.conds.kinds := by rfl) : Keeps s (s.modConds f) where
  pending := rfl
  held := rfl
  site := rfl
  limits := rfl
  kinds := hk
  settings := fun _ => rfl
  strap := rfl
  buffer := rfl
  reserved := rfl
  unlocked := rfl
  mode := rfl
  cfg := fun _ => rfl
  linkLaw := id
  rosterLaw := id
  queuesLaw := id
  condLaw := h
  roleLaw := id

/-- An update of the Role Unit that keeps its law and the strap. -/
theorem Keeps.modUnit (s : State) (f : RoleUnit → RoleUnit) (hs : (f s.unit).strapHigh = s.unit.strapHigh)
    (h : RoleLaw s.unit → RoleLaw (f s.unit)) : Keeps s (s.modUnit f) where
  pending := rfl
  held := rfl
  site := rfl
  limits := rfl
  kinds := rfl
  settings := fun _ => rfl
  strap := hs
  buffer := rfl
  reserved := rfl
  unlocked := rfl
  mode := rfl
  cfg := fun _ => rfl
  linkLaw := id
  rosterLaw := id
  queuesLaw := id
  condLaw := id
  roleLaw := h

/-! ## The link -/

theorem LinkLaw.pump {k : Link} (h : LinkLaw k) : LinkLaw k.pump := by
  unfold Link.pump
  split
  · exact h
  · split
    · rename_i hu
      refine ⟨?_, h.2.1, h.2.2⟩
      have := h.1
      rw [hu] at this
      simp at this ⊢
      omega
    · split
      · rename_i hr
        refine ⟨h.1, ?_, h.2.2⟩
        have := h.2.1
        unfold Link.routineFill at *
        rw [hr] at this
        simp at this ⊢
        omega
      · exact h

/-- Taking a frame from a queue touches the queues and the transmitter alone. -/
theorem Link.pump_frame (k : Link) :
    k.pump.buffer = k.buffer ∧ k.pump.reserved = k.reserved ∧ k.pump.unlocked = k.unlocked ∧ k.pump.mode = k.mode ∧
      k.pump.counters = k.counters := by
  unfold Link.pump
  split
  · simp
  · split
    · simp
    · split <;> simp

theorem LinkLaw.offerRoutine {k : Link} (h : LinkLaw k) (f : Uplink) : LinkLaw (k.offerRoutine f) := by
  unfold Link.offerRoutine
  split
  · rename_i hl
    refine LinkLaw.pump ⟨h.1, ?_, h.2.2⟩
    unfold Link.routineFill at *
    simp at hl ⊢
    omega
  · exact h

theorem LinkLaw.offerUrgent {k : Link} (h : LinkLaw k) (f : Uplink) : LinkLaw (k.offerUrgent f) := by
  unfold Link.offerUrgent
  split
  · rename_i hl
    refine LinkLaw.pump ⟨?_, h.2.1, h.2.2⟩
    simpa using hl
  · exact h

/-- An update of the link that keeps its law and all but the uplink queues, the transmitter and the counters. -/
theorem Keeps.modLink (s : State) (f : Link → Link)
    (hf : (f s.link).buffer = s.link.buffer ∧ (f s.link).reserved = s.link.reserved ∧
      (f s.link).unlocked = s.link.unlocked ∧ (f s.link).mode = s.link.mode)
    (h : LinkLaw s.link → LinkLaw (f s.link)) : Keeps s (s.modLink f) where
  pending := rfl
  held := rfl
  site := rfl
  limits := rfl
  kinds := rfl
  settings := fun _ => rfl
  strap := rfl
  buffer := hf.1
  reserved := hf.2.1
  unlocked := hf.2.2.1
  mode := hf.2.2.2
  cfg := fun _ => rfl
  linkLaw := h
  rosterLaw := id
  queuesLaw := id
  condLaw := id
  roleLaw := id

theorem keeps_offerRoutine (f : Uplink) (s : State) : Keeps s (offerRoutine f s) := by
  refine Keeps.modLink s _ ?_ fun h => h.offerRoutine f
  show (s.link.offerRoutine f).buffer = _ ∧ _
  unfold Link.offerRoutine
  split
  · have := Link.pump_frame { s.link with routine := s.link.routine ++ [f] }
    exact ⟨this.1, this.2.1, this.2.2.1, this.2.2.2.1⟩
  · exact ⟨rfl, rfl, rfl, rfl⟩

theorem keeps_offerUrgent (f : Uplink) (s : State) : Keeps s (offerUrgent f s) := by
  refine Keeps.modLink s _ ?_ fun h => h.offerUrgent f
  show (s.link.offerUrgent f).buffer = _ ∧ _
  unfold Link.offerUrgent
  split
  · have := Link.pump_frame { s.link with urgent := s.link.urgent ++ [f] }
    exact ⟨this.1, this.2.1, this.2.2.1, this.2.2.2.1⟩
  · exact ⟨rfl, rfl, rfl, rfl⟩

/-! ## The Well Table -/

/-- Writing a record of the same configuration. -/
theorem keeps_putWell (s : State) (i : Slot) (w : Option Well) (h : w.map (·.cfg) = (s.well i).map (·.cfg)) :
    Keeps s (putWell s i w) := by
  have e := putWell_frame s i w
  constructor
  · rw [e]
  · rw [e]
  · rw [e]
  · rw [e]
  · rw [e]
  · intro g
    have : (putWell s i w).segs = s.segs := by rw [e]
    unfold State.seg
    rw [this]
  · rw [e]
  · rw [e]
  · rw [e]
  · rw [e]
  · rw [e]
  · intro j
    rw [putWell_well]
    by_cases hj : j = i
    · rw [if_pos hj, hj]; exact h
    · rw [if_neg hj]
  · rw [e]; exact id
  · exact putWell_rosterLaw s i w
  · intro hq g
    have : (putWell s i w).segs = s.segs := by rw [e]
    unfold State.seg
    rw [this]
    exact hq g
  · rw [e]; exact id
  · rw [e]; exact id

theorem keeps_putWell_some {s : State} {i : Slot} {w : Well} (hw : s.well i = some w) (w' : Well)
    (h : w'.cfg = w.cfg) : Keeps s (putWell s i (some w')) :=
  keeps_putWell s i _ (by rw [hw]; simp [h])

theorem keeps_modWell (s : State) (i : Slot) (f : Well → Well) (h : ∀ w, (f w).cfg = w.cfg) :
    Keeps s (modWell s i f) := by
  unfold modWell
  split
  · rename_i w hw
    exact keeps_putWell_some hw _ (h w)
  · exact Keeps.refl s

/-! ## What the operations below the commands keep besides -/

/-- The parts of a segment that belong to its controller: rate, pointer, position, round, exchanges and presence. -/
def Segment.core (q : Segment) :
    BitRate × Fin 8 × Option Slot × Fin 8 × Option Txn × Option FieldFrame × Option Overheard × Option Nat × Bool :=
  (q.rateInForce, q.pointer, q.position, q.round, q.txn, q.sending, q.overheard, q.presenceTimer, q.presenceDue)

/-- `Keeps`, and all that the queues, lines, trips, conditions and moves never touch. -/
structure Inner (d : Prop) (s t : State) : Prop where
  keeps : Keeps s t
  timeBase : t.timeBase = s.timeBase
  unit : t.unit = s.unit
  trips : t.trips = s.trips
  reportTimer : t.balancer.reportTimer = s.balancer.reportTimer
  demand : t.balancer.demand = s.balancer.demand
  demandArrival : t.balancer.demandArrival = s.balancer.demandArrival
  evalAsked : t.evalAsked = s.evalAsked
  core : ∀ g, (t.seg g).core = (s.seg g).core
  key : ∀ j, (t.well j).map Well.key = (s.well j).map Well.key
  /-- No move record is opened or changed; one may go where `d` says so. -/
  moves : ∀ j, (t.well j).bind (·.move) = (s.well j).bind (·.move) ∨ (d ∧ (t.well j).bind (·.move) = none)

theorem Inner.refl (s : State) : Inner d s s :=
  ⟨Keeps.refl s, rfl, rfl, rfl, rfl, rfl, rfl, rfl, fun _ => rfl, fun _ => rfl, fun _ => Or.inl rfl⟩

theorem Inner.trans {s t u : State} (a : Inner d s t) (b : Inner d t u) : Inner d s u where
  keeps := a.keeps.trans b.keeps
  timeBase := b.timeBase.trans a.timeBase
  unit := b.unit.trans a.unit
  trips := b.trips.trans a.trips
  reportTimer := b.reportTimer.trans a.reportTimer
  demand := b.demand.trans a.demand
  demandArrival := b.demandArrival.trans a.demandArrival
  evalAsked := b.evalAsked.trans a.evalAsked
  core := fun g => (b.core g).trans (a.core g)
  key := fun j => (b.key j).trans (a.key j)
  moves := fun j => by
    rcases b.moves j with h | h
    · rw [h]; exact a.moves j
    · exact Or.inr h

theorem Inner.modSeg (s : State) (g : Seg) (f : Segment → Segment)
    (h : QueueLaw (s.seg g).queue → QueueLaw (f (s.seg g)).queue)
    (hs : ∀ q, (f q).settings = q.settings := by intro _; rfl)
    (hc : ∀ q, (f q).core = q.core := by intro _; rfl) : Inner d s (s.modSeg g f) where
  keeps := Keeps.modSeg s g f h hs
  timeBase := rfl
  unit := rfl
  trips := rfl
  reportTimer := rfl
  demand := rfl
  demandArrival := rfl
  evalAsked := rfl
  core := fun k => by
    rw [State.seg_modSeg]
    split
    · rename_i e; rw [e]; exact hc _
    · rfl
  key := fun _ => rfl
  moves := fun _ => Or.inl rfl

theorem Inner.modSeg' (s : State) (g : Seg) (f : Segment → Segment) (h : ∀ q, (f q).queue = q.queue)
    (hs : ∀ q, (f q).settings = q.settings := by intro _; rfl)
    (hc : ∀ q, (f q).core = q.core := by intro _; rfl) : Inner d s (s.modSeg g f) :=
  Inner.modSeg s g f (by rw [h]; exact id) hs hc

theorem inner_modCounters (s : State) (g : Seg) (f : SegCounters → SegCounters) : Inner d s (s.modCounters g f) :=
  Inner.modSeg' _ _ _ fun _ => rfl

theorem Inner.modBalancer (s : State) (f : Balancer → Balancer)
    (hr : ∀ b, (f b).reportTimer = b.reportTimer := by intro _; rfl)
    (hd : ∀ b, (f b).demand = b.demand := by intro _; rfl)
    (ha : ∀ b, (f b).demandArrival = b.demandArrival := by intro _; rfl) : Inner d s (s.modBalancer f) :=
  ⟨keeps_modBalancer s f, rfl, rfl, rfl, hr _, hd _, ha _, rfl, fun _ => rfl, fun _ => rfl, fun _ => Or.inl rfl⟩

theorem inner_setLine (s : State) (l : Line) (r : LineRecord) : Inner d s (s.setLine l r) :=
  ⟨keeps_setLine s l r, rfl, rfl, rfl, rfl, rfl, rfl, rfl, fun _ => rfl, fun _ => rfl, fun _ => Or.inl rfl⟩

theorem inner_countProt (s : State) : Inner d s s.countProt :=
  ⟨keeps_countProt s, rfl, rfl, rfl, rfl, rfl, rfl, rfl, fun _ => rfl, fun _ => rfl, fun _ => Or.inl rfl⟩

theorem Inner.modConds (s : State) (f : Conditions → Conditions) (h : CondLaw s.conds → CondLaw (f s.conds))
    (hk : (f s.conds).kinds = s.conds.kinds := by rfl) : Inner d s (s.modConds f) :=
  ⟨Keeps.modConds s f h hk, rfl, rfl, rfl, rfl, rfl, rfl, rfl, fun _ => rfl, fun _ => rfl, fun _ => Or.inl rfl⟩

theorem inner_offerRoutine (f : Uplink) (s : State) : Inner d s (offerRoutine f s) :=
  ⟨keeps_offerRoutine f s, rfl, rfl, rfl, rfl, rfl, rfl, rfl, fun _ => rfl, fun _ => rfl, fun _ => Or.inl rfl⟩

theorem inner_offerUrgent (f : Uplink) (s : State) : Inner d s (offerUrgent f s) :=
  ⟨keeps_offerUrgent f s, rfl, rfl, rfl, rfl, rfl, rfl, rfl, fun _ => rfl, fun _ => rfl, fun _ => Or.inl rfl⟩

/-- The states on a roster are those of a well in service that has a sample and answers (R13, R17). -/
theorem onRoster_some (w : Well) :
    (wellState (some w)).onRoster = (w.cfg.inService && w.last.isSome && w.answering) := by
  have h : ∀ a b c d e f : Bool,
      (if (!a) = true then WellState.parked else if b = true then .listed else if (!c) = true then .silent
        else if d = true then .shut else if e = true then .manual else if f = true then .held else .tracking).onRoster =
        (a && !b && c) := by decide
  have hl : w.last.isSome = !w.last.isNone := by cases w.last <;> rfl
  rw [hl]
  exact h _ _ _ _ _ _

/-- A record's roster follows from the fields of its key (R13, R17). -/
theorem rosterLine_some (w : Well) :
    rosterLine (some w) = if w.cfg.inService && w.last.isSome && w.answering then some w.outlet else none := by
  rw [← onRoster_some]
  rfl

theorem rosterLine_key {w v : Well} (h : w.key = v.key) : rosterLine (some w) = rosterLine (some v) := by
  unfold Well.key at h
  simp only [Prod.mk.injEq] at h
  rw [rosterLine_some, rosterLine_some, h.1, h.2.1, h.2.2.2.1, h.2.2.2.2.1]

/-- Writing a record of the same key. -/
theorem inner_putWell_some {s : State} {i : Slot} {w : Well} (hw : s.well i = some w) (w' : Well) (h : w'.key = w.key)
    (hm : w'.move = w.move ∨ (d ∧ w'.move = none) := by first | exact Or.inl rfl | exact Or.inr ⟨trivial, rfl⟩) :
    Inner d s (putWell s i (some w')) := by
  have hcfg : w'.cfg = w.cfg := by
    unfold Well.key at h
    simp only [Prod.mk.injEq] at h
    exact h.1
  have e := putWell_frame s i (some w')
  refine ⟨keeps_putWell_some hw w' hcfg, ?_, ?_, ?_, ?_, ?_, ?_, ?_, ?_, ?_, ?_⟩
  · rw [e]
  · rw [e]
  · rw [e]
  · rw [e]
  · rw [e]
  · rw [e]
  · unfold putWell
    simp only
    rw [hw, rosterLine_key h]
    simp
  · intro g
    have : (putWell s i (some w')).segs = s.segs := by rw [e]
    unfold State.seg
    rw [this]
  · intro j
    rw [putWell_well]
    by_cases hj : j = i
    · rw [if_pos hj, hj, hw]; simp [h]
    · rw [if_neg hj]
  · intro j
    rw [putWell_well]
    by_cases hj : j = i
    · rw [if_pos hj, hj, hw]; exact hm
    · rw [if_neg hj]; exact Or.inl rfl

theorem inner_modWell (s : State) (i : Slot) (f : Well → Well) (h : ∀ w, (f w).key = w.key)
    (hm : ∀ w, (f w).move = w.move := by intro _; rfl) : Inner d s (modWell s i f) := by
  unfold modWell
  split
  · rename_i w hw
    exact inner_putWell_some hw _ (h w) (Or.inl (hm w))
  · exact Inner.refl s

theorem inner_setReason (i : Slot) (r : Reason) (x : Bool) (s : State) : Inner d s (setReason i r x s) :=
  inner_modWell s i _ fun _ => rfl

theorem inner_setPending (i : Slot) (p : Option PendingProt) (s : State) : Inner d s (setPending i p s) :=
  inner_modWell s i _ fun _ => rfl

/-! ## The Condition Controller -/

theorem inner_takeRec (r : CondRec) (s : State) (hr : r ∈ s.conds.waiting) (he : s.conds.eligible r = true) :
    Inner d s (takeRec r s) := by
  unfold takeRec
  exact (Inner.modConds s _ fun h => h.take r s.timeBase hr he).trans (inner_offerUrgent _ _)

theorem inner_evalTaking (s : State) : Inner d s (evalTaking s) := by
  unfold evalTaking
  split
  · split
    · rename_i r hr
      exact inner_takeRec r s (List.mem_of_find?_eq_some hr) (List.find?_some hr)
    · exact Inner.refl s
  · exact Inner.refl s

theorem inner_bumpRec (k : CondKind) (src : Nat) (s : State) : Inner d s (bumpRec k src s) := by
  unfold bumpRec
  refine Inner.modConds s _ fun h => ?_
  refine h.mapRecs _ _ ?_ ?_ <;>
  · intro r
    split <;> exact ⟨rfl, rfl, rfl⟩

theorem inner_raiseCond (k : CondKind) (src : Nat) (m l : Option Int) (s : State) : Inner d s (raiseCond k src m l s) := by
  unfold raiseCond
  split
  · exact inner_bumpRec k src s
  · rename_i hn
    refine Inner.trans (Inner.modConds s _ fun h => ?_) (inner_evalTaking _)
    exact h.place _ (h.2.1 k) (hasRec_false hn)

theorem inner_withdraw (k : CondKind) (src : Nat) (s : State) : Inner d s (withdraw k src s) := by
  unfold withdraw
  split
  · exact Inner.trans (Inner.modConds s _ fun h => h.filterWaiting _) (inner_evalTaking _)
  · exact Inner.refl s

theorem inner_withdrawSlot (i : Slot) (s : State) : Inner d s (withdrawSlot i s) := by
  have base : Inner d s (s.modConds fun c =>
      { c with
        waiting := c.waiting.filter fun r => !decide (r.source = i.val)
        stack := c.stack.map fun r => if r.source = i.val then { r with attached := false } else r }) := by
    refine Inner.modConds s _ fun h => ?_
    have h1 := h.mapRecs id (fun r => if r.source = i.val then { r with attached := false } else r)
      (fun _ => ⟨rfl, rfl, rfl⟩) (fun r => by split <;> exact ⟨rfl, rfl, rfl⟩)
    have h2 := h1.filterWaiting fun r => !decide (r.source = i.val)
    simpa using h2
  unfold withdrawSlot
  simp only
  split
  · exact base.trans (inner_evalTaking _)
  · exact base

end Sys2Proof.Machine
end

