-- ==== Sys2Proof/Laws/KeepsQueues.lean ====
section
/-! SUPPORT. What the operations of Machine/Queues.lean and Machine/Outlets.lean keep. -/

-- One theorem at a time: the one-text build of the package runs out of threads otherwise.
set_option Elab.async false

namespace Sys2Proof.Machine

variable {d : Prop}

theorem inner_endBalancing (r : Ending) (s : State) : Inner d s (endBalancing r s) := by
  unfold endBalancing
  split
  · exact Inner.modBalancer _ _
  · exact Inner.refl s

theorem inner_leaveEffects (e : Entry) (s : State) : Inner d s (leaveEffects e s) := by
  unfold leaveEffects
  split
  · exact inner_endBalancing _ _
  · exact Inner.refl s

theorem lastEvictable_mem {q : List Entry} {v : Entry} (h : lastEvictable q = some v) : v ∈ q := by
  unfold lastEvictable at h
  exact (List.mem_filter.mp (List.mem_of_getLast? h)).1

theorem inner_protEnter {g : Seg} {e : Entry} {s s' : State} (he : e.isProt = true)
    (hn : (s.seg g).entryOf e.slot = none) (h : protEnter g e s = some s') : Inner d s s' := by
  have hs := Segment.entryOf_none hn
  unfold protEnter at h
  split at h
  · rename_i hl
    cases h
    exact Inner.modSeg s g _ fun q => q.joinProt e he hl hs
  · split at h
    · rename_i v hv
      cases h
      refine Inner.trans (Inner.modSeg s g _ fun q => ?_) (inner_leaveEffects _ _)
      refine (q.dropSlot v.slot).joinProt e he ?_ ?_
      · have hm := lastEvictable_mem hv
        have : (dropSlot v.slot (s.seg g).queue).length < (s.seg g).queue.length := by
          unfold dropSlot
          exact List.length_filter_lt_length_iff_exists.mpr ⟨v, hm, by simp⟩
        exact Nat.lt_of_lt_of_le this q.1
      · intro m
        obtain ⟨x, hx, hx'⟩ := List.mem_map.mp m
        exact hs (List.mem_map.mpr ⟨x, (List.mem_filter.mp hx).1, hx'⟩)
    · exact absurd h (by simp)

theorem inner_protReplace {g : Seg} {old e : Entry} {s : State} (he : e.isProt = true)
    (ho : (s.seg g).entryOf e.slot = some old) : Inner d s (protReplace g old e s) := by
  obtain ⟨hm, hslot⟩ := Segment.entryOf_some ho
  unfold protReplace
  refine Inner.trans (Inner.modSeg s g _ fun q => ?_) (inner_leaveEffects _ _)
  by_cases hp : old.isProt = true
  · show QueueLaw (if old.isProt = true then _ else _)
    rw [if_pos hp]
    refine q.replaceSlot e.slot e rfl fun x hx hxs => ?_
    rw [q.unique hx hm (hxs.trans hslot.symm), hp, he]
  · show QueueLaw (if old.isProt = true then _ else _)
    rw [if_neg hp]
    refine (q.dropSlot e.slot).joinProt e he ?_ (not_mem_dropSlot _ _)
    have : (dropSlot e.slot (s.seg g).queue).length < (s.seg g).queue.length := by
      unfold dropSlot
      exact List.length_filter_lt_length_iff_exists.mpr ⟨old, hm, by simp [hslot]⟩
    exact Nat.lt_of_lt_of_le this q.1

theorem inner_examineFrom (g : Seg) (l : List Slot) (s : State) : Inner d s (examineFrom g l s) := by
  induction l generalizing s with
  | nil => exact Inner.refl s
  | cons i rest ih =>
    unfold examineFrom
    split
    · exact ih s
    · split
      · split
        · exact ih s
        · simp only
          split
          · rename_i old ho
            exact ((inner_protReplace rfl ho).trans (inner_setPending _ _ _)).trans (ih _)
          · rename_i hn
            split
            · rename_i s' hs'
              exact ((inner_protEnter rfl hn hs').trans (inner_setPending _ _ _)).trans (ih _)
            · exact Inner.refl s
      · exact ih s

theorem inner_examinePending (g : Seg) (s : State) : Inner d s (examinePending g s) := by
  unfold examinePending
  split
  · exact inner_examineFrom _ _ _
  · exact Inner.refl s

theorem inner_departed (g : Seg) (e : Entry) (s : State) : Inner d s (departed g e s) :=
  (inner_leaveEffects e s).trans (inner_examinePending g _)

theorem inner_removeEntry (g : Seg) (i : Slot) (s : State) : Inner d s (removeEntry g i s) := by
  unfold removeEntry
  split
  · exact (Inner.modSeg s g _ fun q => q.dropSlot i).trans (inner_departed _ _ _)
  · exact Inner.refl s

theorem inner_arriveProt (i : Slot) (target : Nat) (outlet : Line) (s : State) :
    Inner d s (arriveProt i target outlet s) := by
  unfold arriveProt
  split
  · exact Inner.refl s
  · simp only
    split
    · exact inner_setPending _ _ _
    · split
      · rename_i old ho
        exact ((inner_protReplace rfl ho).trans (inner_setPending _ _ _)).trans (inner_examinePending _ _)
      · rename_i hn
        split
        · exact inner_setPending _ _ _
        · split
          · rename_i s' hs'
            have k := (inner_protEnter (d := d) rfl hn hs').trans (inner_setPending i none _)
            split
            · exact k
            · exact k.trans (inner_examinePending _ _)
          · exact inner_setPending _ _ _

theorem inner_arriveOther (i : Slot) (target : Nat) (outlet : Line) (cls : Cls) (s : State) (hc : cls ≠ .protective) :
    Inner d s (arriveOther i target outlet cls s) := by
  unfold arriveOther
  split
  · exact Inner.refl s
  · rename_i w hw
    simp only
    have hnp : Entry.isProt ⟨i, target, outlet, cls, false⟩ = false := by simp [Entry.isProt, hc]
    split
    · rename_i old ho
      obtain ⟨hm, hslot⟩ := Segment.entryOf_some ho
      split
      · exact inner_leaveEffects _ _
      · rename_i hp
        refine Inner.trans (Inner.modSeg s _ _ fun q => ?_) (inner_departed _ _ _)
        refine q.replaceSlot i _ rfl fun x hx hxs => ?_
        rw [q.unique hx hm (hxs.trans hslot.symm), hnp]
        simpa using hp
    · rename_i hn
      split
      · rename_i hl
        exact Inner.modSeg s _ _ fun q => q.append _ hnp hl (Segment.entryOf_none hn)
      · exact (inner_modCounters _ _ _).trans (inner_departed _ _ _)

theorem inner_refreshBudget (g : Seg) (s : State) : Inner d s (refreshBudget g s) := by
  unfold refreshBudget
  split
  · exact Inner.modSeg' _ _ _ fun _ => rfl
  · exact Inner.refl s

theorem inner_dropOverBudget (g : Seg) (n : Nat) (s : State) : Inner d s (dropOverBudget g n s) := by
  induction n generalizing s with
  | zero => exact Inner.refl s
  | succ n ih =>
    unfold dropOverBudget
    split
    · exact Inner.refl s
    · rename_i e rest hq
      split
      · refine Inner.trans (Inner.trans (Inner.modSeg s g _ fun q => ?_) (inner_departed _ _ _)) (ih _)
        have := q.tail
        rw [hq] at this
        exact this
      · exact Inner.refl s

theorem inner_testHead (g : Seg) (s : State) : Inner d s (testHead g s) := inner_dropOverBudget _ _ _

theorem inner_releaseMove (i : Slot) (r : Ending) (s : State) : Inner True s (releaseMove i r s) := by
  unfold releaseMove
  split
  · exact Inner.refl s
  · rename_i w hw
    split
    · exact Inner.refl s
    · rename_i m hm
      simp only
      have k1 := inner_putWell_some (d := True) hw { w with move := none } rfl
      have k2 := k1.trans (Inner.modSeg' _ w.cfg.seg (fun q => { q with outstanding := q.outstanding - m.travel })
        fun _ => rfl)
      have k3 := k2.trans (inner_refreshBudget w.cfg.seg _)
      split
      · exact k3.trans (inner_endBalancing _ _)
      · exact k3

theorem inner_endMove (i : Slot) (r : Ending) (s : State) : Inner True s (endMove i r s) := by
  unfold endMove
  split
  · exact Inner.refl s
  · split
    · exact (inner_releaseMove i r s).trans (inner_testHead _ _)
    · exact Inner.refl s

theorem inner_releaseMoves (r : Ending) (l : List Slot) (s : State) : Inner True s (releaseMoves r l s) := by
  induction l generalizing s with
  | nil => exact Inner.refl s
  | cons i rest ih => exact (inner_releaseMove i r s).trans (ih _)

/-! ## Outlets -/

theorem inner_makeProt (i : Slot) (target : Nat) (s : State) : Inner d s (makeProt i target s) := by
  unfold makeProt
  split
  · exact (inner_countProt s).trans (inner_arriveProt _ _ _ _)
  · exact Inner.refl s

theorem inner_applyOutletRule (i : Slot) (s : State) : Inner d s (applyOutletRule i s) := by
  unfold applyOutletRule
  split
  · split
    · split
      · split
        · exact inner_setReason _ _ _ _
        · exact Inner.refl s
      · split
        · exact Inner.refl s
        · simp only
          split
          · exact (inner_setReason _ _ _ _).trans (inner_makeProt _ _ _)
          · exact inner_setReason _ _ _ _
    · exact Inner.refl s
  · exact Inner.refl s

theorem inner_examineSite (b : Bool) (s : State) : Inner d s (examineSite b s) := by
  unfold examineSite
  split
  · split
    · split
      · exact inner_bumpRec _ _ _
      · exact Inner.refl s
    · exact inner_raiseCond _ _ _ _ _
  · exact Inner.refl s

theorem inner_outletRuleAt (i : Slot) (s : State) : Inner d s (outletRuleAt i s) :=
  (inner_applyOutletRule i s).trans (inner_examineSite _ _)

theorem inner_applyOutletRules (l : List Slot) (s : State) : Inner d s (applyOutletRules l s) := by
  induction l generalizing s with
  | nil => exact Inner.refl s
  | cons i rest ih => exact (inner_applyOutletRule i s).trans (ih _)

theorem inner_outletRuleAll (b : Bool) (s : State) : Inner d s (outletRuleAll b s) :=
  (inner_applyOutletRules _ s).trans (inner_examineSite _ _)

theorem inner_divertAll (l : List Slot) (s : State) : Inner d s (divertAll l s) := by
  induction l generalizing s with
  | nil => exact Inner.refl s
  | cons i rest ih =>
    unfold divertAll
    split
    · exact ((inner_countProt s).trans (inner_arriveProt _ _ _ _)).trans (ih _)
    · exact ih s

theorem inner_diversion (s : State) : Inner d s (diversion s) := inner_divertAll _ s

end Sys2Proof.Machine
end

