-- ==== Sys2Proof/Laws/KeepsLines.lean ====
section
/-! SUPPORT. What the operations of Machine/Lines.lean and Machine/Trips.lean keep. -/

-- One theorem at a time: the one-text build of the package runs out of threads otherwise.
set_option Elab.async false

namespace Sys2Proof.Machine

variable {d : Prop}

theorem inner_setLineCount (k : CondKind) (n : Nat) (s : State) : Inner d s (setLineCount k n s) :=
  Inner.modBalancer _ _

theorem inner_treatLineKind (k : CondKind) (b : Bool) (m : Option Nat) (l : Nat) (s : State) :
    Inner d s (treatLineKind k b m l s) := by
  unfold treatLineKind
  simp only
  split
  · split
    · exact (inner_setLineCount _ _ _).trans (inner_bumpRec _ _ _)
    · split
      · exact (inner_setLineCount _ _ _).trans (inner_raiseCond _ _ _ _ _)
      · exact inner_setLineCount _ _ _
  · exact (inner_setLineCount _ _ _).trans (inner_withdraw _ _ _)

theorem inner_treatLine (l : Line) (r : LineRecord) (s : State) : Inner d s (treatLine l r s) := by
  cases l
  · exact (inner_treatLineKind _ _ _ _ _).trans (inner_treatLineKind _ _ _ _ _)
  · exact inner_treatLineKind _ _ _ _ _

theorem inner_balancingPass (s : State) : Inner d s (balancingPass s) := by
  unfold balancingPass
  split
  · exact (Inner.modBalancer _ _).trans (inner_arriveOther _ _ _ _ _ (by decide))
  · exact Inner.refl s

theorem inner_evaluateLine (l : Line) (s : State) : Inner d s (evaluateLine l s) := by
  unfold evaluateLine
  simp only
  have k := (inner_setLine (d := d) s l (s.lineRecordOf l)).trans (inner_treatLine l (s.lineRecordOf l) _)
  split
  · exact k.trans (inner_balancingPass _)
  · exact k

theorem keeps_runEvals (s : State) : Keeps s (runEvals s) := by
  unfold runEvals
  simp only
  have k := keeps_evalAsked s (.all false)
  split <;> split
  · exact (k.trans (inner_evaluateLine (d := True) _ _).keeps).trans (inner_evaluateLine (d := True) _ _).keeps
  · exact k.trans (inner_evaluateLine (d := True) _ _).keeps
  · exact k.trans (inner_evaluateLine (d := True) _ _).keeps
  · exact k

theorem inner_offerLine (s : State) : Inner d s (offerLine s) := inner_offerRoutine _ _

/-! ## Trips -/

theorem inner_leaveAll (l : List Entry) (s : State) : Inner d s (leaveAll l s) := by
  induction l generalizing s with
  | nil => exact Inner.refl s
  | cons e rest ih => exact (inner_leaveEffects e s).trans (ih _)

theorem inner_turnQueue (s : State) (g : Seg) : Inner d s (turnQueue s g) := by
  unfold turnQueue
  refine Inner.trans (Inner.modSeg s g _ fun q => ?_) (inner_leaveAll _ _)
  refine q.filterMap _ fun e e' h => ?_
  unfold State.turnEntry at h
  split at h
  · cases h; exact ⟨rfl, rfl⟩
  · split at h
    · cases h; exact ⟨rfl, rfl⟩
    · exact absurd h (by simp)

theorem inner_foldSegs (f : State → Seg → State) (hf : ∀ s g, Inner d s (f s g)) (l : List Seg) (s : State) :
    Inner d s (l.foldl f s) := by
  induction l generalizing s with
  | nil => exact Inner.refl s
  | cons g rest ih => exact (hf s g).trans (ih _)

theorem keeps_foldSegs (f : State → Seg → State) (hf : ∀ s g, Keeps s (f s g)) (l : List Seg) (s : State) :
    Keeps s (l.foldl f s) := by
  induction l generalizing s with
  | nil => exact Keeps.refl s
  | cons g rest ih => exact (hf s g).trans (ih _)

theorem inner_turnPending (l : List Slot) (s : State) : Inner d s (turnPending l s) := by
  induction l generalizing s with
  | nil => exact Inner.refl s
  | cons i rest ih =>
    unfold turnPending
    refine Inner.trans ?_ (ih _)
    split
    · exact Inner.refl s
    · split
      · exact Inner.refl s
      · split
        · exact inner_setPending _ _ _
        · exact Inner.refl s

theorem inner_examineAll (s : State) : Inner d s (examineAll s) :=
  (((inner_examinePending .a s).trans (inner_examinePending .b _)).trans (inner_examinePending .c _)).trans
    (inner_examinePending .d _)

theorem inner_lineLostOnset (s : State) : Inner d s (lineLostOnset s) := by
  unfold lineLostOnset
  simp only
  refine Inner.trans ?_ ((inner_evaluateLine _ _).trans (inner_offerLine _))
  refine Inner.trans ?_ (inner_outletRuleAll _ _)
  refine Inner.trans ?_ ((inner_turnPending _ _).trans (inner_examineAll _))
  refine Inner.trans ?_ (inner_foldSegs _ inner_turnQueue _ _)
  have k := (Inner.modBalancer (d := d) s fun b => { b with lineLost := true }).trans
    (inner_raiseCond .engineLineLost Config.engineSource (some (maskValue s.limits.mask)) none _)
  split
  · exact k.trans (inner_diversion _)
  · exact k

theorem inner_lineLostEnd (s : State) : Inner d s (lineLostEnd s) :=
  (((Inner.modBalancer s _).trans (inner_outletRuleAll _ _)).trans (inner_evaluateLine _ _)).trans (inner_offerLine _)

theorem inner_combinationChanged (b : Bool) (s : State) : Inner d s (combinationChanged b s) := by
  unfold combinationChanged
  split
  · split
    · exact Inner.refl s
    · split
      · exact inner_bumpRec _ _ _
      · exact inner_lineLostOnset s
  · split
    · exact inner_lineLostEnd s
    · exact Inner.refl s

theorem inner_freeDiverted (l : List Slot) (s : State) : Inner d s (freeDiverted l s) :=
  (inner_applyOutletRules _ _).trans (inner_examineSite _ _)

theorem inner_flareFaultChanged (s : State) : Inner d s (flareFaultChanged s) := by
  unfold flareFaultChanged
  simp only
  split
  · exact Inner.refl s
  · refine Inner.trans ?_ ((inner_evaluateLine _ _).trans (inner_offerLine _))
    have k := (Inner.modBalancer (d := d) s fun b => { b with flareFault := s.trips.flareFault.accepted }).trans
      (inner_outletRuleAll true _)
    split
    · exact (k.trans (inner_diversion _)).trans (inner_freeDiverted _ _)
    · exact k

theorem inner_tripsChanged (b : Bool) (s : State) : Inner d s (tripsChanged b s) :=
  (inner_combinationChanged b s).trans (inner_flareFaultChanged _)

theorem keeps_followOff (s : State) : Keeps s (followOff s) := keeps_trips _ _

theorem inner_removalEffects (r : CondRec) (s : State) : Inner d s (removalEffects r s) := by
  unfold removalEffects
  split
  · split
    · exact inner_setReason _ _ _ _
    · exact Inner.refl s
  · split
    · exact inner_lineLostEnd s
    · exact Inner.refl s

theorem keeps_filterExpiry (t : Trip) (s : State) : Keeps s (filterExpiry t s) := by
  unfold filterExpiry
  split
  · exact Keeps.refl s
  · exact ((keeps_advanceTo _ _).trans (keeps_modTrip _ _ _)).trans (inner_tripsChanged (d := True) _ _).keeps

theorem keeps_inputChange (t : Trip) (high : Bool) (s : State) : Keeps s (inputChange t high s) := by
  unfold inputChange
  simp only
  have k := keeps_modTrip s t fun f => { f with rawHigh := high }
  split
  · exact k
  · split
    · exact k
    · exact (k.trans (keeps_modTrip _ _ _)).trans (inner_tripsChanged (d := True) _ _).keeps

theorem keeps_reportExpiry (s : State) : Keeps s (reportExpiry s) :=
  ((((keeps_advanceTo _ _).trans (keeps_modBalancer _ _)).trans (inner_evaluateLine (d := True) _ _).keeps).trans
    (inner_evaluateLine (d := True) _ _).keeps).trans (inner_offerLine (d := True) _).keeps

theorem keeps_demandExpiry (s : State) : Keeps s (demandExpiry s) := by
  unfold demandExpiry
  split
  · exact (keeps_advanceTo _ _).trans (keeps_modBalancer _ _)
  · exact Keeps.refl s

end Sys2Proof.Machine
end

