-- ==== Sys2Proof/Laws/KeepsMoves.lean ====
section
/-! SUPPORT. What the operations of Machine/Moves.lean, Machine/Trim.lean and Machine/Samples.lean keep. -/

-- One theorem at a time: the one-text build of the package runs out of threads otherwise.
set_option Elab.async false

namespace Sys2Proof.Machine

variable {d : Prop}

theorem inner_handJoin (i : Slot) (b : Option Line) (s : State) : Inner d s (handJoin i b s) := by
  unfold handJoin
  split
  · exact inner_outletRuleAt _ _
  · exact Inner.refl s

theorem inner_examineOwn (i : Slot) (s : State) : Inner d s (examineOwn i s) := by
  unfold examineOwn
  split
  · split
    · exact inner_examinePending _ _
    · exact Inner.refl s
  · exact Inner.refl s

theorem keeps_goodReply (i : Slot) (s : State) : Keeps s (goodReply i s) := by
  unfold goodReply
  refine Keeps.trans ?_ (inner_handJoin (d := True) _ _ _).keeps
  refine Keeps.trans ?_ (inner_examineOwn (d := True) _ _).keeps
  exact keeps_modWell s i _ fun _ => rfl

theorem inner_silenceQueue (i : Slot) (s : State) : Inner True s (silenceQueue i s) := by
  unfold silenceQueue
  simp only
  have k := inner_endMove i .abandoned s
  split
  · split
    · exact k
    · split
      · exact (k.trans (inner_setPending _ _ _)).trans (inner_removeEntry _ _ _)
      · exact k
  · exact k

theorem keeps_fallSilent (i : Slot) (s : State) : Keeps s (fallSilent i s) := by
  unfold fallSilent
  split
  · exact Keeps.refl s
  · rename_i w hw
    refine Keeps.trans ?_ (inner_silenceQueue _ _).keeps
    refine Keeps.trans ?_ (inner_raiseCond (d := True) _ _ _ _ _).keeps
    exact keeps_putWell_some hw { w with answering := false, holds := w.holds.put .silent true } rfl

theorem keeps_missWell (i : Slot) (s : State) : Keeps s (missWell i s) := by
  unfold missWell
  split
  · exact Keeps.refl s
  · rename_i w hw
    simp only
    have k := keeps_putWell_some hw { w with missCount := satInc Config.countCap w.missCount } rfl
    split
    · exact k.trans (keeps_fallSilent _ _)
    · exact k

theorem inner_setCount (i : Slot) (k : ExcKind) (n : Nat) (s : State) : Inner d s (setCount i k n s) :=
  inner_modWell s i _ fun _ => rfl

theorem inner_protectiveAction (i : Slot) (k : ExcKind) (s : State) : Inner d s (protectiveAction i k s) := by
  unfold protectiveAction
  split
  · exact Inner.refl s
  · split
    · split
      · exact inner_makeProt _ _ _
      · split
        · exact inner_makeProt _ _ _
        · split
          · exact inner_makeProt _ _ _
          · exact inner_makeProt _ _ _
      · exact Inner.refl s
      · exact Inner.refl s
    · exact Inner.refl s

theorem inner_excursion (i : Slot) (k : ExcKind) (m l : Option Int) (s : State) : Inner d s (excursion i k m l s).1 := by
  unfold excursion
  split
  · exact Inner.refl s
  · split
    · exact (inner_setCount _ _ _ _).trans (inner_bumpRec _ _ _)
    · simp only
      split
      · exact (((inner_setCount _ _ _ _).trans (inner_raiseCond _ _ _ _ _)).trans (inner_setReason _ _ _ _)).trans
          (inner_protectiveAction _ _ _)
      · exact inner_setCount _ _ _ _

theorem keeps_writeEcho (i : Slot) (target : Nat) (outlet : Line) (s : State) :
    Keeps s (writeEcho i target outlet s) := by
  unfold writeEcho
  split
  · exact Keeps.refl s
  · rename_i w hw
    simp only
    have k := keeps_putWell_some hw { w with target := some target, outlet := outlet } rfl
    refine Keeps.trans ?_ (keeps_runEvals _)
    split
    · exact k
    · exact k.trans (inner_outletRuleAt (d := True) _ _).keeps

theorem keeps_openMove (c : SentCopy) (s : State) : Keeps s (openMove c s) := by
  unfold openMove
  split
  · exact Keeps.refl s
  · rename_i w hw
    refine Keeps.trans ?_ (Keeps.modSeg' _ _ _ fun _ => rfl)
    exact keeps_putWell_some hw
      { w with move := some ⟨c.target, c.outlet, c.cls, c.travel, s.timeBase⟩ } rfl

theorem inner_advanceBalancing (c : SentCopy) (s : State) : Inner d s (advanceBalancing c s) := by
  unfold advanceBalancing
  split
  · exact Inner.modBalancer _ _
  · exact Inner.refl s

theorem inner_endOvertaken (e : Entry) (s : State) : Inner d s (endOvertaken e s) := by
  unfold endOvertaken
  split
  · exact inner_endBalancing _ _
  · exact Inner.refl s

theorem inner_settleEntry (g : Seg) (i : Slot) (s : State) : Inner d s (settleEntry g i s) := by
  unfold settleEntry
  split
  · exact Inner.refl s
  · split
    · exact (Inner.modSeg s g _ fun q => q.dropSlot i).trans (inner_examinePending _ _)
    · split
      · exact Inner.refl s
      · exact ((Inner.modSeg s g _ fun q => q.dropSlot i).trans (inner_endOvertaken _ _)).trans (inner_examinePending _ _)

theorem inner_clearCopy (g : Seg) (s : State) : Inner d s (clearCopy g s) := Inner.modSeg' _ _ _ fun _ => rfl

theorem keeps_goodEcho (g : Seg) (c : SentCopy) (s : State) : Keeps s (goodEcho g c s) := by
  unfold goodEcho
  simp only
  exact ((((((inner_endMove _ _ _).keeps.trans (keeps_writeEcho _ _ _ _)).trans (keeps_openMove _ _)).trans
    (inner_advanceBalancing (d := True) _ _).keeps).trans (inner_settleEntry (d := True) _ _ _).keeps).trans (inner_clearCopy (d := True) _ _).keeps).trans (inner_testHead (d := True) _ _).keeps

theorem keeps_overheardEcho (i : Slot) (target : Nat) (outlet : Line) (s : State) :
    Keeps s (overheardEcho i target outlet s) := (inner_endMove _ _ _).keeps.trans (keeps_writeEcho _ _ _ _)

theorem inner_endSentBalancing (c : SentCopy) (s : State) : Inner d s (endSentBalancing c s) := by
  unfold endSentBalancing
  split
  · exact inner_endBalancing _ _
  · exact Inner.refl s

theorem inner_unsend (g : Seg) (i : Slot) (s : State) : Inner d s (unsend g i s) := by
  unfold unsend
  refine Inner.modSeg s g _ fun q => q.map _ fun e _ => ?_
  split <;> exact ⟨rfl, rfl⟩

theorem inner_failedOther (g : Seg) (c : SentCopy) (s : State) : Inner d s (failedOther g c s) := by
  unfold failedOther
  split
  · split
    · exact inner_removeEntry _ _ _
    · exact Inner.refl s
  · exact Inner.refl s

theorem inner_failedProt (g : Seg) (c : SentCopy) (s : State) : Inner d s (failedProt g c s) := by
  unfold failedProt
  split
  · split
    · exact inner_unsend _ _ _
    · exact (inner_setPending _ _ _).trans (inner_removeEntry _ _ _)
  · exact Inner.refl s

theorem inner_failedEcho (g : Seg) (c : SentCopy) (s : State) : Inner d s (failedEcho g c s) := by
  unfold failedEcho
  simp only
  refine Inner.trans ?_ (inner_refreshBudget _ _)
  have k : Inner d s (clearCopy g (s.modCounters g fun x => { x with echoFailures := counterInc x.echoFailures })) :=
    (inner_modCounters s g _).trans (inner_clearCopy g _)
  refine k.trans ?_
  split
  · split
    · exact inner_failedProt _ _ _
    · exact inner_setPending _ _ _
  · refine (inner_endSentBalancing c _).trans ?_
    split
    · exact inner_failedOther _ _ _
    · exact Inner.refl _

theorem inner_timeOutMove (i : Slot) (s : State) : Inner True s (timeOutMove i s) := by
  unfold timeOutMove
  split
  · exact Inner.refl s
  · split
    · exact Inner.refl s
    · exact (inner_endMove _ _ _).trans (inner_excursion _ _ _ _ _)

theorem keeps_moveExpiry (i : Slot) (s : State) : Keeps s (moveExpiry i s) := by
  unfold moveExpiry
  split
  · exact (keeps_advanceTo _ _).trans (inner_timeOutMove _ _).keeps
  · exact Keeps.refl s

theorem inner_budgetReset (g : Seg) (s : State) : Inner True s (budgetReset g s) := by
  unfold budgetReset
  simp only
  refine Inner.trans ?_ (inner_refreshBudget _ _)
  refine Inner.trans ?_ (Inner.modSeg' _ _ _ fun _ => rfl)
  exact inner_releaseMoves _ _ _

/-! ## Trim -/

theorem inner_trimSample (i : Slot) (s : State) : Inner d s (trimSample i s).1 := by
  unfold trimSample
  split
  · exact Inner.refl s
  · split
    · simp only
      split
      · split
        · exact inner_arriveOther _ _ _ _ _ (by decide)
        · exact Inner.refl s
      · exact Inner.refl s
    · exact Inner.refl s
    · exact Inner.refl s

theorem inner_rangeChangeSet (i : Slot) (s : State) : Inner d s (rangeChangeSet i s) := by
  unfold rangeChangeSet
  split
  · exact Inner.refl s
  · split
    · exact Inner.refl s
    · split
      · exact (inner_countProt s).trans (inner_arriveProt _ _ _ _)
      · exact Inner.refl s

/-! ## Samples -/

theorem keeps_storeSample (i : Slot) (r : RawSample) (s : State) : Keeps s (storeSample i r s) := by
  unfold storeSample
  split
  · exact Keeps.refl s
  · rename_i w hw
    simp only
    refine Keeps.trans ?_ (inner_handJoin (d := True) _ _ _).keeps
    refine Keeps.trans ?_ (inner_examineOwn (d := True) _ _).keeps
    refine Keeps.trans ?_ (keeps_askEvalOf _ _)
    exact keeps_putWell_some hw _ rfl

theorem inner_judgeMove (i : Slot) (s : State) : Inner True s (judgeMove i s).1 := by
  unfold judgeMove
  split
  · exact Inner.refl s
  · split
    · split
      · exact inner_endMove _ _ _
      · exact Inner.refl s
    · exact Inner.refl s

theorem inner_testKind (i : Slot) (q : Sample) (ended : Option (Ending × Nat)) (k : ExcKind) (x : State × ExcResult) :
    Inner d x.1 (testKind i q ended k x).1 := by
  unfold testKind
  simp only
  split
  · exact Inner.refl _
  · exact inner_setCount _ _ _ _
  · exact inner_excursion _ _ _ _ _

theorem inner_testSample (i : Slot) (q : Sample) (ended : Option (Ending × Nat)) (s : State) :
    Inner d s (testSample i q ended s).1 :=
  (((inner_testKind i q ended .hot (s, ExcResult.none)).trans (inner_testKind _ _ _ _ _)).trans
    (inner_testKind _ _ _ _ _)).trans (inner_testKind _ _ _ _ _)

theorem keeps_acceptSample (i : Slot) (r : RawSample) (s : State) : Keeps s (acceptSample i r s) := by
  unfold acceptSample
  split
  · exact Keeps.refl s
  · simp only
    have k := fun q e => (((keeps_storeSample i r s).trans (inner_judgeMove i _).keeps).trans
      (inner_testSample (d := True) i q e _).keeps).trans (inner_trimSample (d := True) i _).keeps
    split
    · exact k _ _
    · exact (k _ _).trans (inner_offerRoutine (d := True) _ _).keeps

theorem keeps_creditSample (g : Seg) (i : Slot) (p : List Byte) (s : State) : Keeps s (creditSample g i p s).1 := by
  unfold creditSample
  simp only
  split
  · exact (inner_modCounters (d := True) s g fun c => { c with rejected := counterInc c.rejected }).keeps
  · exact keeps_acceptSample i _ s

end Sys2Proof.Machine
end

