-- ==== Sys2Proof/Laws/KeepsField.lean ====
section
/-! SUPPORT. What the operations of Machine/Role.lean and Machine/Field.lean keep. -/

-- One theorem at a time: the one-text build of the package runs out of threads otherwise.
set_option Elab.async false

namespace Sys2Proof.Machine

variable {d : Prop}

theorem keeps_cutOff (s : State) (g : Seg) : Keeps s (cutOff s g) := by
  unfold cutOff
  simp only
  have k := Keeps.modSeg' s g (fun q => { q with presenceTimer := none, presenceDue := false }) fun _ => rfl
  split
  · exact k
  · have k2 := k.trans (Keeps.modSeg' _ g (fun q => { q with sending := none, txn := none, sentCopy := none })
      fun _ => rfl)
    split
    · exact k2
    · split
      · exact k2.trans (inner_setPending (d := True) _ _ _).keeps
      · split
        · exact k2.trans (inner_endBalancing (d := True) _ _).keeps
        · exact k2

theorem inner_yieldEntry (s : State) (e : Entry) : Inner d s (yieldEntry s e) := by
  unfold yieldEntry
  split
  · split
    · exact Inner.refl s
    · exact inner_leaveEffects _ _
  · split
    · split
      · exact inner_outletRuleAt _ _
      · exact (inner_setPending _ _ _).trans (inner_outletRuleAt _ _)
    · exact Inner.refl s

theorem inner_foldEntries (l : List Entry) (s : State) : Inner d s (l.foldl yieldEntry s) := by
  induction l generalizing s with
  | nil => exact Inner.refl s
  | cons e rest ih => exact (inner_yieldEntry s e).trans (ih _)

theorem inner_emptyQueue (s : State) (g : Seg) : Inner d s (emptyQueue s g) := by
  unfold emptyQueue
  exact (Inner.modSeg s g _ fun _ => QueueLaw.nil).trans (inner_foldEntries _ _)

theorem keeps_yieldRole (s : State) : Keeps s (yieldRole s) := by
  unfold yieldRole
  simp only
  refine Keeps.trans ?_ (inner_foldSegs (d := True) _ inner_emptyQueue _ _).keeps
  refine Keeps.trans ?_ (keeps_foldSegs _ keeps_cutOff _ _)
  exact Keeps.modUnit s _ rfl fun _ => by simp [RoleLaw]

theorem inner_raiseConflict (s : State) : Inner d s (raiseConflict s) := inner_raiseCond _ _ _ _ _

theorem keeps_yieldTo (c : RoleCause) (g : Seg) (s : State) : Keeps s (yieldTo c g s) :=
  ((keeps_yieldRole s).trans (inner_raiseConflict (d := True) _).keeps).trans (inner_offerUrgent (d := True) _ _).keeps

theorem inner_takeoverSets (l : List Slot) (s : State) : Inner d s (takeoverSets l s) := by
  induction l generalizing s with
  | nil => exact Inner.refl s
  | cons i rest ih =>
    unfold takeoverSets
    refine Inner.trans ?_ (ih _)
    split
    · split
      · exact inner_makeProt _ _ _
      · exact Inner.refl s
    · exact Inner.refl s

theorem keeps_becomeDuty (s : State) : Keeps s (becomeDuty s) := by
  unfold becomeDuty
  simp only
  refine Keeps.trans (Keeps.modUnit s (fun u => { u with role := .duty, silenceStart := none }) rfl
    fun _ => by simp [RoleLaw]) ?_
  refine Keeps.quiet rfl rfl rfl rfl rfl rfl rfl rfl rfl (fun g => ?_) fun g => ?_
  all_goals
    unfold State.seg
    rw [PerSeg.get_map]
  exact id

theorem keeps_takeover (s : State) : Keeps s (takeover s) := by
  unfold takeover
  simp only
  refine Keeps.trans ?_ (inner_offerUrgent (d := True) _ _).keeps
  refine Keeps.trans ?_ (inner_evalTaking (d := True) _).keeps
  refine Keeps.trans ?_ (inner_examineAll (d := True) _).keeps
  refine Keeps.trans ?_ (inner_takeoverSets (d := True) _ _).keeps
  refine Keeps.trans ?_ (inner_outletRuleAll (d := True) _ _).keeps
  have k := (keeps_becomeDuty s).trans (inner_releaseMoves .abandoned s.moving _).keeps
  split
  · exact k.trans (inner_diversion (d := True) _).keeps
  · exact k

theorem keeps_silenceExpiry (s : State) : Keeps s (silenceExpiry s) := by
  unfold silenceExpiry
  split
  · exact ((keeps_advanceTo _ _).trans (keeps_takeover _)).trans (keeps_runEvals _)
  · exact Keeps.refl s

/-! ## Turns and transmission -/

theorem inner_chooseTurn (g : Seg) (s : State) : Inner d s (chooseTurn g s).1 := by
  unfold chooseTurn
  split
  · split
    · exact Inner.refl s
    · simp only
      split <;> exact inner_testHead _ _
  · simp only
    split
    · exact inner_testHead _ _
    · split <;> exact inner_testHead _ _

theorem keeps_beginTxn (g : Seg) (k : TxnKind) (i : Option Slot) (d : Nat) (f : FieldFrame) (a : Bool) (s : State) :
    Keeps s (beginTxn g k i d f a s) := Keeps.modSeg' _ _ _ fun _ => rfl

theorem keeps_beginPoll (g : Seg) (i : Slot) (r : Fin 8) (s : State) : Keeps s (beginPoll g i r s) := by
  unfold beginPoll
  split
  · exact Keeps.refl s
  · exact (keeps_beginTxn _ _ _ _ _ _ _).trans (Keeps.modSeg' _ _ _ fun _ => rfl)

/-- Marking the entry of a slot sent keeps the queue's law, the entry being the one that stands there. -/
theorem keeps_beginSet (g : Seg) (e : Entry) (s : State) (he : e ∈ (s.seg g).queue) : Keeps s (beginSet g e s) := by
  unfold beginSet
  split
  · exact Keeps.refl s
  · simp only
    refine Keeps.trans (keeps_beginTxn g _ _ _ _ _ _) (Keeps.modSeg _ g _ fun q => ?_)
    have hq : ∀ d f, ((beginTxn g .set (some e.slot) d f true s).seg g).queue = (s.seg g).queue := by
      intro d f
      unfold beginTxn
      rw [State.seg_modSeg]
      simp
    show QueueLaw (replaceSlot e.slot { e with sent := true } _)
    rw [hq] at q ⊢
    refine q.replaceSlot e.slot _ rfl fun x hx hxs => ?_
    rw [q.unique hx he hxs]
    rfl

theorem sendableHead_mem {s : State} {g : Seg} {e : Entry} (h : s.sendableHead g = some e) : e ∈ (s.seg g).queue := by
  unfold State.sendableHead at h
  split at h
  · rename_i a r hq
    split at h
    · cases h; rw [hq]; exact List.mem_cons_self
    · exact absurd h (by simp)
  · exact absurd h (by simp)

theorem chooseTurn_set {g : Seg} {s : State} {e : Entry} (h : (chooseTurn g s).2 = .set e) :
    e ∈ ((chooseTurn g s).1.seg g).queue := by
  unfold chooseTurn at h ⊢
  split at h
  · rename_i hp
    simp only [hp, if_true]
    split at h
    · exact absurd h (by simp)
    · rename_i hn
      simp only at h ⊢
      split at h
      · rename_i e' he
        cases h
        exact sendableHead_mem he
      · exact absurd h (by simp)
  · rename_i hp
    rw [if_neg hp]
    simp only at h ⊢
    split at h
    · rename_i e' he
      cases h
      simp only
      exact sendableHead_mem he
    · split at h <;> exact absurd h (by simp)

theorem keeps_takeTurn (g : Seg) (want : Turn → Bool) (s : State) : Keeps s (takeTurn g want s) := by
  unfold takeTurn
  split
  · simp only
    have k := (inner_chooseTurn (d := True) g s).keeps
    split
    · split
      · exact k.trans (keeps_beginPoll _ _ _ _)
      · rename_i e he
        exact k.trans (keeps_beginSet _ _ _ (chooseTurn_set he))
      · exact k
    · exact k
  · exact Keeps.refl s

theorem keeps_presenceExpiry (g : Seg) (s : State) : Keeps s (presenceExpiry g s) := by
  unfold presenceExpiry
  split
  · split
    · exact (keeps_advanceTo _ _).trans (Keeps.modSeg' _ _ _ fun _ => rfl)
    · exact Keeps.refl s
  · exact Keeps.refl s

theorem keeps_sendPresence (g : Seg) (s : State) : Keeps s (sendPresence g s) := by
  unfold sendPresence
  split
  · exact (keeps_beginTxn _ _ _ _ _ _ _).trans (Keeps.modSeg' _ _ _ fun _ => rfl)
  · exact Keeps.refl s

theorem keeps_frameSent (g : Seg) (s : State) : Keeps s (frameSent g s) := by
  unfold frameSent
  split
  · exact Keeps.refl s
  · exact Keeps.modSeg' _ _ _ fun _ => rfl

theorem keeps_unbegin (g : Seg) (s : State) : Keeps s (unbegin g s) := by
  unfold unbegin
  split
  · exact Keeps.modSeg' _ _ _ fun _ => rfl
  · rename_i t ht
    simp only
    have k := Keeps.modSeg' s g (fun q =>
      { q with
        sending := none
        txn := none
        pointer := t.undo.pointer.getD q.pointer
        position := t.undo.position
        round := t.undo.round
        counters := uncount t.undo.counted q.counters }) fun _ => rfl
    split
    · exact k.trans (Keeps.modSeg' _ _ _ fun _ => rfl)
    · exact (k.trans (inner_unsend (d := True) _ _ _).keeps).trans (inner_clearCopy (d := True) _ _).keeps
    · exact k.trans (inner_clearCopy (d := True) _ _).keeps
    · exact k

theorem keeps_loseArbitration (g : Seg) (w : Nat) (s : State) : Keeps s (loseArbitration g w s) := by
  unfold loseArbitration
  simp only
  have k := (inner_modCounters (d := True) s g fun c => { c with arbitrationLosses := counterInc c.arbitrationLosses }).keeps
  split
  · exact Keeps.refl s
  · split
    · split
      · exact Keeps.refl s
      · exact k
    · have k2 := k.trans (keeps_unbegin g _)
      split
      · exact (k2.trans (keeps_yieldTo _ _ _)).trans (keeps_runEvals _)
      · exact k2

/-! ## Reception -/

theorem inner_countForeign (g : Seg) (s : State) : Inner d s (countForeign g s) := inner_modCounters _ _ _

theorem inner_countMiss (g : Seg) (s : State) : Inner d s (countMiss g s) := inner_modCounters _ _ _

theorem keeps_endTxn (g : Seg) (s : State) : Keeps s (endTxn g s) := Keeps.modSeg' _ _ _ fun _ => rfl

theorem keeps_missTxn (g : Seg) (t : Txn) (s : State) : Keeps s (missTxn g t s) := by
  unfold missTxn
  simp only
  have k0 := (keeps_endTxn g s).trans (inner_countMiss (d := True) g _).keeps
  cases s.addressedWell g t with
  | some i =>
    refine (k0.trans (keeps_missWell i _)).trans ?_
    dsimp only
    split
    · exact (inner_failedEcho (d := True) _ _ _).keeps
    · exact Keeps.refl _
  | none =>
    refine k0.trans ?_
    dsimp only
    split
    · exact (inner_failedEcho (d := True) _ _ _).keeps
    · exact Keeps.refl _

theorem keeps_closeOverheard (g : Seg) (s : State) : Keeps s (closeOverheard g s) := Keeps.modSeg' _ _ _ fun _ => rfl

theorem keeps_missOverheard (g : Seg) (o : Overheard) (s : State) : Keeps s (missOverheard g o s) := by
  unfold missOverheard
  simp only
  have k := (keeps_closeOverheard g s).trans (inner_countMiss (d := True) g _).keeps
  split
  · exact k.trans (keeps_missWell _ _)
  · exact k

theorem keeps_lapseOverheard (g : Seg) (o : Overheard) (s : State) : Keeps s (lapseOverheard g o s) := by
  unfold lapseOverheard
  split
  · exact keeps_missOverheard _ _ _
  · exact keeps_closeOverheard _ _

theorem keeps_endOpen (g : Seg) {finish : Seg → Overheard → State → State} (h : ∀ o s, Keeps s (finish g o s)) (s : State) :
    Keeps s (endOpen g finish s) := by
  unfold endOpen
  split
  · exact keeps_missTxn _ _ _
  · split
    · exact h _ _
    · exact Keeps.refl s

theorem keeps_receptionError (g : Seg) (s : State) : Keeps s (receptionError g s) :=
  (inner_modCounters (d := True) _ _ _).keeps.trans (keeps_endOpen g (keeps_missOverheard g) _)

theorem keeps_ownFrame (g : Seg) (s : State) : Keeps s (ownFrame g s) :=
  (inner_countForeign (d := True) _ _).keeps.trans (keeps_endOpen g (keeps_lapseOverheard g) _)

theorem keeps_openOverheard (g : Seg) (f : FieldFrame) (s : State) : Keeps s (openOverheard g f s) := by
  unfold openOverheard
  split
  · exact Keeps.modSeg' _ _ _ fun _ => rfl
  · exact Keeps.refl s

/-- In STANDBY hearing the other controller leaves the timer running; in DUTY at 251 the yield starts it. -/
theorem keeps_hearOther (g : Seg) (f : FieldFrame) (s : State) : Keeps s (hearOther g f s) := by
  unfold hearOther
  simp only
  have k := Keeps.modUnit s (fun u => { u with lastOther := some (s.timeBase, g) }) rfl fun h => h
  split
  · split
    · exact k.trans (keeps_yieldTo _ _ _)
    · exact k.trans (inner_raiseConflict (d := True) _).keeps
  · rename_i hd
    refine Keeps.trans (k.trans (Keeps.modUnit _ _ rfl fun _ => ?_)) (keeps_openOverheard _ _ _)
    have : s.unit.role = .standby := by
      cases hr : s.unit.role with
      | duty => exact absurd (by simp [State.isDuty, hr]) hd
      | standby => rfl
    simp [RoleLaw, State.modUnit, this]

theorem keeps_otherFrame (g : Seg) (f : FieldFrame) (s : State) : Keeps s (otherFrame g f s) := by
  unfold otherFrame
  simp only
  refine Keeps.trans ?_ (keeps_hearOther _ _ _)
  split
  · exact (inner_countForeign (d := True) _ _).keeps.trans (keeps_missTxn _ _ _)
  · split
    · exact keeps_lapseOverheard _ _ _
    · exact Keeps.refl s

theorem keeps_takeEcho (g : Seg) (c : SentCopy) (s : State) : Keeps s (takeEcho g c s) := by
  unfold takeEcho
  simp only
  refine (keeps_goodReply c.slot s).trans ?_
  split
  · exact keeps_goodEcho _ _ _
  · exact ((keeps_overheardEcho _ _ _ _).trans (inner_endSentBalancing (d := True) _ _).keeps).trans (inner_clearCopy (d := True) _ _).keeps

theorem keeps_judgePoll (g : Seg) (t : Txn) (f : FieldFrame) (s : State) : Keeps s (judgePoll g t f s) := by
  unfold judgePoll
  split
  · split
    · simp only
      split
      · exact (keeps_creditSample _ _ _ _).trans (keeps_endTxn _ _)
      · exact (keeps_creditSample _ _ _ _).trans (keeps_missTxn _ _ _)
    · exact keeps_missTxn _ _ _
  · exact keeps_missTxn _ _ _

theorem keeps_judgeSet (g : Seg) (t : Txn) (f : FieldFrame) (s : State) : Keeps s (judgeSet g t f s) := by
  unfold judgeSet
  split
  · split
    · exact (keeps_endTxn _ _).trans (keeps_takeEcho _ _ _)
    · exact keeps_missTxn _ _ _
  · exact keeps_missTxn _ _ _

theorem keeps_judgeReply (g : Seg) (t : Txn) (f : FieldFrame) (s : State) : Keeps s (judgeReply g t f s) := by
  unfold judgeReply
  split
  · split
    · exact keeps_judgeSet _ _ _ _
    · exact keeps_judgePoll _ _ _ _
    · exact keeps_judgePoll _ _ _ _
  · exact (inner_countForeign (d := True) _ _).keeps.trans (keeps_missTxn _ _ _)

theorem keeps_judgeUnserved (g : Seg) (o : Overheard) (p : Bool) (s : State) : Keeps s (judgeUnserved g o p s) := by
  unfold judgeUnserved
  split
  · exact (inner_countForeign (d := True) _ _).keeps.trans (keeps_closeOverheard _ _)
  · exact (inner_countForeign (d := True) _ _).keeps.trans (keeps_missOverheard _ _ _)

theorem keeps_judgeOverheardPoll (g : Seg) (o : Overheard) (f : FieldFrame) (s : State) :
    Keeps s (judgeOverheardPoll g o f s) := by
  unfold judgeOverheardPoll
  split
  · split
    · simp only
      split
      · exact (keeps_creditSample _ _ _ _).trans (keeps_closeOverheard _ _)
      · exact (keeps_creditSample _ _ _ _).trans (keeps_missOverheard _ _ _)
    · exact keeps_missOverheard _ _ _
  · exact keeps_judgeUnserved _ _ _ _

theorem keeps_judgeOverheardSet (g : Seg) (o : Overheard) (f : FieldFrame) (s : State) :
    Keeps s (judgeOverheardSet g o f s) := by
  unfold judgeOverheardSet
  simp only
  split
  · split
    · exact ((keeps_closeOverheard _ _).trans (keeps_goodReply _ _)).trans (keeps_overheardEcho _ _ _ _)
    · exact keeps_missOverheard _ _ _
  · exact keeps_missOverheard _ _ _
  · exact keeps_judgeUnserved _ _ _ _

theorem keeps_judgeOverheard (g : Seg) (o : Overheard) (f : FieldFrame) (s : State) :
    Keeps s (judgeOverheard g o f s) := by
  unfold judgeOverheard
  split
  · split
    · exact keeps_judgeOverheardSet _ _ _ _
    · exact keeps_judgeOverheardPoll _ _ _ _
    · exact keeps_judgeOverheardPoll _ _ _ _
  · exact (inner_countForeign (d := True) _ _).keeps.trans (keeps_missOverheard _ _ _)

theorem keeps_wellheadFrame (g : Seg) (f : FieldFrame) (s : State) : Keeps s (wellheadFrame g f s) := by
  unfold wellheadFrame
  split
  · exact keeps_judgeReply _ _ _ _
  · split
    · exact keeps_judgeOverheard _ _ _ _
    · exact (inner_countForeign (d := True) _ _).keeps

theorem keeps_receiveFrame (g : Seg) (f : FieldFrame) (s : State) : Keeps s (receiveFrame g f s) := by
  unfold receiveFrame
  refine Keeps.trans ?_ (keeps_runEvals _)
  split
  · exact keeps_receptionError _ _
  · split
    · exact keeps_ownFrame _ _
    · split
      · exact keeps_otherFrame _ _ _
      · exact keeps_wellheadFrame _ _ _

theorem keeps_windowCloses (g : Seg) (s : State) : Keeps s (windowCloses g s) := by
  unfold windowCloses
  split
  · exact ((keeps_advanceTo _ _).trans (keeps_missTxn _ _ _)).trans (keeps_runEvals _)
  · exact Keeps.refl s

theorem keeps_overheardExpiry (g : Seg) (s : State) : Keeps s (overheardExpiry g s) := by
  unfold overheardExpiry
  split
  · exact ((keeps_advanceTo _ _).trans (keeps_lapseOverheard _ _ _)).trans (keeps_runEvals _)
  · exact Keeps.refl s

end Sys2Proof.Machine
end

