-- ==== Sys2Proof/Laws/Plant.lean ====
section
/-! SUPPORT. Execution of a plant command: what `executeFrame` answers when a frame is ready, and what every command's own rules keep.
`KeepsLaws` is `Keeps` without the settings and configurations, which the loading commands write. -/

-- One theorem at a time: the one-text build of the package runs out of threads otherwise.
set_option Elab.async false

namespace Sys2Proof.Machine

variable {d : Prop}

/-- The laws kept, with the parts of the link an execution relies on. -/
structure KeepsLaws (s t : State) : Prop where
  pending : t.pending = s.pending
  reserved : t.link.reserved = s.link.reserved
  linkLaw : LinkLaw s.link → LinkLaw t.link
  rosterLaw : RosterLaw s → RosterLaw t
  queuesLaw : QueuesLaw s → QueuesLaw t
  condLaw : CondLaw s.conds → CondLaw t.conds
  roleLaw : RoleLaw s.unit → RoleLaw t.unit

theorem Keeps.laws {s t : State} (k : Keeps s t) : KeepsLaws s t :=
  ⟨k.pending, k.reserved, k.linkLaw, k.rosterLaw, k.queuesLaw, k.condLaw, k.roleLaw⟩

theorem KeepsLaws.refl (s : State) : KeepsLaws s s := ⟨rfl, rfl, id, id, id, id, id⟩

theorem KeepsLaws.trans {s t u : State} (a : KeepsLaws s t) (b : KeepsLaws t u) : KeepsLaws s u where
  pending := b.pending.trans a.pending
  reserved := b.reserved.trans a.reserved
  linkLaw := b.linkLaw ∘ a.linkLaw
  rosterLaw := b.rosterLaw ∘ a.rosterLaw
  queuesLaw := b.queuesLaw ∘ a.queuesLaw
  condLaw := b.condLaw ∘ a.condLaw
  roleLaw := b.roleLaw ∘ a.roleLaw

/-- Writing any record. -/
theorem laws_putWell (s : State) (i : Slot) (w : Option Well) : KeepsLaws s (putWell s i w) := by
  have e := putWell_frame s i w
  constructor
  · rw [e]
  · rw [e]
  · rw [e]; exact id
  · exact putWell_rosterLaw s i w
  · intro hq g
    have : (putWell s i w).segs = s.segs := by rw [e]
    unfold State.seg
    rw [this]
    exact hq g
  · rw [e]; exact id
  · rw [e]; exact id

/-- Writing the settings. -/
theorem laws_setSite (s : State) (x : SiteSettings) : KeepsLaws s (s.setSite x) := ⟨rfl, rfl, id, id, id, id, id⟩

/-- Writing the limit group. -/
theorem laws_setLimits (s : State) (x : Limits) : KeepsLaws s (s.setLimits x) := ⟨rfl, rfl, id, id, id, id, id⟩

/-! ## Beginning and end -/

/-- A ready frame that the row takes is executed. -/
theorem executeFrame_ready {s : State} {f : PlantFrame} {rest : List PlantFrame} (accepts : PlantFrame → Bool)
    (run : PlantFrame → State → Answer) (h : Ready s f rest) (ha : accepts f = true) :
    executeFrame accepts run s = finishExecution f (run f (beginExecution s)) := by
  have : s.nextFrame accepts = some f := by
    unfold State.nextFrame
    rw [h.2.1]
    simp [ha, h.2.2.1]
  unfold executeFrame
  rw [this]

/-- A row of the plant computer's commands on a ready frame. -/
theorem plantRow_ready {s : State} {f : PlantFrame} {rest : List PlantFrame} (accepts : PlantFrame → Bool)
    (run : PlantFrame → State → Answer) (h : Ready s f rest) (ha : accepts f = true) :
    plantRow accepts run s = .next (finishExecution f (run f (beginExecution s))) := by
  unfold plantRow whileRunning
  rw [executeFrame_ready accepts run h ha, h.1]
  rfl

/-- A command whose rules changed nothing leaves the state with its RESPONSE alone. -/
theorem finishExecution_plain {s : State} {f : PlantFrame} {rest : List PlantFrame} (h : Ready s f rest)
    (o : RespOutcome) (d : Option ReadData) :
    finishExecution f ⟨beginExecution s, o, d⟩ =
      { s with link := answered s.link f rest (f.isKind 4 && decide (o = .accepted)) o s.timeBase d } := by
  have he : (beginExecution s).evalAsked = .all false := h.2.2.2
  unfold finishExecution runEvals
  simp only [he, PerLine.all]
  simp only [beginExecution, State.modLink, h.2.1, List.tail_cons, answered, Link.joinResponse, responseTo]
  simp
  exact h.2.2.2.symm

/-- A command whose rules changed nothing, and which is no accepted UNLOCK, leaves `State.answer`. -/
theorem finishExecution_answer {s : State} {f : PlantFrame} {rest : List PlantFrame} (h : Ready s f rest)
    {o : RespOutcome} {d : Option ReadData} (ho : o ≠ .accepted ∨ f.isKind 4 = false) :
    finishExecution f ⟨beginExecution s, o, d⟩ = s.answer f rest o d := by
  rw [finishExecution_plain h]
  unfold State.answer
  rcases ho with ho | ho <;> simp [ho]

/-- While RESET is not held a command has its effect (R208). -/
theorem whileRunning_free {s : State} (f : State → State) (h : s.held = false) : whileRunning f s = f s := by
  unfold whileRunning
  simp [h]

theorem linkLaw_begin {s : State} {accepts : PlantFrame → Bool} {f : PlantFrame} (hn : s.nextFrame accepts = some f)
    (h : LinkLaw s.link) : LinkLaw (beginExecution s).link := by
  unfold State.nextFrame at hn
  split at hn
  · rename_i a r hb
    split at hn
    · rename_i hc
      refine ⟨h.1, ?_, ?_⟩
      · have : s.link.routine.length < Config.routineCap := by
          have := (Bool.and_eq_true_iff.mp hc).2
          simpa using this
        simpa [beginExecution, State.modLink, Link.routineFill] using this
      · have := h.2.2
        rw [hb] at this
        simp [beginExecution, State.modLink, hb] at this ⊢
        omega
    · exact absurd hn (by simp)
  · exact absurd hn (by simp)

/-- The RESPONSE finds its reserved place (R191). -/
theorem linkLaw_finish (f : PlantFrame) (a : Answer) (hr : a.state.link.reserved = true) (h : LinkLaw a.state.link) :
    LinkLaw (finishExecution f a).link := by
  have k := keeps_runEvals a.state
  have h' := k.linkLaw h
  have hr' : (runEvals a.state).link.reserved = true := k.reserved.trans hr
  refine LinkLaw.pump ⟨h'.1, ?_, h'.2.2⟩
  have := h'.2.1
  unfold Link.routineFill at *
  simp [hr'] at this ⊢
  omega

theorem laws_begin_others (s : State) :
    (beginExecution s).pending = s.pending ∧ (RosterLaw s → RosterLaw (beginExecution s)) ∧
      (QueuesLaw s → QueuesLaw (beginExecution s)) ∧ (beginExecution s).conds = s.conds ∧
      (beginExecution s).unit = s.unit := ⟨rfl, id, id, rfl, rfl⟩

theorem laws_finish_others (f : PlantFrame) (a : Answer) :
    (finishExecution f a).pending = a.state.pending ∧ (RosterLaw a.state → RosterLaw (finishExecution f a)) ∧
      (QueuesLaw a.state → QueuesLaw (finishExecution f a)) ∧
      (CondLaw a.state.conds → CondLaw (finishExecution f a).conds) ∧
      (RoleLaw a.state.unit → RoleLaw (finishExecution f a).unit) := by
  have k := keeps_runEvals a.state
  exact ⟨k.pending, k.rosterLaw, k.queuesLaw, k.condLaw, k.roleLaw⟩

/-- An execution keeps the laws when the command's own rules do. -/
theorem laws_executeFrame (accepts : PlantFrame → Bool) (run : PlantFrame → State → Answer)
    (h : ∀ f s, KeepsLaws s (run f s).state) (s : State) :
    (executeFrame accepts run s).pending = s.pending ∧ (LinkLaw s.link → LinkLaw (executeFrame accepts run s).link) ∧
      (RosterLaw s → RosterLaw (executeFrame accepts run s)) ∧ (QueuesLaw s → QueuesLaw (executeFrame accepts run s)) ∧
      (CondLaw s.conds → CondLaw (executeFrame accepts run s).conds) ∧
      (RoleLaw s.unit → RoleLaw (executeFrame accepts run s).unit) := by
  unfold executeFrame
  split
  · rename_i f hf
    have k := h f (beginExecution s)
    have o := laws_finish_others f (run f (beginExecution s))
    refine ⟨o.1.trans k.pending, fun hl => linkLaw_finish f _ (k.reserved.trans rfl) (k.linkLaw (linkLaw_begin hf hl)),
      fun hr => o.2.1 (k.rosterLaw hr), fun hq => o.2.2.1 (k.queuesLaw hq), fun hc => o.2.2.2.1 (k.condLaw hc),
      fun hu => o.2.2.2.2 (k.roleLaw hu)⟩
  · exact ⟨rfl, id, id, id, id, id⟩

/-! ## Tables -/

theorem inner_clampEntry (i : Slot) (c : WellCfg) (s : State) : Inner d s (clampEntry i c s) := by
  unfold clampEntry
  refine Inner.modSeg s _ _ fun q => q.map _ fun e _ => ?_
  split <;> exact ⟨rfl, rfl⟩

theorem inner_clampPending (i : Slot) (c : WellCfg) (s : State) : Inner d s (clampPending i c s) :=
  inner_modWell s i _ fun _ => rfl

theorem laws_liveChange (i : Slot) (w : Well) (c : WellCfg) (s : State) : KeepsLaws s (liveChange i w c s) := by
  unfold liveChange
  simp only
  have k := laws_putWell s i (some { w with cfg := c })
  split
  · exact k
  · exact ((k.trans (inner_clampEntry (d := True) i c _).keeps.laws).trans (inner_clampPending (d := True) i c _).keeps.laws).trans
      (inner_rangeChangeSet (d := True) i _).keeps.laws

/-- Forgetting a POLL touches the transactions alone. -/
theorem keeps_forgetPoll (i : Slot) (s : State) : Keeps s (forgetPoll i s) := by
  refine Keeps.quiet rfl rfl rfl rfl rfl rfl rfl rfl rfl (fun g => ?_) fun g => ?_
  all_goals
    unfold State.seg forgetPoll
    rw [PerSeg.get_map]
  exact id

theorem laws_park (i : Slot) (w : Well) (c : WellCfg) (s : State) : KeepsLaws s (park i w c s) :=
  ((((keeps_forgetPoll i s).laws.trans (laws_putWell _ i _)).trans (inner_removeEntry (d := True) _ _ _).keeps.laws).trans (keeps_runEvals _).laws).trans
    (inner_withdrawSlot (d := True) _ _).keeps.laws

theorem laws_loadSlot (x : WellLoad) (s : State) : KeepsLaws s (loadSlot x s) := by
  unfold loadSlot
  split
  · exact laws_putWell _ _ _
  · split
    · exact laws_liveChange _ _ _ _
    · exact laws_park _ _ _ _

theorem laws_runLoadWell (f : PlantFrame) (s : State) : KeepsLaws s (runLoadWell f s).state := by
  unfold runLoadWell
  split
  · exact KeepsLaws.refl s
  · split
    · exact KeepsLaws.refl s
    · split
      · exact KeepsLaws.refl s
      · split
        · exact KeepsLaws.refl s
        · exact laws_loadSlot _ _

theorem laws_vacate (i : Slot) (w : Well) (s : State) : KeepsLaws s (vacate i w s) :=
  (((keeps_forgetPoll i s).laws.trans (laws_putWell _ i none)).trans (inner_removeEntry (d := True) _ _ _).keeps.laws).trans (inner_withdrawSlot (d := True) _ _).keeps.laws

theorem laws_runVacate (f : PlantFrame) (s : State) : KeepsLaws s (runVacate f s).state := by
  unfold runVacate
  split
  · exact KeepsLaws.refl s
  · split
    · exact KeepsLaws.refl s
    · split
      · exact KeepsLaws.refl s
      · exact laws_vacate _ _ _

theorem laws_writeSegment (g : Seg) (x : SegSettings) (s : State) : KeepsLaws s (writeSegment g x s) := by
  refine ⟨rfl, rfl, id, id, fun h k => ?_, id, id⟩
  unfold writeSegment
  rw [State.seg_modSeg]
  split
  · exact h g
  · exact h k

theorem inner_timeOutAged (limit : Nat) (l : List (Slot × MoveRec)) (s : State) : Inner True s (timeOutAged limit l s) := by
  induction l generalizing s with
  | nil => exact Inner.refl s
  | cons m rest ih =>
    unfold timeOutAged
    refine Inner.trans ?_ (ih _)
    split
    · exact inner_timeOutMove _ _
    · exact Inner.refl s

theorem laws_loadSegment (g : Seg) (x : SegSettings) (s : State) : KeepsLaws s (loadSegment g x s) := by
  unfold loadSegment
  simp only
  split
  · exact (laws_writeSegment g x s).trans (inner_timeOutAged _ _ _).keeps.laws
  · exact laws_writeSegment g x s

theorem laws_runLoadSegment (f : PlantFrame) (s : State) : KeepsLaws s (runLoadSegment f s).state := by
  unfold runLoadSegment
  split
  · exact KeepsLaws.refl s
  · exact laws_loadSegment _ _ s

theorem keeps_silenceAtLoad (s : State) : Keeps s (silenceAtLoad s) := by
  unfold silenceAtLoad
  split
  · split
    · exact keeps_takeover s
    · exact Keeps.refl s
  · exact Keeps.refl s

theorem keepsLaws_ite {s a b : State} {p : Prop} [Decidable p] (ha : KeepsLaws s a) (hb : KeepsLaws s b) :
    KeepsLaws s (if p then a else b) := by
  split
  · exact ha
  · exact hb

theorem laws_loadSite (x : SiteSettings) (s : State) : KeepsLaws s (loadSite x s) := by
  unfold loadSite
  simp only
  refine keepsLaws_ite ?_ (KeepsLaws.trans ?_ (keeps_silenceAtLoad _).laws)
  all_goals
    refine KeepsLaws.trans ?_ (inner_tripsChanged (d := True) _ _).keeps.laws
    refine keepsLaws_ite ?_ (KeepsLaws.trans ?_ (keeps_modBalancer _ _).laws)
  all_goals
    refine KeepsLaws.trans ?_ (keeps_trips _ _).laws
    refine keepsLaws_ite (laws_setSite s x) ?_
    exact ((keeps_modBalancer s _).laws.trans (laws_setSite _ x)).trans (keeps_modBalancer _ _).laws

theorem laws_runLoadSite (f : PlantFrame) (s : State) : KeepsLaws s (runLoadSite f s).state := by
  unfold runLoadSite
  split
  · exact KeepsLaws.refl s
  · exact laws_loadSite _ s

theorem keeps_runUnlock (f : PlantFrame) (s : State) : Keeps s (runUnlock f s).state := by
  unfold runUnlock
  split <;> exact Keeps.refl s

theorem laws_runUnlock (f : PlantFrame) (s : State) : KeepsLaws s (runUnlock f s).state := (keeps_runUnlock f s).laws

theorem laws_loadLimits (x : Limits) (s : State) : KeepsLaws s (loadLimits x s) := by
  unfold loadLimits
  simp only
  refine KeepsLaws.trans ?_ (inner_tripsChanged (d := True) _ _).keeps.laws
  exact (laws_setLimits s x).trans (keeps_trips _ _).laws

theorem laws_modLinkCounters (s : State) (f : LinkCounters → LinkCounters) : Keeps s (s.modLinkCounters f) :=
  Keeps.modLink s _ ⟨rfl, rfl, rfl, rfl⟩ fun h => h

theorem laws_runLoadLimits (f : PlantFrame) (s : State) : KeepsLaws s (runLoadLimits f s).state := by
  unfold runLoadLimits
  split
  · split
    · exact KeepsLaws.refl s
    · exact laws_loadLimits _ s
  · dsimp only [refuse]
    exact (laws_modLinkCounters s _).laws

theorem parseCondition_level {p : List Byte} {x : CondKind × KindSetting} (h : parseCondition p = some x) :
    x.2.level ≤ 7 := by
  unfold parseCondition at h
  simp only [Option.bind_eq_bind, Option.bind_eq_some_iff] at h
  obtain ⟨k, _, l, hl, m, _, he⟩ := h
  cases he
  unfold within at hl
  split at hl
  · rename_i hc
    cases hl
    exact hc.2
  · cases hl

theorem laws_loadCondition (k : CondKind) (x : KindSetting) (s : State) (hx : x.level ≤ 7) :
    KeepsLaws s (loadCondition k x s) := by
  unfold loadCondition
  split
  · exact KeepsLaws.refl s
  · refine KeepsLaws.trans (t := s.modConds _) ?_ (inner_evalTaking (d := True) _).keeps.laws
    exact ⟨rfl, rfl, id, id, id, fun h => h.setKind k x hx, id⟩

theorem laws_runLoadCondition (f : PlantFrame) (s : State) : KeepsLaws s (runLoadCondition f s).state := by
  unfold runLoadCondition
  split
  · exact KeepsLaws.refl s
  · rename_i x hx
    exact laws_loadCondition _ _ s (parseCondition_level hx)

/-! ## READ -/

theorem keeps_clearTarget (t : ReadTarget) (s : State) : Keeps s (clearTarget t s) := by
  cases t with
  | segment g =>
    unfold clearTarget clearSegment
    exact Keeps.modSeg' _ _ _ fun _ => rfl
  | link =>
    dsimp only [clearTarget]
    exact laws_modLinkCounters s _
  | _ => exact Keeps.refl s

theorem keeps_runRead (f : PlantFrame) (s : State) : Keeps s (runRead f s).state := by
  unfold runRead
  split
  · exact Keeps.refl s
  · show Keeps s (if _ then _ else _)
    split
    · exact (keeps_clearTarget _ s)
    · exact Keeps.refl s

theorem laws_runRead (f : PlantFrame) (s : State) : KeepsLaws s (runRead f s).state := (keeps_runRead f s).laws

/-! ## Control -/

theorem keeps_runDemand (f : PlantFrame) (s : State) : Keeps s (runDemand f s).state := by
  unfold runDemand
  split
  · exact Keeps.refl s
  · dsimp only [accept]
    exact (keeps_modBalancer _ _)

theorem laws_runDemand (f : PlantFrame) (s : State) : KeepsLaws s (runDemand f s).state := (keeps_runDemand f s).laws

theorem inner_holdQueue (s : State) (g : Seg) : Inner d s (holdQueue s g) :=
  (Inner.modSeg s g _ fun q => q.filter _).trans (inner_leaveAll _ _)

theorem laws_setMode (m : Mode) (s : State) : KeepsLaws s (setMode m s) := ⟨rfl, rfl, id, id, id, id, id⟩

theorem laws_changeMode (m : Mode) (s : State) : KeepsLaws s (changeMode m s) := by
  unfold changeMode
  split
  · exact (laws_setMode _ _).trans ((inner_foldSegs (d := True) _ inner_holdQueue _ _).keeps.trans (inner_examineAll (d := True) _).keeps).laws
  · exact laws_setMode _ _
  · exact KeepsLaws.refl s
  · exact KeepsLaws.refl s

theorem laws_runMode (f : PlantFrame) (s : State) : KeepsLaws s (runMode f s).state := by
  unfold runMode
  split
  · exact KeepsLaws.refl s
  · exact laws_changeMode _ s

theorem keeps_forceWell (i : Slot) (t : Nat) (o : Line) (s : State) : Keeps s (forceWell i t o s) := by
  unfold forceWell
  refine Keeps.trans ?_ (inner_arriveOther (d := True) i t o .forced _ (by decide)).keeps
  exact keeps_modWell s i _ fun _ => rfl

theorem keeps_runForce (f : PlantFrame) (s : State) : Keeps s (runForce f s).state := by
  unfold runForce
  repeat' split
  all_goals first
    | exact Keeps.refl s
    | exact (keeps_forceWell _ _ _ s)

theorem laws_runForce (f : PlantFrame) (s : State) : KeepsLaws s (runForce f s).state := (keeps_runForce f s).laws

theorem keeps_runRelease (f : PlantFrame) (s : State) : Keeps s (runRelease f s).state := by
  unfold runRelease
  repeat' split
  all_goals first
    | exact Keeps.refl s
    | (refine Keeps.trans (t := modWell s _ _) ?_ (Keeps.refl _)
       exact keeps_modWell s _ _ fun _ => rfl)

theorem laws_runRelease (f : PlantFrame) (s : State) : KeepsLaws s (runRelease f s).state := (keeps_runRelease f s).laws

theorem inner_clearTop (r : CondRec) (s : State) : Inner d s (clearTop r s) :=
  ((Inner.modConds s _ fun h => h.tailStack).trans (inner_removalEffects _ _)).trans (inner_evalTaking _)

theorem keeps_runClear (f : PlantFrame) (s : State) : Keeps s (runClear f s).state := by
  unfold runClear
  repeat' split
  all_goals first
    | exact Keeps.refl s
    | exact (inner_clearTop (d := True) _ s).keeps

theorem laws_runClear (f : PlantFrame) (s : State) : KeepsLaws s (runClear f s).state := (keeps_runClear f s).laws

theorem inner_dismissRec (r : CondRec) (s : State) : Inner d s (dismissRec r s) :=
  ((Inner.modConds s _ fun h => h.filterWaiting _).trans (inner_removalEffects _ _)).trans (inner_evalTaking _)

theorem keeps_runDismiss (f : PlantFrame) (s : State) : Keeps s (runDismiss f s).state := by
  unfold runDismiss
  repeat' split
  all_goals first
    | exact Keeps.refl s
    | exact (inner_dismissRec (d := True) _ s).keeps

theorem laws_runDismiss (f : PlantFrame) (s : State) : KeepsLaws s (runDismiss f s).state := (keeps_runDismiss f s).laws

theorem keeps_runBudgetReset (f : PlantFrame) (s : State) : Keeps s (runBudgetReset f s).state := by
  unfold runBudgetReset
  split
  · exact Keeps.refl s
  · exact (inner_budgetReset _ s).keeps

theorem laws_runBudgetReset (f : PlantFrame) (s : State) : KeepsLaws s (runBudgetReset f s).state := (keeps_runBudgetReset f s).laws

end Sys2Proof.Machine
end

