-- ==== Sys2Proof/Laws/Events.lean ====
section
/-! SUPPORT. The laws over the resets and the Plant Link's own events, and evaluations asked for: after `runEvals` none is left, and
the operations below the commands ask for none. -/

-- One theorem at a time: the one-text build of the package runs out of threads otherwise.
set_option Elab.async false

namespace Sys2Proof.Machine

/-- The five laws kept. -/
structure LawsKept (s t : State) : Prop where
  linkLaw : LinkLaw s.link → LinkLaw t.link
  rosterLaw : RosterLaw s → RosterLaw t
  queuesLaw : QueuesLaw s → QueuesLaw t
  condLaw : CondLaw s.conds → CondLaw t.conds
  roleLaw : RoleLaw s.unit → RoleLaw t.unit

theorem Keeps.kept {s t : State} (k : Keeps s t) : LawsKept s t :=
  ⟨k.linkLaw, k.rosterLaw, k.queuesLaw, k.condLaw, k.roleLaw⟩

/-- A command that has no effect while RESET is held keeps the laws when its effect does. -/
theorem kept_whileRunning {f : State → State} (h : ∀ s, LawsKept s (f s)) (s : State) : LawsKept s (whileRunning f s) := by
  unfold whileRunning
  split
  · exact ⟨id, id, id, id, id⟩
  · exact h s

theorem kept_executeFrame (accepts : PlantFrame → Bool) (run : PlantFrame → State → Answer)
    (h : ∀ f s, KeepsLaws s (run f s).state) (s : State) : LawsKept s (executeFrame accepts run s) := by
  have := laws_executeFrame accepts run h s
  exact ⟨this.2.1, this.2.2.1, this.2.2.2.1, this.2.2.2.2.1, this.2.2.2.2.2⟩

theorem reset_well (i : Slot) : State.reset.well i = none := by
  unfold State.well State.reset
  simp

/-- Power-on values obey every law but the role's, which the Role Unit's own start has. -/
theorem powerOn_kept (h b : Bool) (s : State) : LawsKept s (powerOn h b s) := by
  have hw : ∀ i, (powerOn h b s).well i = none := fun i => reset_well i
  refine ⟨fun _ => ⟨Nat.zero_le _, Nat.zero_le _, Nat.zero_le _⟩, fun _ l => ?_, fun _ g => ?_, fun _ => ?_, fun _ => ?_⟩
  · have e : (powerOn h b s).rosters.get l = [] := by cases l <;> rfl
    rw [e]
    refine ⟨List.nodup_nil, fun i => ?_, List.Pairwise.nil⟩
    rw [hw]
    simp [rosterLine]
  · cases g <;> exact QueueLaw.nil
  · refine ⟨List.nodup_nil, fun k => ?_, fun r hr => ?_, List.Pairwise.nil, List.Pairwise.nil⟩
    · show (Conditions.reset.setting k).level ≤ 7
      cases k <;> decide
    · exact absurd hr (by simp [powerOn, State.reset, Conditions.reset])
  · simp [powerOn, RoleUnit.start, RoleLaw]

theorem receivePlant_kept (f : PlantFrame) (s : State) : LawsKept s (receivePlant f s) := by
  unfold receivePlant countLinkError
  split
  · exact (laws_modLinkCounters s _).kept
  · split
    · rename_i hl
      refine ⟨fun h => ⟨h.1, h.2.1, ?_⟩, id, id, id, id⟩
      simpa [State.modLink] using hl
    · exact (laws_modLinkCounters s _).kept

theorem uplinkSent_kept (s : State) : LawsKept s (uplinkSent s) :=
  ⟨fun h => LinkLaw.pump (k := { s.link with transmitter := none }) ⟨h.1, h.2.1, h.2.2⟩, id, id, id, id⟩

theorem restarted_well (s : State) (i : Slot) : (restarted s).well i = (s.well i).map Well.restarted := by
  unfold State.well restarted
  simp

theorem rosterLine_fresh (c : WellCfg) (l : Line) : rosterLine (some (Well.fresh c l)) = none := by
  rw [rosterLine_some]
  simp [Well.fresh]

/-- What RESTART makes of the Well Table, the queues, the conditions and the role obeys their laws (R31, R127, R152, R188). -/
theorem restarted_laws (s : State) :
    RosterLaw (restarted s) ∧ QueuesLaw (restarted s) ∧ (CondLaw s.conds → CondLaw (restarted s).conds) ∧
      RoleLaw (restarted s).unit := by
  refine ⟨fun l => ?_, fun g => ?_, fun h => ?_, ?_⟩
  · have e : (restarted s).rosters.get l = [] := by cases l <;> rfl
    rw [e]
    refine ⟨List.nodup_nil, fun i => ?_, List.Pairwise.nil⟩
    rw [restarted_well]
    cases s.well i with
    | none => simp [rosterLine]
    | some w => simp [Well.restarted, rosterLine_fresh]
  · cases g <;> exact QueueLaw.nil
  · refine ⟨?_, h.2.1, ?_, ?_, ?_⟩ <;> simp [restarted, Conditions.restarted]
  · simp [restarted, RoleUnit.start, RoleLaw]

theorem keeps_offInputsAtRestart (s : State) : Keeps s (offInputsAtRestart s) :=
  ((keeps_followOff _).trans (inner_tripsChanged (d := True) _ _).keeps).trans (keeps_runEvals _)

theorem executeRestart_kept (s : State) : LawsKept s (executeRestart s) := by
  unfold executeRestart
  split
  · rename_i f hf
    have k := keeps_offInputsAtRestart (finishExecution f (accept (restarted (beginExecution s))))
    have o := laws_finish_others f (accept (restarted (beginExecution s)))
    have r := restarted_laws (beginExecution s)
    refine ⟨fun _ => k.linkLaw (linkLaw_finish f _ rfl ?_), fun _ => k.rosterLaw (o.2.1 r.1),
      fun _ => k.queuesLaw (o.2.2.1 r.2.1), fun h => k.condLaw (o.2.2.2.1 (r.2.2.1 h)), fun _ => k.roleLaw (o.2.2.2.2 r.2.2.2)⟩
    show LinkLaw (Link.restarted _)
    refine ⟨Nat.zero_le _, ?_, Nat.zero_le _⟩
    simp [Link.restarted, Link.reset, Link.routineFill, beginExecution, State.modLink, Config.routineCap]
  · exact ⟨id, id, id, id, id⟩

/-! ## Evaluations asked for -/

/-- After the evaluations of an event none is left. -/
theorem settled_runEvals (s : State) : Settled (runEvals s) := by
  unfold runEvals Settled
  simp only
  split <;> split <;> simp [(inner_evaluateLine (d := True) _ _).evalAsked]

/-- With none asked for, the end of the event changes nothing. -/
theorem runEvals_settled {s : State} (h : Settled s) : runEvals s = s := by
  unfold runEvals
  simp only [show s.evalAsked = .all false from h, PerLine.all, Bool.false_eq_true, if_false]
  exact congrArg (fun x => ({ s with evalAsked := x } : State)) h.symm

/-- An operation below the commands leaves none asked for. -/
theorem Inner.settled {d : Prop} {s t : State} (k : Inner d s t) (h : Settled s) : Settled t := k.evalAsked.trans h

theorem settled_finishExecution (f : PlantFrame) (a : Answer) : Settled (finishExecution f a) := settled_runEvals a.state

end Sys2Proof.Machine
end

