-- ==== Sys2Proof/Tests/Slice0.lean ====
section
/-! SUPPORT. Tests: the check and the formats, the well-formedness smoke test, a few worked figures of the manual, and for every
statement with hypotheses one theorem that shows states and operands meeting them (`test_meets_<Name>`). -/

-- One theorem at a time: the one-text build of the package runs out of threads otherwise.
set_option Elab.async false

open Sys2Proof Sys2Proof.Machine

namespace Sys2Proof.Tests

/-! ## Small states -/

/-- A plant frame as it stands in the receive buffer; its check has been made already. -/
def plant (kind : Byte) (p : List Byte) : PlantFrame := ⟨kind, 7#8, p, 0#16⟩

/-- The state with frame `f` alone in the receive buffer. -/
def given (f : PlantFrame) (s : State) : State := { s with link := { s.link with buffer := [f] } }

/-- Reset, with the role DUTY. -/
def duty : State := { State.reset with unit := ⟨.duty, false, none, none⟩ }

/-- A configuration at address 12 on segment A. -/
def cfg12 : WellCfg := ⟨12, .a, true, .both, 100, 900, 40, 20, 520, 6, 10, 180, 300⟩

/-- A sample taken at time 0. -/
def sample12 : Sample := ⟨some ⟨500, 300, 10, 190⟩, -500, some 40, 300, true, 400, false, [], 0⟩

/-- A TRACKING well. -/
def well12 : Well := ⟨cfg12, .engine, some 400, some sample12, true, 0, false, .empty, ⟨0, 0, 0, 0⟩, none, none⟩

/-- The state `s` with slot 12 alone loaded, with record `w`, on the ENGINE roster. -/
def one (w : Well) (s : State) : State :=
  { s with wells := (Vector.replicate 96 none).set 12 (some w), rosters := ⟨[12], []⟩ }

theorem one_well (w : Well) (s : State) (j : Slot) : (one w s).well j = if j = 12 then some w else none := by
  unfold State.well one
  simp only [Vector.getElem_set, Vector.getElem_replicate]
  by_cases h : j = 12
  · subst h; rfl
  · have : ¬ 12 = j.val := fun e => h (Fin.ext e.symm)
    simp [h, this]

/-- Segment A of `s` changed. -/
def segA (f : Segment → Segment) (s : State) : State := s.modSeg .a f

/-- A POLL or SET of slot 12 whose reply window is open. -/
def inFlight (k : TxnKind) : Txn := ⟨k, some 12, 12, 0, 200, some 0, ⟨some 0, none, 0, true⟩⟩

/-- A frame of the wellhead at address 12 to address 250. -/
def reply (kind : Nat) (p : List Byte) : FieldFrame := .make 12 250 kind p

/-- A SAMPLE payload of 14 bytes with no block present. -/
def bareSample : List Byte := List.replicate 14 0

/-- A frame for the uplink. -/
def upFrame : Uplink := .line State.reset.lineSummary

/-! ## Formats -/

theorem test_check_of_123456789 :
    crc [0x31#8, 0x32#8, 0x33#8, 0x34#8, 0x35#8, 0x36#8, 0x37#8, 0x38#8, 0x39#8] = 0x6F91#16 := by decide +kernel

theorem test_address_bytes : addressByte 118 = 0x6E#8 ∧ addressByte 251 = 0xDF#8 ∧ addressOf 0x6E#8 = 118 := by decide

theorem test_poll_frame_characters :
    (FieldFrame.poll 250 118).characters.take 5 = [0x5A#8, 0x5F#8, 0x6E#8, 1#8, 0#8] := by decide +kernel

/-- An absent field is sent as zeros behind its flag, in the width of a present one (R209). -/
theorem test_absent_fields_keep_their_width :
    optional 2 byte2 none = [0, 0, 0] ∧ (optional 26 Sample.bytes none).length = (optional 26 Sample.bytes sample12).length ∧
      (CondRec.bytes ⟨.hotGas, 12, 0, 0, none, 0, some 61, none, true⟩).length = 24 := by decide +kernel

theorem test_no_row_gives_bits : decodeTableWord 16 0 = none ∧ State.reset.withFetchWord 16 0 = State.reset := by
  exact ⟨rfl, rfl⟩

/-! ## Well-formedness -/

theorem test_long_plant_frame_refused :
    Instr.wellFormed (.plantFrameReceived (plant 1 (List.replicate 241 0))) = false := by decide +kernel

theorem test_winner_beyond_a_byte_refused : Instr.wellFormed (.arbitrationLoss .a 256) = false := by decide

theorem test_sample_row_refuses_an_echo : Instr.wellFormed (.sample .a (reply 4 [0, 0, 1])) = false := by decide +kernel

theorem test_echo_row_refuses_a_sample : Instr.wellFormed (.echo .a (reply 2 bareSample)) = false := by decide +kernel

theorem test_other_controller_row_refuses_a_wellhead :
    Instr.wellFormed (.otherControllerFrame .a (reply 2 bareSample)) = false := by decide +kernel

theorem test_stray_row_refuses_a_controller : Instr.wellFormed (.strayFrame .a (.make 251 12 1 [])) = false := by
  decide +kernel

theorem test_check_failure_row_refuses_a_good_check :
    Instr.wellFormed (.fieldCheckFailure .a (reply 2 bareSample)) = false := by decide +kernel

theorem test_wrong_kind_row_refuses_a_bad_check : Instr.wellFormed (.replyOfWrongKind .a ⟨0, 0, 0, [], 0⟩) = false := by
  decide +kernel

theorem test_own_address_row_refuses_a_wellhead :
    Instr.wellFormed (.ownAddressFrame .a (reply 2 bareSample)) = false := by decide +kernel

theorem test_rows_take_their_frames :
    Instr.wellFormed (.plantFrameReceived (plant 1 (List.replicate 240 0))) = true ∧
      Instr.wellFormed (.arbitrationLoss .a 255) = true ∧ Instr.wellFormed (.sample .a (reply 2 bareSample)) = true ∧
      Instr.wellFormed (.echo .a (reply 4 [0, 0, 1])) = true ∧
      Instr.wellFormed (.otherControllerFrame .a (.make 251 12 1 [])) = true ∧
      Instr.wellFormed (.strayFrame .a (reply 9 [])) = true ∧
      Instr.wellFormed (.fieldCheckFailure .a ⟨0, 0, 0, [], 0⟩) = true ∧
      Instr.wellFormed (.replyOfWrongKind .a (reply 9 [])) = true ∧
      Instr.wellFormed (.ownAddressFrame .a (.make 250 12 1 [])) = true := by decide +kernel

/-! ## Worked figures of the manual -/

/-- Slot 5 of 11_worked_sequences.md 11.1: e = 15, d = 30, n = 530, APPLIED. -/
theorem test_trim_of_sequence_11_1 :
    let c : WellCfg := { cfg12 with pmin := 150, pmax := 850, ch4Target := 480, deadband := 8, step := 30, gain := 32, o2Soft := 20 }
    let x : GasBlock := gasBlockOf 495 360 14
    x.balance = 131 ∧ trimError c x = 15 ∧ rawStep c 15 = 30 ∧ trimTarget c 500 15 = 530 ∧
      trimOutcomeOf c 500 15 = .applied := by decide +kernel

/-- The blends of 11_worked_sequences.md 11.2. -/
theorem test_blends_of_sequence_11_2 :
    blend 1024000 2200 = some 465 ∧ blend 996000 2200 = some 452 ∧ blend 37600 2200 = some 17 ∧
      blend 801000 1700 = some 471 := by decide

/-- The lean order of R18: CH4 first, then the higher O2, then the slot; no gas block stands rich. -/
theorem test_lean_order :
    leanBefore (some ⟨390, 0, 30, 0⟩) 33 (some ⟨470, 0, 18, 0⟩) 19 = true ∧
      leanBefore (some ⟨470, 0, 30, 0⟩) 33 (some ⟨470, 0, 18, 0⟩) 19 = true ∧
      leanBefore (some ⟨470, 0, 18, 0⟩) 19 (some ⟨470, 0, 18, 0⟩) 33 = true ∧
      leanBefore none 0 (some ⟨999, 0, 0, 0⟩) 95 = false := by decide

/-- An accepted sample of a TRACKING well in RUN makes its trim SET (R39, R66). -/
theorem test_sample_makes_a_trim_set :
    let s : State := segA (fun q => { q with txn := some (inFlight .poll) })
      (one well12 { duty with link := { duty.link with mode := .run } })
    let f := reply 2 ([3#8] ++ leBytes 2 552 ++ leBytes 2 300 ++ leBytes 2 10 ++ leSigned 2 (-500) ++ [40#8] ++
      leBytes 2 0 ++ leBytes 2 400)
    (receiveFrame .a f s).segs.a.queue = [⟨12, 440, .engine, .trim, false⟩] := by decide +kernel

/-! ## States and operands that meet the hypotheses -/

theorem ready_given (f : PlantFrame) (s : State) (h : s.held = false) (r : s.link.routine.length < 64)
    (e : s.evalAsked = .all false) : Ready (given f s) f [] := ⟨h, rfl, r, e⟩

/-- `Ready` on the test states. -/
theorem ready_duty (f : PlantFrame) : Ready (given f duty) f [] := ready_given f duty rfl (by decide) rfl

/-- See `ready_duty`. -/
theorem ready_one (f : PlantFrame) (w : Well) : Ready (given f (one w duty)) f [] := ready_given f _ rfl (show 0 < 64 by decide) rfl

/-- See `ready_duty`. -/
theorem ready_reset (f : PlantFrame) : Ready (given f State.reset) f [] := ready_given f _ rfl (by decide) rfl

theorem duty_well (j : Slot) : duty.well j = none := reset_well j

theorem test_meets_StepRunsFrontCommand :
    ∃ (c : Instr) (rest : List Instr) (s : State), s.pending = c :: rest :=
  ⟨.reportTimer, [], { State.reset with pending := [.reportTimer] }, rfl⟩

theorem test_meets_EveryStepCompletes :
    (∃ s : State, s.pending = [] ∧ s.held = false) ∧ ∃ s : State, s.pending = [] ∧ s.held = true :=
  ⟨⟨State.reset, rfl, rfl⟩, ⟨{ State.reset with held := true }, rfl, rfl⟩⟩

theorem test_meets_ResetCommandsRestoreThePowerOnValues :
    ∃ (c : Instr) (s : State), s.held = true ∧ (∀ h, c ≠ .resetReleased h) ∧ c ≠ .resetAsserted ∧
      ∀ x h, c ≠ .tripInputChange x h :=
  ⟨.loadWell, { State.reset with held := true }, rfl, by simp, by simp, by simp⟩

/-- A frame with a good check and `n` bytes of payload. -/
def good (n : Nat) : PlantFrame := .make 7 1 (List.replicate n 0)

theorem good_check (n : Nat) : (good n).checkGood = true := by simp [good, PlantFrame.make, PlantFrame.checkGood, PlantFrame.covered]

theorem good_length (n : Nat) : (good n).payload.length = n := List.length_replicate

theorem test_meets_PlantFramesAreBuffered :
    State.reset.held = false ∧ ((good 240).payload.length ≤ 240 ∧ (good 240).checkGood = true) ∧
      (({ State.reset with link := { Link.reset with buffer := List.replicate 7 (good 4) } } : State).link.buffer.length < 8) ∧
      8 ≤ ({ State.reset with link := { Link.reset with buffer := List.replicate 8 (good 4) } } : State).link.buffer.length ∧
      240 < (good 241).payload.length ∧ (⟨1, 1, [], 0⟩ : PlantFrame).checkGood = false :=
  ⟨rfl, ⟨(good_length 240).le, good_check 240⟩, by decide, by decide, by rw [good_length]; decide, by decide +kernel⟩

theorem test_meets_EveryExecutionIsAnsweredOnce :
    (∃ (s : State) (f : PlantFrame) (rest : List PlantFrame), Ready s f rest ∧ takes .unlock f = true ∧ takes .demand f = false) ∧
      (∃ s : State, 64 ≤ s.link.routine.length) ∧
      ∃ (s : State) (f : PlantFrame) (rest : List PlantFrame), Ready s f rest ∧ f.wellShaped = false :=
  ⟨⟨_, plant 4 [1], [], ready_duty _, by decide, by decide⟩,
    ⟨{ State.reset with link := { Link.reset with routine := List.replicate 64 (.line State.reset.lineSummary) } }, by decide⟩,
    ⟨_, plant 16 [], [], ready_duty _, by decide⟩⟩

theorem test_meets_UnlockNamesGroupOne :
    ∃ f g : PlantFrame, Ready (given f duty) f [] ∧ f.isKind 4 = true ∧ byteAt f.payload 0 = 1 ∧
      Ready (given g duty) g [] ∧ g.isKind 4 = true ∧ byteAt g.payload 0 ≠ 1 :=
  ⟨plant 4 [1], plant 4 [0], ready_duty _, by decide, by decide, ready_duty _, by decide, by decide⟩

/-- The payload of LOAD LIMITS that repeats the reset values, with hot gas limit `hot`. -/
def limitsLoad (hot : Byte) : List Byte := [hot, 60, 0, 6, 255, 0xC2, 1, 40, 180, 0, 0, 0]

theorem test_meets_LoadLimitsWritesTheGroup :
    ∃ f g : PlantFrame, ∃ x : Limits, ∃ s : State, s.link.unlocked = true ∧ Ready (given f s) f [] ∧ f.isKind 5 = true ∧
      parseLimits f.payload = some x ∧ x.mask = s.limits.mask ∧ x.activeLow = s.limits.activeLow ∧
      s.balancer.lineLost = s.combination ∧ s.balancer.flareFault = s.trips.flareFault.accepted ∧
      Ready (given g s) g [] ∧ g.isKind 5 = true ∧ parseLimits g.payload = none ∧
      Ready (given f duty) f [] ∧ duty.link.unlocked = false :=
  ⟨plant 5 (limitsLoad 120), plant 5 (limitsLoad 121), { Limits.reset with hotGas := 120 },
    { duty with link := { duty.link with unlocked := true } }, rfl, ready_given _ _ rfl (by decide) rfl, by decide, by decide,
    rfl, rfl, by decide, rfl, ready_given _ _ rfl (by decide) rfl, by decide, by decide, ready_duty _, rfl⟩

/-- The limit group with TRIP0 alone in the mask. -/
def maskedLimits : Limits := { Limits.reset with mask := ⟨true, false, false, false, false⟩ }

/-- `duty` unlocked, TRIP0's accepted state ACTIVE, its pin high. -/
def tripped : State :=
  { duty with
    link := { duty.link with unlocked := true }
    trips := duty.trips.put .trip0 ⟨true, true, none, 0, false⟩ }

/-- ENGINE LINE LOST in service. -/
def engineRecord : Conditions :=
  { Conditions.reset with stack := [⟨.engineLineLost, 96, 0, 0, some 0, 0, some 1, none, true⟩] }

/-- Line-lost status set, ENGINE LINE LOST in service. -/
def engineStays (s : State) : State := { s with balancer := { s.balancer with lineLost := true }, conds := engineRecord }

theorem engine_record_lawful : CondLaw engineRecord := by
  refine ⟨by decide, fun k => ?_, by decide, by decide, by decide⟩
  cases k <;> decide

theorem test_meets_LoadLimitsWritesTheGroup_changes :
    (Limits.reset.InRange ∧ maskedLimits.InRange ∧ parseLimits maskedLimits.bytes = some maskedLimits) ∧
    (Ready (given (plant 5 maskedLimits.bytes) tripped) (plant 5 maskedLimits.bytes) [] ∧
      (plant 5 maskedLimits.bytes).isKind 5 = true ∧ tripped.link.unlocked = true) ∧
    (tripped.combination = false ∧ (loadLimits maskedLimits tripped).combination = true ∧ tripped.balancer.lineLost = false ∧
      tripped.hasRec .engineLineLost 96 = false) ∧
    ((engineStays tripped).combination = false ∧ (loadLimits maskedLimits (engineStays tripped)).combination = true ∧
      (engineStays tripped).balancer.lineLost = true ∧ CondLaw (engineStays tripped).conds) ∧
    (let s : State := { tripped with balancer := { tripped.balancer with lineLost := true }, limits := maskedLimits }
     (loadLimits Limits.reset s).combination = false ∧ s.balancer.lineLost = true ∧ s.hasRec .engineLineLost 96 = false) ∧
    (loadLimits Limits.reset (engineStays tripped)).combination = false ∧ (engineStays tripped).hasRec .engineLineLost 96 = true :=
  ⟨⟨by simp [Limits.InRange, Limits.reset, PerTrip.fill], by simp [Limits.InRange, maskedLimits, Limits.reset, PerTrip.fill],
      by decide +kernel⟩,
    ⟨ready_given _ _ rfl (by decide) rfl, by decide, rfl⟩, by decide +kernel,
    ⟨by decide +kernel, by decide +kernel, by decide +kernel, engine_record_lawful⟩, by decide +kernel, by decide +kernel,
    by decide +kernel⟩

/-- The payload of LOAD SITE that repeats the reset values, but for the report interval, TRIP0's interval and the silence time. -/
def siteLoad (report trip0 silence : Byte) : List Byte :=
  [0x58, 2, 2, 3, 3, 2, 20, 120, 0, 30, 0, report, 0, 4, 4, 4, trip0, 3, 3, 3, 3, silence]

/-- The payload of LOAD SEGMENT for segment A with the reset values and a budget. -/
def segmentLoad (pattern : Byte) (budget : Nat) : List Byte := [1, pattern, 2, 200, 0, 3] ++ leBytes 2 budget ++ [120, 0, 10]

/-- Segment A of `duty`, its loaded bit rate still waiting for the next transmission. -/
def awaitingRate : State := segA (fun q => { q with rateInForce := .b9600 }) duty

theorem test_meets_LoadSiteAndLoadSegmentWriteTheSettings :
    (∃ f : PlantFrame, Ready (given f duty) f [] ∧ f.isKind 3 = true ∧ parseSite f.payload = none) ∧
    (∃ (f : PlantFrame) (x : SiteSettings), Ready (given f duty) f [] ∧ f.isKind 3 = true ∧ parseSite f.payload = some x ∧
      x.silence = duty.site.silence ∧ duty.balancer.lineLost = duty.combination ∧
      duty.balancer.flareFault = duty.trips.flareFault.accepted ∧
      (∀ k : Trip, x.intervals.get k = duty.site.intervals.get k ∨ x.intervals.get k ≠ .off) ∧
      x.reportInterval ≠ duty.site.reportInterval ∧ x.intervals.get .trip0 ≠ duty.site.intervals.get .trip0) ∧
    (∃ (s : State) (f : PlantFrame) (x : SiteSettings) (start : Nat), Ready (given f s) f [] ∧ f.isKind 3 = true ∧
      parseSite f.payload = some x ∧ s.unit.role = .standby ∧ s.unit.silenceStart = some start ∧ x.silence ≠ s.site.silence ∧
      x.silence * 1000 + (if s.unit.strapHigh then 1000 else 0) ≤ s.timeBase - start) ∧
    (∃ f : PlantFrame, Ready (given f duty) f [] ∧ f.isKind 2 = true ∧ parseSegment f.payload = none) ∧
    (∃ (f : PlantFrame) (g : Seg) (x : SegSettings), Ready (given f duty) f [] ∧ f.isKind 2 = true ∧
      parseSegment f.payload = some (g, x) ∧ (duty.seg g).txn = none ∧ (duty.seg g).settings.moveTimeout ≤ x.moveTimeout) ∧
    ∃ (f : PlantFrame) (g : Seg) (x : SegSettings), Ready (given f awaitingRate) f [] ∧ f.isKind 2 = true ∧
      parseSegment f.payload = some (g, x) ∧ (awaitingRate.seg g).txn = none ∧ x = (awaitingRate.seg g).settings ∧
      x.rate ≠ (awaitingRate.seg g).rateInForce :=
  ⟨⟨plant 3 (siteLoad 0 3 3), ready_duty _, by decide, by decide⟩,
    ⟨plant 3 (siteLoad 11 7 3), { SiteSettings.reset with reportInterval := 11, intervals := ⟨.s16, .s1, .s1, .s1, .s1⟩ },
      ready_duty _, by decide, by decide, rfl, by decide, rfl, fun k => by cases k <;> decide, by decide, by decide⟩,
    ⟨{ State.reset with timeBase := 1000 }, plant 3 (siteLoad 10 3 1), { SiteSettings.reset with silence := 1 }, 0,
      ready_given _ _ rfl (by decide) rfl, by decide, by decide, rfl, rfl, by decide, by decide⟩,
    ⟨plant 2 (segmentLoad 0xFF 600), ready_duty _, by decide, by decide⟩,
    ⟨plant 2 (segmentLoad 0x55 50), .a, { SegSettings.reset with budget := 50 }, ready_duty _, by decide, by decide, rfl,
      by decide⟩,
    ⟨plant 2 (segmentLoad 0x55 600), .a, SegSettings.reset, ready_given _ _ rfl (show 0 < 64 by decide) rfl, by decide, by decide, rfl,
      rfl, by decide⟩⟩

/-- A load form with these leading fields and the rest of `cfg12`. -/
def wellLoad (slot address seg service permitted outlet : Byte) : List Byte :=
  [slot, address, seg, service, permitted, outlet, 100, 0, 0x84, 3, 40, 20, 8, 2, 6, 10, 180, 0, 44, 1]

/-- The form's values. -/
def loaded (slot : Slot) (address : Nat) (service : Bool) (permitted : Permit) (outlet : Line) : WellLoad :=
  ⟨slot, { cfg12 with address := address, inService := service, permitted := permitted }, outlet⟩

theorem test_meets_LoadSiteAndLoadSegmentWriteTheSettings_ranges :
    SiteSettings.reset.InRange ∧ SegSettings.reset.InRange ∧ (loaded 12 12 true .both .engine).cfg.InRange ∧
      parseSite (siteLoad 10 0 3) = some { SiteSettings.reset with intervals := ⟨.off, .s1, .s1, .s1, .s1⟩ } ∧
      parseCondition [11, 7, 1] = some (.roleConflict, ⟨7, true⟩) :=
  ⟨⟨by decide, fun k => by cases k <;> decide, by decide⟩, by unfold SegSettings.InRange; decide, by unfold WellCfg.InRange; decide,
    by decide +kernel, by decide⟩

theorem test_meets_LoadConditionRelevelsPendingRecords :
    (∃ f : PlantFrame, Ready (given f duty) f [] ∧ f.isKind 6 = true ∧ parseCondition f.payload = none) ∧
    (∃ f : PlantFrame, ∃ k x, Ready (given f duty) f [] ∧ f.isKind 6 = true ∧ parseCondition f.payload = some (k, x) ∧
      duty.conds.setting k = x) ∧
    ∃ (s : State) (f : PlantFrame), ∃ k x, Ready (given f s) f [] ∧ f.isKind 6 = true ∧
      parseCondition f.payload = some (k, x) ∧ s.unit.role = .standby ∧ s.conds.setting k ≠ x ∧
      ∃ r ∈ s.conds.waiting, r.kind = k :=
  ⟨⟨plant 6 [1, 8, 0], ready_duty _, by decide, by decide⟩,
    ⟨plant 6 [1, 0, 0], .hotGas, ⟨0, false⟩, ready_duty _, by decide, by decide, by decide⟩,
    ⟨{ State.reset with conds := { Conditions.reset with waiting := [⟨.hotGas, 12, 0, 0, none, 0, some 61, some 60, true⟩] } },
      plant 6 [1, 7, 1], .hotGas, ⟨7, true⟩, ready_given _ _ rfl (by decide) rfl, by decide, by decide, rfl, by decide,
      _, List.mem_cons_self, rfl⟩⟩

/-! ### The Well Table -/

theorem test_load_form_read :
    WellLoad.parse (wellLoad 12 12 1 1 3 1) = some (loaded 12 12 true .both .engine) ∧
      WellLoad.parse (wellLoad 12 12 1 0 3 1) = some (loaded 12 12 false .both .engine) ∧
      WellLoad.parse (wellLoad 12 12 1 1 2 1) = some (loaded 12 12 true .flare .engine) ∧
      WellLoad.parse (wellLoad 13 12 1 1 3 1) = some (loaded 13 12 true .both .engine) ∧
      WellLoad.parse (wellLoad 12 13 1 1 3 1) = some (loaded 12 13 true .both .engine) ∧
      WellLoad.parse (wellLoad 96 12 1 1 3 1) = none := by decide +kernel

theorem others_of_one (w : Well) (s : State) (a : Nat) (j : Slot) (v : Well) (h : j ≠ 12) (e : (one w s).well j = some v) :
    v.cfg.address ≠ a := by
  rw [one_well, if_neg h] at e
  exact absurd e (by simp)

theorem test_meets_LoadWellRefusesInOrder :
    (∃ f : PlantFrame, Ready (given f duty) f [] ∧ f.isKind 1 = true ∧ f.payload.length = 20 ∧ WellLoad.parse f.payload = none) ∧
    (∃ (f : PlantFrame) (x : WellLoad), Ready (given f (one well12 duty)) f [] ∧ f.isKind 1 = true ∧
      f.payload.length = 20 ∧ WellLoad.parse f.payload = some x ∧
      ∃ (j : Slot) (v : Well), j ≠ x.slot ∧ (one well12 duty).well j = some v ∧ v.cfg.address = x.cfg.address) ∧
    (∃ (f : PlantFrame) (x : WellLoad), Ready (given f duty) f [] ∧ f.isKind 1 = true ∧ f.payload.length = 20 ∧
      WellLoad.parse f.payload = some x ∧ (duty.stateOf x.slot).working = false ∧ x.cfg.permitted.allows x.initial = false) ∧
    (∃ (f : PlantFrame) (x : WellLoad), Ready (given f (one well12 duty)) f [] ∧ f.isKind 1 = true ∧
      f.payload.length = 20 ∧ WellLoad.parse f.payload = some x ∧ (one well12 duty).well x.slot = some well12 ∧
      ((one well12 duty).stateOf x.slot).working = true ∧ x.cfg.permitted.allows well12.outlet = false ∧
      ∀ (j : Slot) (v : Well), j ≠ x.slot → (one well12 duty).well j = some v → v.cfg.address ≠ x.cfg.address) ∧
    ∃ (f : PlantFrame) (x : WellLoad), Ready (given f (one well12 duty)) f [] ∧ f.isKind 1 = true ∧
      f.payload.length = 20 ∧ WellLoad.parse f.payload = some x ∧ (one well12 duty).well x.slot = some well12 ∧
      ((one well12 duty).stateOf x.slot).working = true ∧ x.cfg.permitted = .both ∧ x.cfg.address ≠ well12.cfg.address ∧
      ∀ (j : Slot) (v : Well), j ≠ x.slot → (one well12 duty).well j = some v → v.cfg.address ≠ x.cfg.address := by
  obtain ⟨p1, _, p3, p4, p5, p6⟩ := test_load_form_read
  have w : ((one well12 duty).stateOf 12).working = true := by unfold State.stateOf; rw [one_well]; decide
  have q : WellLoad.parse (wellLoad 12 12 1 1 2 1) = some (loaded 12 12 true .flare .engine) := p3
  exact ⟨⟨plant 1 (wellLoad 96 12 1 1 3 1), ready_duty _, by decide, by decide, p6⟩,
    ⟨plant 1 (wellLoad 13 12 1 1 3 1), _, ready_one _ _, by decide, by decide, p4, 12, well12, by decide, one_well _ _ _, rfl⟩,
    ⟨plant 1 (wellLoad 12 12 1 1 2 1), _, ready_duty _, by decide, by decide, q,
      by unfold State.stateOf; rw [duty_well]; decide, rfl⟩,
    ⟨plant 1 (wellLoad 12 12 1 1 2 1), _, ready_one _ _, by decide, by decide, q, one_well _ _ _, w, rfl,
      others_of_one _ _ _⟩,
    ⟨plant 1 (wellLoad 12 13 1 1 3 1), _, ready_one _ _, by decide, by decide, p5, one_well _ _ _, w, rfl, by decide,
      others_of_one _ _ _⟩⟩

theorem duty_rosters : RosterLaw duty := by
  intro l
  have e : duty.rosters.get l = [] := by cases l <;> rfl
  rw [e]
  exact ⟨List.nodup_nil, fun i => by rw [duty_well]; simp [rosterLine], List.Pairwise.nil⟩

/-- `well12` PARKED. -/
def parked12 : Well := { well12 with cfg := { cfg12 with inService := false }, last := none }

/-- `duty` with slot 12 alone loaded, PARKED, on no roster. -/
def parked : State := { one parked12 duty with rosters := ⟨[], []⟩ }

theorem parked_rosters : RosterLaw parked := by
  intro l
  have e : parked.rosters.get l = [] := by cases l <;> rfl
  have w (i : Slot) : parked.well i = if i = 12 then some parked12 else none := one_well parked12 duty i
  rw [e]
  refine ⟨List.nodup_nil, fun i => ?_, List.Pairwise.nil⟩
  rw [w]
  by_cases h : i = 12
  · rw [if_pos h]; simp [rosterLine, wellState, WellState.onRoster, parked12]
  · rw [if_neg h]; simp [rosterLine]

theorem test_meets_LoadWellFillsVacantAndParkedSlots :
    (∃ (f : PlantFrame) (x : WellLoad), Ready (given f duty) f [] ∧ RosterLaw (given f duty) ∧ f.isKind 1 = true ∧
      f.payload.length = 20 ∧ WellLoad.parse f.payload = some x ∧
      (∀ (j : Slot) (v : Well), j ≠ x.slot → (given f duty).well j = some v → v.cfg.address ≠ x.cfg.address) ∧
      x.cfg.permitted.allows x.initial = true ∧ (given f duty).well x.slot = none) ∧
    ∀ service : Bool, ∃ (f : PlantFrame) (x : WellLoad), Ready (given f parked) f [] ∧ RosterLaw (given f parked) ∧
      f.isKind 1 = true ∧ f.payload.length = 20 ∧ WellLoad.parse f.payload = some x ∧ x.cfg.inService = service ∧
      (∀ (j : Slot) (v : Well), j ≠ x.slot → (given f parked).well j = some v → v.cfg.address ≠ x.cfg.address) ∧
      x.cfg.permitted.allows x.initial = true ∧
      ∃ w, (given f parked).well x.slot = some w ∧ w.cfg.inService = false ∧
        KeepsOutlets (given f parked) x { w with outlet := x.initial } := by
  obtain ⟨p1, p2, _⟩ := test_load_form_read
  have e : parked.entryOf 12 = none := by
    unfold State.entryOf; rw [show parked.well 12 = some parked12 from one_well parked12 duty 12]; rfl
  have k (y : Bool) : KeepsOutlets parked (loaded 12 12 y .both .engine) { parked12 with outlet := .engine } :=
    ⟨rfl, fun n h => absurd (e.symm.trans h) (by simp), fun p h => by simp [parked12, well12] at h,
      fun m h => by simp [parked12, well12] at h⟩
  have ready (f : PlantFrame) : Ready (given f parked) f [] := ready_given f _ rfl (show 0 < 64 by decide) rfl
  have o (j : Slot) (v : Well) (h : j ≠ 12) (x : parked.well j = some v) : v.cfg.address ≠ 12 :=
    others_of_one parked12 duty 12 j v h x
  refine ⟨⟨plant 1 (wellLoad 12 12 1 1 3 1), _, ready_duty _, duty_rosters, by decide, by decide, p1,
    fun j v _ h => absurd ((duty_well j).symm.trans h) (by simp), rfl, duty_well _⟩, fun service => ?_⟩
  cases service
  · exact ⟨plant 1 (wellLoad 12 12 1 0 3 1), _, ready _, parked_rosters, by decide, by decide, p2, rfl, o, rfl, parked12,
      one_well parked12 duty 12, rfl, k false⟩
  · exact ⟨plant 1 (wellLoad 12 12 1 1 3 1), _, ready _, parked_rosters, by decide, by decide, p1, rfl, o, rfl, parked12,
      one_well parked12 duty 12, rfl, k true⟩

theorem one_rosters (s : State) : RosterLaw (one well12 s) := by
  intro l
  cases l
  · refine ⟨by simp [one, PerLine.get], fun i => ?_, by simp [one, PerLine.get]⟩
    rw [one_well]
    by_cases h : i = 12
    · simp [h, one, PerLine.get, rosterLine, well12, wellState, WellState.onRoster, cfg12, Holds.empty]
    · simp [h, one, PerLine.get, rosterLine]
  · refine ⟨by simp [one, PerLine.get], fun i => ?_, by simp [one, PerLine.get]⟩
    rw [one_well]
    by_cases h : i = 12
    · simp [h, one, PerLine.get, rosterLine, well12, wellState, WellState.onRoster, cfg12, Holds.empty]
    · simp [h, one, PerLine.get, rosterLine]

theorem test_meets_LoadWellParksOrChangesAWorkingSlot :
    (∃ (f : PlantFrame) (x : WellLoad), Ready (given f (one well12 duty)) f [] ∧ f.isKind 1 = true ∧
      f.payload.length = 20 ∧ WellLoad.parse f.payload = some x ∧ (one well12 duty).well x.slot = some well12 ∧
      ((one well12 duty).stateOf x.slot).working = true ∧ x.cfg.inService = false ∧ x.cfg.address = well12.cfg.address ∧
      x.cfg.seg = well12.cfg.seg ∧ KeepsOutlets (one well12 duty) x well12 ∧ well12.move = none ∧
      (one well12 duty).setInFlight x.slot = false ∧
      ∀ (j : Slot) (v : Well), j ≠ x.slot → (one well12 duty).well j = some v → v.cfg.address ≠ x.cfg.address) ∧
    ∃ (f : PlantFrame) (x : WellLoad), Ready (given f (one well12 duty)) f [] ∧ f.isKind 1 = true ∧
      f.payload.length = 20 ∧ WellLoad.parse f.payload = some x ∧ (one well12 duty).well x.slot = some well12 ∧
      ((one well12 duty).stateOf x.slot).working = true ∧ x.cfg.inService = true ∧ x.cfg.address = well12.cfg.address ∧
      x.cfg.seg = well12.cfg.seg ∧ KeepsOutlets (one well12 duty) x well12 ∧
      (∀ (j : Slot) (v : Well), j ≠ x.slot → (one well12 duty).well j = some v → v.cfg.address ≠ x.cfg.address) ∧
      RosterLaw (given f (one well12 duty)) ∧ x.cfg = well12.cfg := by
  obtain ⟨p1, p2, _⟩ := test_load_form_read
  have w : ((one well12 duty).stateOf 12).working = true := by unfold State.stateOf; rw [one_well]; decide
  have e : (one well12 duty).entryOf 12 = none := by unfold State.entryOf; rw [one_well]; rfl
  have k : ∀ y, KeepsOutlets (one well12 duty) (loaded 12 12 y .both .engine) well12 :=
    fun y => ⟨rfl, fun n h => absurd (e.symm.trans h) (by simp), fun p h => by simp [well12] at h,
      fun m h => by simp [well12] at h⟩
  exact ⟨⟨plant 1 (wellLoad 12 12 1 0 3 1), _, ready_one _ _, by decide, by decide, p2, one_well _ _ _, w, rfl, rfl, rfl,
      k false, rfl, rfl, others_of_one _ _ _⟩,
    ⟨plant 1 (wellLoad 12 12 1 1 3 1), _, ready_one _ _, by decide, by decide, p1, one_well _ _ _, w, rfl, rfl, rfl,
      k true, others_of_one _ _ _, one_rosters duty, rfl⟩⟩

/-- The load form of `cfg12` with pmin 450, above the target of `well12`. -/
def rangeLoad : PlantFrame := plant 1 ([12, 12, 1, 1, 3, 1] ++ leBytes 2 450 ++ [0x84, 3, 40, 20, 8, 2, 6, 10, 180, 0, 44, 1])

/-- Its values. -/
def ranged : WellLoad := ⟨12, { cfg12 with pmin := 450 }, .engine⟩

/-- Slot 12 TRACKING in DUTY, with a sent entry to 440 that pmin 450 clamps. -/
def entered : State := segA (fun q => { q with queue := [⟨12, 440, .engine, .trim, true⟩] }) (one well12 duty)

theorem test_meets_LoadWellParksOrChangesAWorkingSlot_range :
    (Ready (given rangeLoad (one well12 duty)) rangeLoad [] ∧ Ready (given rangeLoad entered) rangeLoad [] ∧
      rangeLoad.isKind 1 = true ∧ rangeLoad.payload.length = 20 ∧ WellLoad.parse rangeLoad.payload = some ranged ∧
      ranged.cfg.inService = true ∧ ranged.cfg.pmin ≠ well12.cfg.pmin) ∧
    ((one well12 duty).unit.role = .duty ∧ (one well12 duty).stateOf 12 = .tracking ∧ well12.target = some 400 ∧
      clampNat ranged.cfg.pmin ranged.cfg.pmax 400 ≠ 400 ∧ (one well12 duty).entryOf 12 = none ∧ well12.pendingProt = none ∧
      ((one well12 duty).seg .a).queue.length < 16 ∧ KeepsOutlets (one well12 duty) ranged well12) ∧
    entered.well 12 = some well12 ∧ (entered.stateOf 12).working = true ∧ entered.entryOf 12 = some ⟨12, 440, .engine, .trim, true⟩ ∧
      KeepsOutlets entered ranged well12 := by
  have e : (one well12 duty).entryOf 12 = none := by unfold State.entryOf; rw [one_well]; rfl
  have n : entered.entryOf 12 = some ⟨12, 440, .engine, .trim, true⟩ := by
    unfold State.entryOf; rw [show entered.well 12 = some well12 from one_well well12 duty 12]; decide
  refine ⟨⟨ready_one _ _, ready_given _ _ rfl (show 0 < 64 by decide) rfl, by decide, by decide, by decide +kernel, rfl,
      by decide⟩,
    ⟨rfl, by unfold State.stateOf; rw [one_well]; rfl, rfl, by decide, e, rfl, show 0 < 16 by decide, rfl,
      fun y h => absurd (e.symm.trans h) (by simp), fun p h => by simp [well12] at h, fun m h => by simp [well12] at h⟩,
    one_well well12 duty 12, by unfold State.stateOf; rw [show entered.well 12 = some well12 from one_well well12 duty 12]; decide,
    n, rfl, fun y h => ?_, fun p h => by simp [well12] at h, fun m h => by simp [well12] at h⟩
  injection n.symm.trans h with h
  rw [← h]; rfl

/-- `well12` with a move record. -/
def moving12 : Well := { well12 with move := some ⟨440, .engine, .trim, 40, 0⟩ }

theorem test_meets_VacateFreesTheSlot :
    (∃ f : PlantFrame, Ready (given f duty) f [] ∧ f.isKind 1 = true ∧ f.payload.length = 1 ∧ 95 < byteAt f.payload 0) ∧
    (∃ f : PlantFrame, Ready (given f duty) f [] ∧ f.isKind 1 = true ∧ f.payload.length = 1 ∧
      byteAt f.payload 0 = (95 : Slot).val ∧ duty.well 95 = none) ∧
    (∃ f : PlantFrame, Ready (given f (one moving12 duty)) f [] ∧ f.isKind 1 = true ∧ f.payload.length = 1 ∧
      byteAt f.payload 0 = (12 : Slot).val ∧ (one moving12 duty).well 12 = some moving12 ∧ moving12.move.isSome = true) ∧
    ∃ f : PlantFrame, Ready (given f (one well12 duty)) f [] ∧ f.isKind 1 = true ∧ f.payload.length = 1 ∧
      byteAt f.payload 0 = (12 : Slot).val ∧ (one well12 duty).well 12 = some well12 ∧ well12.move = none ∧
      (one well12 duty).setInFlight 12 = false :=
  ⟨⟨plant 1 [96], ready_duty _, by decide, by decide, by decide⟩,
    ⟨plant 1 [95], ready_duty _, by decide, by decide, by decide, duty_well _⟩,
    ⟨plant 1 [12], ready_one _ _, by decide, by decide, by decide, one_well _ _ _, rfl⟩,
    ⟨plant 1 [12], ready_one _ _, by decide, by decide, by decide, one_well _ _ _, rfl, rfl⟩⟩

/-! ### Control commands -/

/-- `well12` SHUT by HOT. -/
def shut12 : Well := { well12 with holds := ⟨true, false, false, false, false, false⟩ }

/-- `well12` forced. -/
def forced12 : Well := { well12 with forced := true }

/-- `well12` permitted FLARE alone, with outlet FLARE. -/
def flare12 : Well := { well12 with cfg := { cfg12 with permitted := .flare }, outlet := .flare }

/-- The payload of FORCE. -/
def forceTo (slot : Byte) (target : Nat) (outlet : Byte) : List Byte := [slot] ++ leBytes 2 target ++ [outlet]

/-- Line-lost status set. -/
def lost (s : State) : State := { s with balancer := { s.balancer with lineLost := true } }

theorem test_meets_ForceRefusesInOrder :
    (∃ f : PlantFrame, Ready (given f State.reset) f [] ∧ f.isKind 10 = true ∧ State.reset.unit.role = .standby) ∧
    (∃ f : PlantFrame, Ready (given f duty) f [] ∧ f.isKind 10 = true ∧ duty.unit.role = .duty ∧ 1000 < wordAt f.payload 1) ∧
    (∃ f : PlantFrame, Ready (given f duty) f [] ∧ f.isKind 10 = true ∧ byteAt f.payload 0 = (12 : Slot).val ∧
      byteAt f.payload 3 = lineCode .engine ∧ wordAt f.payload 1 ≤ 1000 ∧ duty.stateOf 12 = .vacant) ∧
    (∃ f : PlantFrame, Ready (given f (one well12 duty)) f [] ∧ f.isKind 10 = true ∧ byteAt f.payload 0 = (12 : Slot).val ∧
      byteAt f.payload 3 = lineCode .engine ∧ (one well12 duty).well 12 = some well12 ∧ well12.cfg.inService = true ∧
      well12.cfg.pmax < wordAt f.payload 1 ∧ wordAt f.payload 1 ≤ 1000) ∧
    (∃ f : PlantFrame, Ready (given f (one flare12 duty)) f [] ∧ f.isKind 10 = true ∧ byteAt f.payload 0 = (12 : Slot).val ∧
      byteAt f.payload 3 = lineCode .engine ∧ (one flare12 duty).well 12 = some flare12 ∧
      flare12.cfg.pmin ≤ wordAt f.payload 1 ∧ wordAt f.payload 1 ≤ flare12.cfg.pmax ∧
      flare12.cfg.permitted.allows .engine = false) ∧
    (∃ f : PlantFrame, Ready (given f (one well12 (lost duty))) f [] ∧ f.isKind 10 = true ∧
      byteAt f.payload 0 = (12 : Slot).val ∧ byteAt f.payload 3 = lineCode .engine ∧
      (one well12 (lost duty)).well 12 = some well12 ∧ (one well12 (lost duty)).isOpen .engine = false) ∧
    (∃ f : PlantFrame, Ready (given f (one shut12 duty)) f [] ∧ f.isKind 10 = true ∧ byteAt f.payload 0 = (12 : Slot).val ∧
      byteAt f.payload 3 = lineCode .engine ∧ (one shut12 duty).well 12 = some shut12 ∧
      (one shut12 duty).isOpen .engine = true ∧ (one shut12 duty).stateOf 12 = .shut) ∧
    ∃ f : PlantFrame, Ready (given f (one moving12 duty)) f [] ∧ f.isKind 10 = true ∧ byteAt f.payload 0 = (12 : Slot).val ∧
      byteAt f.payload 3 = lineCode .engine ∧ (one moving12 duty).well 12 = some moving12 ∧
      (one moving12 duty).stateOf 12 ≠ .shut ∧ moving12.move.isSome = true :=
  ⟨⟨plant 10 (forceTo 12 900 1), ready_reset _, by decide, rfl⟩,
    ⟨plant 10 (forceTo 12 1001 1), ready_duty _, by decide, rfl, by decide⟩,
    ⟨plant 10 (forceTo 12 1000 1), ready_duty _, by decide, by decide, by decide, by decide,
      by unfold State.stateOf; rw [duty_well]; rfl⟩,
    ⟨plant 10 (forceTo 12 901 1), ready_one _ _, by decide, by decide, by decide, one_well _ _ _, rfl, by decide, by decide⟩,
    ⟨plant 10 (forceTo 12 900 1), ready_one _ _, by decide, by decide, by decide, one_well _ _ _, by decide, by decide, rfl⟩,
    ⟨plant 10 (forceTo 12 900 1), ready_given _ _ rfl (show 0 < 64 by decide) rfl, by decide, by decide, by decide,
      one_well _ _ _, rfl⟩,
    ⟨plant 10 (forceTo 12 900 1), ready_one _ _, by decide, by decide, by decide, one_well _ _ _, rfl,
      by unfold State.stateOf; rw [one_well]; rfl⟩,
    ⟨plant 10 (forceTo 12 900 1), ready_one _ _, by decide, by decide, by decide, one_well _ _ _,
      by unfold State.stateOf; rw [one_well]; decide, rfl⟩⟩

theorem test_meets_ForceAndReleaseSetTheForcedFlag :
    (∃ f : PlantFrame, Ready (given f (one well12 duty)) f [] ∧ f.isKind 10 = true ∧ duty.unit.role = .duty ∧
      byteAt f.payload 0 = (12 : Slot).val ∧ byteAt f.payload 3 = lineCode .flare ∧
      (one well12 duty).well 12 = some well12 ∧ well12.cfg.inService = true ∧ well12.cfg.pmin ≤ wordAt f.payload 1 ∧
      wordAt f.payload 1 ≤ well12.cfg.pmax ∧ well12.cfg.pmax ≤ 1000 ∧ well12.cfg.permitted.allows .flare = true ∧
      (one well12 duty).isOpen .flare = true ∧ (one well12 duty).stateOf 12 ≠ .shut ∧ well12.move = none ∧
      (one well12 duty).setInFlight 12 = false ∧ (one well12 duty).entryOf 12 = none ∧ well12.pendingProt = none ∧
      ((one well12 duty).seg well12.cfg.seg).queue.length < 16) ∧
    (∃ f : PlantFrame, Ready (given f duty) f [] ∧ f.isKind 11 = true ∧ 95 < byteAt f.payload 0) ∧
    (∃ f : PlantFrame, Ready (given f (one parked12 duty)) f [] ∧ f.isKind 11 = true ∧
      byteAt f.payload 0 = (12 : Slot).val ∧ (one parked12 duty).stateOf 12 = .parked) ∧
    (∃ f : PlantFrame, Ready (given f (one well12 duty)) f [] ∧ f.isKind 11 = true ∧ byteAt f.payload 0 = (12 : Slot).val ∧
      (one well12 duty).well 12 = some well12 ∧ well12.forced = false) ∧
    ∃ f : PlantFrame, Ready (given f (one forced12 duty)) f [] ∧ f.isKind 11 = true ∧ byteAt f.payload 0 = (12 : Slot).val ∧
      (one forced12 duty).well 12 = some forced12 ∧ forced12.forced = true :=
  ⟨⟨plant 10 (forceTo 12 900 2), ready_one _ _, by decide, rfl, by decide, by decide, one_well _ _ _, rfl, by decide,
      by decide, by decide, rfl, rfl, by unfold State.stateOf; rw [one_well]; decide, rfl, rfl,
      by unfold State.entryOf; rw [one_well]; rfl, rfl, by decide⟩,
    ⟨plant 11 [96], ready_duty _, by decide, by decide⟩,
    ⟨plant 11 [12], ready_one _ _, by decide, by decide, by unfold State.stateOf; rw [one_well]; rfl⟩,
    ⟨plant 11 [12], ready_one _ _, by decide, by decide, one_well _ _ _, rfl⟩,
    ⟨plant 11 [12], ready_one _ _, by decide, by decide, one_well _ _ _, rfl⟩⟩

/-- A READ frame. -/
def read (target index2 : Byte) (index1 : Byte) (clear : Byte) : PlantFrame := plant 7 [target, index1, index2, clear]

/-- A ROLE CONFLICT pending and a HOT GAS in service. -/
def conditions : Conditions :=
  { Conditions.reset with
    waiting := [⟨.roleConflict, 98, 6, 0, none, 0, some 251, none, true⟩]
    stack := [⟨.hotGas, 12, 0, 0, some 0, 0, some 61, some 60, true⟩] }

/-- `duty` with `conditions`. -/
def troubled : State := { duty with conds := conditions }

theorem test_meets_ReadReturnsAndClearsItsTargets :
    (Ready (given (read 1 0 95 0) duty) (read 1 0 95 0) [] ∧ (read 1 0 95 0).isKind 7 = true ∧
      byteAt (read 1 0 95 0).payload 3 = 0 ∧ byteAt (read 1 0 95 0).payload 0 = 1 ∧
      wordAt (read 1 0 95 0).payload 1 = (95 : Slot).val ∧
      ((read 2 0 2 0).isKind 7 = true ∧ byteAt (read 2 0 2 0).payload 0 = 2 ∧ wordAt (read 2 0 2 0).payload 1 = lineCode .flare) ∧
      (read 3 0 4 0).isKind 7 = true ∧ byteAt (read 3 0 4 0).payload 0 = 3 ∧ wordAt (read 3 0 4 0).payload 1 = segCode .d) ∧
    (Ready (given (read 4 0 0 0) troubled) (read 4 0 0 0) [] ∧
      ((read 4 0 0 0).isKind 7 = true ∧ byteAt (read 4 0 0 0).payload 3 = 0 ∧ wordAt (read 4 0 0 0).payload 1 = 0) ∧
      (wordAt (read 6 1 229 0).payload 1 ≤ 485 ∧ wordAt (read 6 1 229 0).payload 1 = 485) ∧
      (byteAt (read 7 11 98 0).payload 1 ≤ 98 ∧ byteAt (read 7 11 98 0).payload 2 = CondKind.roleConflict.idx.val + 1 ∧
        troubled.conds.waiting.find? (·.isPair .roleConflict 98) = some ⟨.roleConflict, 98, 6, 0, none, 0, some 251, none, true⟩) ∧
      (byteAt (read 7 1 12 0).payload 2 = CondKind.hotGas.idx.val + 1 ∧
        troubled.conds.waiting.find? (·.isPair .hotGas 12) = none ∧
        troubled.conds.stack.find? (·.isPair .hotGas 12) = some ⟨.hotGas, 12, 0, 0, some 0, 0, some 61, some 60, true⟩) ∧
      troubled.conds.find .hotGas 13 = none ∧
      ∀ n ∈ [5, 8, 9, 10, 11, 12], (read (BitVec.ofNat 8 n) 0 0 0).isKind 7 = true) ∧
    Ready (given (read 3 0 1 1) duty) (read 3 0 1 1) [] ∧ (duty.seg .a).txn = none ∧
      ((read 3 0 1 1).isKind 7 = true ∧ byteAt (read 3 0 1 1).payload 3 = 1 ∧ wordAt (read 3 0 1 1).payload 1 = segCode .a) ∧
      (byteAt (read 11 0 0 1).payload 0 = 11 ∧ wordAt (read 11 0 0 1).payload 1 = 0) ∧
      95 < wordAt (read 1 0 96 0).payload 1 ∧ byteAt (read 1 0 0 1).payload 3 ≠ 0 ∧ 485 < wordAt (read 6 1 230 0).payload 1 ∧
      wordAt (read 4 0 1 0).payload 1 ≠ 0 ∧ 2 < wordAt (read 2 0 3 0).payload 1 ∧ 98 < byteAt (read 7 1 99 0).payload 1 ∧
      11 < byteAt (read 7 12 0 0).payload 2 ∧ 4 < wordAt (read 3 0 5 0).payload 1 ∧ 12 < byteAt (read 13 0 0 0).payload 0 ∧
      byteAt (read 0 0 0 0).payload 0 = 0 :=
  ⟨⟨ready_duty _, by decide⟩, ⟨ready_given _ _ rfl (by decide) rfl, by decide⟩,
    ready_duty _, rfl, by decide⟩

theorem test_meets_DemandReplacesTheHeldDemand :
    Ready (given (plant 8 (leBytes 2 60000 ++ [8])) duty) (plant 8 (leBytes 2 60000 ++ [8])) [] ∧
      (plant 8 (leBytes 2 60000 ++ [8])).isKind 8 = true ∧ wordAt (leBytes 2 60000 ++ [8]) 0 ≤ 60000 ∧
      byteAt (leBytes 2 60000 ++ [8]) 2 ≤ 8 ∧ (plant 8 (leBytes 2 60001 ++ [8])).isKind 8 = true ∧
      60000 < wordAt (leBytes 2 60001 ++ [8]) 0 ∧ 8 < byteAt (leBytes 2 60000 ++ [9]) 2 :=
  ⟨ready_duty _, by decide⟩

/-- `duty` in RUN. -/
def running : State := { duty with link := { duty.link with mode := .run } }

/-- A BALANCE entry of slot 12. -/
def balance12 : Entry := ⟨12, 400, .flare, .balance, false⟩

/-- `running` with slot 12's balancing move outstanding, its entry queued. -/
def balancing : State :=
  segA (fun q => { q with queue := [balance12] })
    { one well12 running with balancer := { Balancer.start 0 with move := some ⟨12, .blendLow, 400, .flare, .queued⟩ } }

/-- Slot 12 alone is loaded, and its record `w` holds no pending field. -/
theorem noPending_one (w : Well) (s : State) (h : w.pendingProt = none) : NoPending (one w s) := by
  intro j v e
  rw [one_well] at e
  by_cases x : j = 12
  · rw [if_pos x] at e; injection e with e; rw [← e]; exact h
  · rw [if_neg x] at e; exact absurd e (by simp)

theorem test_meets_ModeChangesActOnTheQueues :
    (Ready (given (plant 9 [0]) duty) (plant 9 [0]) [] ∧ (plant 9 [0]).isKind 9 = true ∧ byteAt [(0 : Byte)] 0 ≠ 1 ∧
      byteAt [(0 : Byte)] 0 ≠ 2) ∧
    (Ready (given (plant 9 [2]) duty) (plant 9 [2]) [] ∧ (plant 9 [2]).isKind 9 = true ∧ byteAt [(2 : Byte)] 0 = 2) ∧
    (Ready (given (plant 9 [1]) duty) (plant 9 [1]) [] ∧ (plant 9 [1]).isKind 9 = true ∧ byteAt [(1 : Byte)] 0 = 1 ∧
      duty.link.mode = .hold) ∧
    (Ready (given (plant 9 [1]) running) (plant 9 [1]) [] ∧ running.link.mode = .run ∧ NoPending running ∧
      running.balancer.move = none) ∧
    Ready (given (plant 9 [1]) balancing) (plant 9 [1]) [] ∧ balancing.link.mode = .run ∧ NoPending balancing ∧
      ∃ b, balancing.balancer.move = some b ∧ b.phase = .queued ∧
        ∃ g : Seg, ∃ e ∈ (balancing.seg g).queue, e.slot = b.slot ∧ e.cls = .balance ∧ e.sent = false :=
  ⟨⟨ready_duty _, by decide⟩, ⟨ready_duty _, by decide⟩, ⟨ready_duty _, by decide⟩,
    ⟨ready_given _ _ rfl (by decide) rfl, rfl, fun j v h => absurd ((duty_well j).symm.trans h) (by simp), rfl⟩,
    ready_given _ _ rfl (show 0 < 64 by decide) rfl, rfl, noPending_one well12 running rfl, _, rfl, rfl, .a, balance12,
    List.mem_cons_self, rfl, rfl, rfl⟩

/-- ENGINE LINE LOST in service with line-lost status, the combination satisfied or not as the mask has it. -/
def engineLost (mask : PerTrip Bool) : State :=
  { duty with
    limits := { Limits.reset with mask := mask }
    trips := ⟨⟨true, true, none, 0, false⟩, .restarted false 0, .restarted false 0, .restarted false 0, .restarted false 0⟩
    balancer := { Balancer.start 0 with lineLost := true }
    conds := { Conditions.reset with stack := [⟨.engineLineLost, 96, 0, 0, some 0, 0, some 1, none, true⟩]
                                     waiting := [⟨.hotGas, 12, 0, 0, none, 0, some 61, some 60, true⟩] } }

theorem test_meets_ClearAndDismissRefuseInOrder :
    (Ready (given (plant 12 [6, 95]) duty) (plant 12 [6, 95]) [] ∧ (plant 12 [6, 95]).isKind 12 = true ∧
      parsePair [6, 95] = none) ∧
    (parsePair [6, 96] = some (.engineLineLost, 96) ∧ duty.conds.stack = []) ∧
    (Ready (given (plant 12 [1, 12]) (engineLost ⟨true, false, false, false, false⟩)) (plant 12 [1, 12]) [] ∧
      (plant 12 [1, 12]).isKind 12 = true ∧ parsePair [1, 12] = some (.hotGas, 12)) ∧
    (engineLost ⟨true, false, false, false, false⟩).combination = true ∧
    (Ready (given (plant 13 [1, 13]) (engineLost (.fill false))) (plant 13 [1, 13]) [] ∧ (plant 13 [1, 13]).isKind 13 = true ∧
      parsePair [1, 13] = some (.hotGas, 13) ∧
      ∀ r ∈ (engineLost (.fill false)).conds.waiting, ¬ (r.kind = .hotGas ∧ r.source = 13)) ∧
    ∃ s : State, s.held = false ∧ s.balancer.lineLost = true ∧ s.balancer.flareFault = true ∧
      parsePair [7, 98] = some (.noOutlet, 98) ∧ ∃ r ∈ s.conds.waiting, r.kind = .noOutlet ∧ r.source = 98 :=
  ⟨⟨ready_duty _, by decide⟩, ⟨by decide, rfl⟩, ⟨ready_given _ _ rfl (show 0 < 64 by decide) rfl, by decide⟩, by decide,
    ⟨ready_given _ _ rfl (show 0 < 64 by decide) rfl, by decide⟩,
    { duty with balancer := { Balancer.start 0 with lineLost := true, flareFault := true },
                conds := { Conditions.reset with waiting := [⟨.noOutlet, 98, 0, 0, none, 0, some 3, none, true⟩] } },
    rfl, rfl, rfl, by decide, _, List.mem_cons_self, rfl, rfl⟩

/-- `conditions` in STANDBY. -/
def quiet : State := { State.reset with conds := conditions }

theorem test_meets_RemovalTakesTheRecordAndItsReason :
    (∃ (f : PlantFrame) (r : CondRec) (below : List CondRec), Ready (given f quiet) f [] ∧ quiet.unit.role = .standby ∧
      parsePair f.payload = some (r.kind, r.source) ∧ r.kind ≠ .engineLineLost ∧
      (r.kind = .noOutlet → quiet.isOpen .engine = true ∨ quiet.isOpen .flare = true) ∧ f.isKind 12 = true ∧
      quiet.conds.stack = r :: below) ∧
    ∃ (f : PlantFrame) (r : CondRec), Ready (given f quiet) f [] ∧ parsePair f.payload = some (r.kind, r.source) ∧
      r.kind ≠ .engineLineLost ∧ (r.kind = .noOutlet → quiet.isOpen .engine = true ∨ quiet.isOpen .flare = true) ∧
      f.isKind 13 = true ∧ quiet.conds.waiting.find? (·.isPair r.kind r.source) = some r :=
  ⟨⟨plant 12 [1, 12], _, [], ready_given _ _ rfl (by decide) rfl, rfl, by decide, by decide, by decide, by decide, rfl⟩,
    ⟨plant 13 [11, 98], ⟨.roleConflict, 98, 6, 0, none, 0, some 251, none, true⟩, ready_given _ _ rfl (by decide) rfl,
      by decide, by decide, by decide, by decide, by decide⟩⟩

theorem conditions_lawful : CondLaw conditions := by
  refine ⟨by decide, fun k => ?_, by decide, by decide, by decide⟩
  cases k <;> decide

/-- `troubled` with ROLE CONFLICT masked, so that it is not eligible. -/
def maskedTrouble : State :=
  { duty with conds := { conditions with
      kinds := conditions.kinds.set CondKind.roleConflict.idx.val ⟨6, true⟩ CondKind.roleConflict.idx.isLt } }

theorem masked_lawful : CondLaw maskedTrouble.conds := by
  refine ⟨by decide, fun k => ?_, by decide, by decide, by decide⟩
  cases k <;> decide

theorem test_meets_ClearTakesTheNextRecord :
    (Ready (given (plant 12 [1, 12]) troubled) (plant 12 [1, 12]) [] ∧ (plant 12 [1, 12]).isKind 12 = true ∧
      troubled.unit.role = .duty ∧ CondLaw troubled.conds ∧ parsePair [1, 12] = some (.hotGas, 12) ∧
      troubled.conds.stack = [⟨.hotGas, 12, 0, 0, some 0, 0, some 61, some 60, true⟩] ∧
      ∃ p, troubled.conds.waiting = [p] ∧ (troubled.conds.setting p.kind).masked = false) ∧
    ({ troubled with link := { troubled.link with transmitter := some upFrame } } : State).link.urgent.length < 16 ∧
    Ready (given (plant 12 [1, 12]) maskedTrouble) (plant 12 [1, 12]) [] ∧ CondLaw maskedTrouble.conds ∧
      ∀ p ∈ maskedTrouble.conds.waiting, (maskedTrouble.conds.setting p.kind).masked = true :=
  ⟨⟨ready_given _ _ rfl (by decide) rfl, by decide, rfl, conditions_lawful, by decide, rfl, _, rfl, by decide⟩, by decide,
    ready_given _ _ rfl (by decide) rfl, masked_lawful, by decide⟩

theorem test_meets_BudgetResetAbandonsTheMoves :
    Ready (given (plant 14 [4]) duty) (plant 14 [4]) [] ∧ (plant 14 [4]).isKind 14 = true ∧
      byteAt [(4 : Byte)] 0 = segCode .d ∧ (plant 14 [5]).isKind 14 = true ∧ 4 < byteAt [(5 : Byte)] 0 ∧
      byteAt [(0 : Byte)] 0 = 0 :=
  ⟨ready_duty _, by decide⟩

theorem test_meets_RestartTakesItsValues :
    Ready (given (plant 15 []) duty) (plant 15 []) [] ∧ (plant 15 []).isKind 15 = true ∧
      ∀ k : Trip, duty.site.intervals.get k ≠ .off :=
  ⟨ready_duty _, by decide, fun k => by cases k <;> decide⟩

theorem test_meets_TransmitterTakesUrgentFramesFirst :
    State.reset.held = false ∧ (State.reset.link.urgent = [] ∧ State.reset.link.routine = []) ∧
      (∃ k : Link, k.urgent = [upFrame]) ∧ ∃ k : Link, k.urgent = [] ∧ k.routine = [upFrame] :=
  ⟨rfl, ⟨rfl, rfl⟩, ⟨{ Link.reset with urgent := [upFrame] }, rfl⟩, ⟨{ Link.reset with routine := [upFrame] }, rfl, rfl⟩⟩

/-! ### Turns, transmission and arbitration -/

theorem quiet_duty (g : Seg) : Quiet duty g := by cases g <;> exact ⟨rfl, rfl, rfl⟩

theorem test_meets_PollTurnPollsTheSlotTheSearchFinds :
    (∃ s : State, s.held = false ∧ s.unit.role = .duty ∧ Quiet s .a ∧ (s.seg .a).presenceDue = false ∧
      (s.seg .a).settings.pattern.getLsbD (s.seg .a).pointer.val = true ∧ (s.seg .a).queue = [] ∧
      s.nextPoll .a = some (12, 0) ∧ s.well 12 = some well12) ∧
    ∃ s : State, s.nextPoll .a = some (12, 0) ∧ s.pollable .a (s.seg .a).round 12 = true ∧
      ∀ p, (s.seg .a).position = some p → p < 12 :=
  ⟨⟨one well12 duty, rfl, rfl, quiet_duty .a, rfl, by decide, rfl, by decide +kernel, one_well _ _ _⟩,
    segA (fun q => { q with position := some 11 }) (one well12 duty), by decide +kernel, by decide +kernel,
    fun p h => by cases h; decide⟩

/-- A TRIM entry of slot 12. -/
def trim12 : Entry := ⟨12, 440, .engine, .trim, false⟩

/-- Slot 12 loaded, its entry at the head of segment A, the pattern at a C entry; `budget` in force. -/
def atCommandTurn (e : Entry) (budget : Nat) : State :=
  segA (fun q => { q with queue := [e], pointer := 1, budgetInForce := budget }) (one well12 duty)

theorem test_meets_CommandTurnSendsTheHead :
    (∀ e ∈ [trim12, { trim12 with cls := .protective }],
      (atCommandTurn e 40).held = false ∧ (atCommandTurn e 40).unit.role = .duty ∧ Quiet (atCommandTurn e 40) .a ∧
        QueueLaw ((atCommandTurn e 40).seg .a).queue ∧ ((atCommandTurn e 40).seg .a).presenceDue = false ∧
        ((atCommandTurn e 40).seg .a).settings.pattern.getLsbD ((atCommandTurn e 40).seg .a).pointer.val = false ∧
        ((atCommandTurn e 40).seg .a).queue = [e] ∧ (atCommandTurn e 40).well e.slot = some well12) ∧
      travelOf well12 trim12.target + ((atCommandTurn trim12 40).seg .a).outstanding ≤
        ((atCommandTurn trim12 40).seg .a).budgetInForce := by
  refine ⟨fun e he => ?_, by decide⟩
  have h : e.slot = 12 := by fin_cases he <;> rfl
  refine ⟨rfl, rfl, ⟨rfl, rfl, rfl⟩, ⟨by decide +revert, by simp [atCommandTurn, segA, State.modSeg, State.seg, PerSeg.put, PerSeg.get],
    by simp [atCommandTurn, segA, State.modSeg, State.seg, PerSeg.put, PerSeg.get]⟩, rfl, by decide +revert, rfl, ?_⟩
  rw [h]
  exact one_well well12 duty 12

/-- `atCommandTurn` with travel outstanding. -/
def burdened : State := segA (fun q => { q with outstanding := 1 }) (atCommandTurn trim12 40)

/-- Slot 12 hangs on segment B, so that segment A has nothing to poll; its entry stands in A's queue, the pattern at a P entry. -/
def lent : State := segA (fun q => { q with queue := [trim12] }) (one { well12 with cfg := { cfg12 with seg := .b } } duty)

/-- The head is over budget and of the outstanding balancing move. -/
def tooFar : State := { atCommandTurn { trim12 with cls := .balance } 39 with balancer := balancing.balancer }

theorem test_meets_turns_with_an_unsendable_head :
    (Quiet burdened .a ∧ (burdened.seg .a).queue = [trim12] ∧ burdened.well 12 = some well12 ∧
      travelOf well12 trim12.target ≤ (burdened.seg .a).budgetInForce ∧
      (burdened.seg .a).budgetInForce < travelOf well12 trim12.target + (burdened.seg .a).outstanding ∧
      burdened.nextPoll .a = some (12, 0)) ∧
    (Quiet lent .a ∧ QueueLaw (lent.seg .a).queue ∧ lent.nextPoll .a = none ∧ (lent.seg .a).queue = [trim12] ∧
      (lent.seg .a).settings.pattern.getLsbD (lent.seg .a).pointer.val = true) ∧
    (NoPending tooFar ∧ (tooFar.seg .a).queue = [{ trim12 with cls := .balance }] ∧
      (tooFar.seg .a).budgetInForce < travelOf well12 trim12.target ∧
      ∃ b, tooFar.balancer.move = some b ∧ b.slot = 12 ∧ b.phase = .queued) ∧
    NoPending (atCommandTurn trim12 39) ∧ ((atCommandTurn trim12 39).seg .a).budgetInForce < travelOf well12 trim12.target :=
  ⟨⟨⟨rfl, rfl, rfl⟩, rfl, one_well well12 duty 12, by decide, by decide, by decide +kernel⟩,
    ⟨⟨rfl, rfl, rfl⟩, ⟨by decide, by decide, by decide⟩, by decide +kernel, rfl, by decide⟩,
    ⟨noPending_one well12 duty rfl, rfl, by decide, _, rfl, rfl, rfl⟩, noPending_one well12 duty rfl, by decide⟩

/-- A transaction of kind `k` of slot 12 whose frame is on segment A's output. -/
def transmitting (k : TxnKind) : State :=
  segA (fun q => { q with
    sending := some (.poll 250 12)
    txn := some { inFlight k with window := none, slot := if k = .presence then none else some 12 } }) (one well12 duty)

theorem test_meets_TransmissionOpensTheReplyWindow :
    ∃ (f : FieldFrame) (t : Txn), (transmitting .poll).held = false ∧ ((transmitting .poll).seg .a).sending = some f ∧
      ((transmitting .poll).seg .a).txn = some t := ⟨_, _, rfl, rfl, rfl⟩

/-- A PRESENCE of the controller at `src`. -/
def presenceOf (src : Nat) : FieldFrame := .presence src

/-- `duty` at address 251. -/
def high : State := { duty with unit := ⟨.duty, true, none, none⟩ }

/-- `high` with slot 12's POLL on segment A's output and a frame on the uplink's transmitter. -/
def highSending : State :=
  { transmitting .poll with unit := high.unit, link := { duty.link with transmitter := some upFrame } }

theorem test_meets_TheLowerAddressWins :
    ((transmitting .poll).ownAddress ≤ 250) ∧
    (∀ k : TxnKind, ∃ (f : FieldFrame) (t : Txn), (transmitting k).held = false ∧ ((transmitting k).seg .a).sending = some f ∧
      ((transmitting k).seg .a).txn = some t ∧ 12 < (transmitting k).ownAddress ∧ 12 ≠ (transmitting k).otherAddress ∧
      t.kind = k ∧ (k = .set → t.slot = some 12)) ∧
    (highSending.held = false ∧ highSending.unit.role = .duty ∧ Settled highSending ∧ highSending.unit.strapHigh = true ∧
      (∃ f, (highSending.seg .a).sending = some f) ∧ highSending.link.transmitter ≠ none ∧
      highSending.link.urgent.length < 16) ∧
    (high.held = false ∧ high.unit.role = .duty ∧ Settled high ∧ high.unit.strapHigh = true ∧ FromOther high (presenceOf 250) ∧
      Quiet high .a) ∧
    (duty.unit.strapHigh = false ∧ Settled duty ∧ FromOther duty (presenceOf 251) ∧ Quiet duty .a) :=
  ⟨by decide, fun k => ⟨_, _, rfl, rfl, rfl, (by decide : 12 < 250), (by decide : 12 ≠ 251), rfl, fun h => by rw [h]; rfl⟩,
    ⟨rfl, rfl, rfl, rfl, ⟨_, rfl⟩, by simp [highSending], show 0 < 16 by decide⟩,
    ⟨rfl, rfl, rfl, rfl, ⟨by decide +kernel, by decide +kernel⟩, ⟨rfl, rfl, rfl⟩⟩,
    ⟨rfl, rfl, ⟨by decide +kernel, by decide +kernel⟩, ⟨rfl, rfl, rfl⟩⟩⟩

theorem test_meets_StandbyHearsTheOtherController :
    (State.reset.held = false ∧ State.reset.unit.role = .standby ∧ Settled State.reset ∧ Quiet State.reset .a) ∧
    (FromOther State.reset (presenceOf 251) ∧ (presenceOf 251).isPoll = false ∧ (presenceOf 251).isSet = false) ∧
    (FromOther State.reset (.poll 251 12) ∧ (FieldFrame.poll 251 12).isPoll = true) ∧
    FromOther State.reset (.set 251 12 440 .engine .trim) ∧ (FieldFrame.set 251 12 440 .engine .trim).isSet = true :=
  ⟨⟨rfl, rfl, rfl, ⟨rfl, rfl, rfl⟩⟩, ⟨⟨by decide +kernel, by decide +kernel⟩, by decide, by decide⟩,
    ⟨⟨by decide +kernel, by decide +kernel⟩, by decide⟩, ⟨by decide +kernel, by decide +kernel⟩, by decide⟩

/-! ### Replies -/

/-- Slot 12, record `w`, awaits the reply to a transaction of kind `k`. -/
def waitingFor (k : TxnKind) (w : Well) : State :=
  segA (fun q => { q with txn := some (inFlight k), sentCopy := if k = .set then some ⟨12, 440, .engine, .trim, 40⟩ else none })
    (one w duty)

theorem awaits_of (k : TxnKind) (w : Well) (h : w.cfg.inService = true) (g : w.cfg.seg = .a) (a : w.cfg.address = 12) :
    Awaits (waitingFor k w) .a (inFlight k) 12 w := ⟨rfl, rfl, rfl, one_well w duty 12, h, g, a⟩

/-- In STANDBY, an exchange of the other controller with slot 12 is open. -/
def overhearing (k : TxnKind) (w : Well) : State :=
  segA (fun q => { q with overheard := some ⟨k, 12, 251, 440, some .engine, some .trim, 0, 200⟩ }) (one w State.reset)

/-- A frame of the wellhead at address 12 to the other controller. -/
def replyToOther (kind : Nat) (p : List Byte) : FieldFrame := .make 12 251 kind p

theorem test_meets_AcceptedSampleIsStored :
    ((reply 2 bareSample).isSample = true ∧ (RawSample.parse (reply 2 bareSample).payload).malformed = false) ∧
    (Awaits (waitingFor .poll well12) .a (inFlight .poll) 12 well12 ∧ (waitingFor .poll well12).held = false ∧
      Arrives (reply 2 bareSample) 12 (waitingFor .poll well12).ownAddress) ∧
    ((overhearing .poll well12).held = false ∧ ((overhearing .poll well12).seg .a).txn = none ∧
      (overhearing .poll well12).wellAt .a 12 = some 12 ∧ (overhearing .poll well12).well 12 = some well12 ∧
      Arrives (replyToOther 2 bareSample) 12 251 ∧ (replyToOther 2 bareSample).isSample = true) :=
  ⟨⟨by decide, by decide⟩,
    ⟨awaits_of _ _ rfl rfl rfl, rfl, ⟨by decide +kernel, by decide +kernel, by decide +kernel⟩⟩,
    ⟨rfl, rfl, by decide +kernel, one_well well12 State.reset 12, ⟨by decide +kernel, by decide +kernel, by decide +kernel⟩, by decide⟩⟩

/-- A SAMPLE payload: its flags, O2, temperature and position; the CH4 is 500, the CO2 300 and the pressure -500. -/
def sampleOf (flags : Byte) (o2 : Nat) (temperature : Byte) (position : Nat) : List Byte :=
  [flags] ++ leBytes 2 500 ++ leBytes 2 300 ++ leBytes 2 o2 ++ leSigned 2 (-500) ++ [temperature, 0, 0] ++ leBytes 2 position

/-- The sample that frame stores in slot 12. -/
def storedOf (p : List Byte) : Sample := (RawSample.parse (reply 2 p).payload).stored 300 0

/-- `well12` one excursion of each kind short of its verification. -/
def near12 : Well := { well12 with excursions := ⟨1, 2, 2, 1⟩ }

/-- A HOT GAS record of slot 12 in service, attached or not. -/
def hotRecord (attached : Bool) : Conditions :=
  { Conditions.reset with stack := [⟨.hotGas, 12, 0, 0, some 0, 254, some 61, some 60, attached⟩] }

theorem hotRecord_lawful (x : Bool) : CondLaw (hotRecord x) := by
  refine ⟨by cases x <;> decide, fun k => ?_, by cases x <;> decide, by cases x <;> decide, by cases x <;> decide⟩
  cases x <;> cases k <;> decide

theorem reset_lawful : CondLaw Conditions.reset := by
  refine ⟨by decide, fun k => ?_, by decide, by decide, by decide⟩
  cases k <;> decide

theorem pending_lawful (k : TxnKind) (w : Well) (h : w.pendingProt = none) : PendingLaw (waitingFor k w) := by
  refine ⟨fun e => absurd e (by simp [waitingFor, segA, State.modSeg, one, duty]), fun i v e => Or.inr ?_⟩
  exact noPending_one w duty h i v e

theorem test_meets_ExcursionsAreCountedAndRaised :
    (∀ p ∈ [bareSample, sampleOf 3 60 60 400, sampleOf 3 59 59 1000],
      (reply 2 p).isSample = true ∧ (RawSample.parse (reply 2 p).payload).malformed = false) ∧
    (Awaits (waitingFor .poll near12) .a (inFlight .poll) 12 near12 ∧ (waitingFor .poll near12).held = false ∧
      Settled (waitingFor .poll near12) ∧ CondLaw (waitingFor .poll near12).conds ∧ PendingLaw (waitingFor .poll near12) ∧
      Arrives (reply 2 (sampleOf 3 60 60 400)) 12 (waitingFor .poll near12).ownAddress) ∧
    (excursionOf Limits.reset (storedOf bareSample) none .hot = none ∧
      excursionOf Limits.reset (storedOf (sampleOf 3 59 59 1000)) none .hot = some false ∧
      excursionOf Limits.reset (storedOf (sampleOf 3 60 60 400)) none .hot = some true ∧
      excursionOf Limits.reset (storedOf (sampleOf 3 60 59 400)) none .oxygen = some true) ∧
    (Verifies (waitingFor .poll near12) 12 near12 .hot ∧ Verifies (waitingFor .poll near12) 12 near12 .oxygen ∧
      ¬ Verifies (waitingFor .poll well12) 12 well12 .hot) ∧
    ((∀ x, CondLaw (hotRecord x)) ∧ (hotRecord true).find .hotGas 12 = (hotRecord true).stack.head? ∧
      State.attachedRec { waitingFor .poll near12 with conds := hotRecord true } .hotGas 12 = true ∧
      State.attachedRec { waitingFor .poll near12 with conds := hotRecord false } .hotGas 12 = false) ∧
    ((waitingFor .poll near12).unit.role = .duty ∧ (waitingFor .poll near12).balancer.lineLost = false ∧
      (lost duty).balancer.lineLost = true ∧ near12.cfg.permitted.allows .flare = true ∧
      (waitingFor .poll near12).stateOf 12 = .tracking ∧ near12.target = some 400 ∧
      (waitingFor .poll near12).protCommand 12 = none) :=
  ⟨by decide +kernel,
    ⟨awaits_of _ _ rfl rfl rfl, rfl, rfl, reset_lawful, pending_lawful _ _ rfl,
      ⟨by decide +kernel, by decide +kernel, by decide +kernel⟩⟩,
    by decide +kernel, ⟨⟨rfl, by decide⟩, ⟨rfl, by decide⟩, fun h => absurd h.2 (by decide)⟩,
    ⟨hotRecord_lawful, by decide, by decide +kernel, by decide +kernel⟩, by decide +kernel⟩

/-- `waitingFor` in RUN, a frame on the uplink's transmitter and the balancing move of slot 95 outstanding. -/
def sampled (w : Well) : State :=
  { waitingFor .poll w with
    link := { duty.link with mode := .run, transmitter := some upFrame }
    balancer := { Balancer.start 0 with move := some ⟨95, .throttle, 300, .flare, .moving⟩ } }

theorem test_meets_AcceptedSampleIsReportedAndTrimmed :
    (Awaits (sampled well12) .a (inFlight .poll) 12 well12 ∧ (sampled well12).held = false ∧ Settled (sampled well12) ∧
      Arrives (reply 2 (sampleOf 3 10 40 400)) 12 (sampled well12).ownAddress ∧
      (reply 2 (sampleOf 3 10 40 400)).isSample = true ∧
      (RawSample.parse (reply 2 (sampleOf 3 10 40 400)).payload).malformed = false ∧
      (sampled well12).link.transmitter ≠ none ∧ (sampled well12).link.routineFill < 64) ∧
    ((sampled well12).unit.role = .duty ∧ (sampled well12).link.mode = .run ∧ (sampled well12).stateOf 12 = .tracking ∧
      well12.move = none ∧ well12.pendingProt = none ∧ (sampled well12).entryOf 12 = none ∧ well12.target = some 400 ∧
      ((sampled well12).seg .a).queue.length < 16 ∧ (sampled well12).balancer.move.isSome = true) ∧
    ((storedOf (sampleOf 3 10 40 400)).moving = false ∧ (storedOf (sampleOf 3 10 40 400)).gas.isSome = true ∧
      (∀ k : ExcKind, excursionOf Limits.reset (storedOf (sampleOf 3 10 40 400)) none k ≠ some true) ∧
      (storedOf bareSample).gas = none ∧ (storedOf (sampleOf 11 10 40 400)).moving = true) ∧
    (trimOutcomeOf cfg12 400 (trimError cfg12 ⟨500, 300, 10, 190⟩) = .applied ∧
      trimOutcomeOf cfg12 400 (trimError cfg12 ⟨520, 300, 10, 170⟩) = .deadband) :=
  ⟨⟨⟨rfl, rfl, rfl, one_well well12 duty 12, rfl, rfl, rfl⟩, rfl, rfl,
      ⟨by decide +kernel, by decide +kernel, by decide +kernel⟩, by decide, by decide, by simp [sampled], by decide⟩,
    by decide +kernel, ⟨by decide +kernel, by decide +kernel, fun k => by cases k <;> decide +kernel, by decide +kernel,
      by decide +kernel⟩, by decide +kernel⟩

/-- A well permitted ENGINE alone. -/
def engineOnly : Well := { well12 with cfg := { cfg12 with permitted := .engine } }

theorem test_meets_AcceptedSampleIsReportedAndTrimmed_raised :
    (∀ w ∈ [near12, well12], (Verifies (sampled w) 12 w .hot ↔ w = near12) ∧ CondLaw (sampled w).conds) ∧
    (excursionOf Limits.reset (storedOf (sampleOf 3 60 60 400)) none .hot = some true ∧
      excursionOf Limits.reset (storedOf (sampleOf 3 60 59 400)) none .oxygen = some true ∧
      Verifies (sampled near12) 12 near12 .oxygen) ∧
    ((sampled near12).unit.role = .duty ∧ (sampled near12).balancer.lineLost = false ∧
      ((sampled well12).stateOf 12).onRoster = true ∧ (sampled well12).routing 12 = some .engine ∧
      (sampled well12).isOpen .engine = true) ∧
    (let w : Well := { near12 with cfg := engineOnly.cfg }
     (lost (sampled w)).balancer.lineLost = true ∧ w.cfg.permitted.allows .flare = false ∧
       (lost (sampled w)).protCommand 12 = none ∧ w.outlet = .engine ∧ ((lost (sampled w)).stateOf 12).onRoster = true) :=
  ⟨fun w h => by
    have c : CondLaw (sampled w).conds := reset_lawful
    refine ⟨?_, c⟩
    rcases List.mem_cons.mp h with rfl | h
    · exact ⟨fun _ => rfl, fun _ => ⟨rfl, by decide⟩⟩
    · rw [List.mem_singleton.mp h]
      exact ⟨fun e => absurd e.2 (by decide), fun e => absurd e (by decide)⟩,
    ⟨by decide +kernel, by decide +kernel, rfl, by decide⟩, by decide +kernel, by decide +kernel⟩

/-- A SET of slot 12's `w` awaits its echo, its copy `c`; the queue holds `q`. -/
def awaitingEcho (w : Well) (c : SentCopy) (q : List Entry) : State :=
  segA (fun x => { x with txn := some (inFlight .set), sentCopy := some c, queue := q }) (one w duty)

theorem awaits_echo (w : Well) (c : SentCopy) (q : List Entry) (h : w.cfg = cfg12) :
    Awaits (awaitingEcho w c q) .a (inFlight .set) 12 w := by
  refine ⟨rfl, rfl, rfl, one_well w duty 12, ?_, ?_, ?_⟩ <;> rw [h] <;> rfl

/-- The copy of slot 12's SET, of this class. -/
def copy12 (cls : Cls) : SentCopy := ⟨12, 440, .engine, cls, 40⟩

/-- Slot 12's entry with this class, sent or not. -/
def entry12 (cls : Cls) (sent : Bool) : Entry := ⟨12, 440, .engine, cls, sent⟩

/-- The SET of slot 12's balancing move awaits its echo, its entry now `e`. -/
def balancingSent (e : Entry) : State :=
  { awaitingEcho well12 (copy12 .balance) [e] with balancer := balancing.balancer }

theorem test_meets_FailedEchoLeavesTheValveAsItWas :
    (∀ cls sent, Awaits (awaitingEcho well12 (copy12 cls) [entry12 cls sent]) .a (inFlight .set) 12 well12) ∧
    (let s := awaitingEcho well12 (copy12 .trim) [entry12 .trim true]
     s.held = false ∧ Settled s ∧ s.unit.role = .duty ∧ (inFlight .set).window = some 0 ∧
       (s.seg .a).sentCopy = some (copy12 .trim) ∧ BelowMissLimit s well12 ∧ NoPending s) ∧
    (Arrives (reply 4 (leBytes 2 441 ++ [1])) 12 250 ∧ (reply 4 (leBytes 2 441 ++ [1])).isEcho = true ∧
      (reply 4 (leBytes 2 441 ++ [1])).echoTarget ≠ 440 ∧ (reply 4 (leBytes 2 440 ++ [2])).echoOutlet ≠ some .engine) ∧
    ((awaitingEcho well12 (copy12 .trim) [entry12 .trim false]).entryOf 12 = some (entry12 .trim false) ∧
      (awaitingEcho well12 (copy12 .trim) [entry12 .trim true]).entryOf 12 = some (entry12 .trim true) ∧
      (awaitingEcho well12 (copy12 .balance) [entry12 .balance true]).entryOf 12 = some (entry12 .balance true)) ∧
    (∀ e, Awaits (balancingSent e) .a (inFlight .set) 12 well12 ∧ ((balancingSent e).seg .a).sentCopy = some (copy12 .balance) ∧
      Settled (balancingSent e) ∧ NoPending (balancingSent e) ∧
      ∃ b, (balancingSent e).balancer.move = some b ∧ b.slot = 12 ∧ b.phase = .queued) ∧
    (balancingSent (entry12 .balance true)).entryOf 12 = some (entry12 .balance true) ∧
    (balancingSent { entry12 .balance false with target := 450 }).entryOf 12 = some { entry12 .balance false with target := 450 } ∧
    well12.answering = true ∧
    (awaitingEcho { well12 with answering := false } (copy12 .protective) [entry12 .protective true]).entryOf 12 =
      some (entry12 .protective true) :=
  ⟨fun _ _ => awaits_echo _ _ _ rfl,
    ⟨rfl, rfl, rfl, rfl, rfl, Or.inr (by decide), noPending_one well12 duty rfl⟩,
    ⟨⟨by decide +kernel, by decide +kernel, by decide +kernel⟩, by decide, by decide, by decide⟩, by decide +kernel,
    fun _ => ⟨awaits_echo _ _ _ rfl, rfl, rfl, noPending_one well12 duty rfl, _, rfl, rfl, rfl⟩, by decide +kernel, by decide +kernel,
    rfl, by decide +kernel⟩

/-- A SAMPLE payload whose fault byte names no fault. -/
def badSample : List Byte := bareSample ++ [9]

theorem test_meets_EveryMissIsChargedOnce :
    ((waitingFor .poll well12).held = false ∧ Settled (waitingFor .poll well12) ∧
      Awaits (waitingFor .poll well12) .a (inFlight .poll) 12 well12 ∧ (inFlight .poll).window = some 0 ∧
      BelowMissLimit (waitingFor .poll { well12 with missCount := 1 }) { well12 with missCount := 1 }) ∧
    ((⟨0, 0, 0, [], 0⟩ : FieldFrame).fits = true ∧ (⟨0, 0, 0, [], 0⟩ : FieldFrame).checkGood = false) ∧
    ((FieldFrame.make 13 250 2 bareSample).fromWellhead = true ∧ (FieldFrame.make 13 250 2 bareSample).source ≠ 12) ∧
    (Arrives (reply 4 [0, 0, 1]) 12 250 ∧ (reply 4 [0, 0, 1]).isSample = false) ∧
    (Arrives (reply 2 badSample) 12 250 ∧ (reply 2 badSample).isSample = true ∧
      (RawSample.parse (reply 2 badSample).payload).malformed = true) ∧
    ((FieldFrame.poll 250 12).complete = true ∧ (FieldFrame.poll 250 12).source = (waitingFor .poll well12).ownAddress ∧
      FromOther (waitingFor .poll well12) (presenceOf 251)) ∧
    (Settled (waitingFor .poll parked12) ∧ ((waitingFor .poll parked12).seg .a).txn = some (inFlight .poll) ∧
      (inFlight .poll).kind = .poll ∧
      ∀ (i : Slot) (w : Well), (inFlight .poll).slot = some i → (waitingFor .poll parked12).well i = some w →
        ¬ (w.cfg.inService = true ∧ w.cfg.seg = .a ∧ w.cfg.address = (inFlight .poll).dest)) :=
  ⟨⟨rfl, rfl, awaits_of _ _ rfl rfl rfl, rfl, Or.inr (by decide)⟩, ⟨by decide, by decide +kernel⟩,
    ⟨by decide +kernel, by decide +kernel⟩, ⟨⟨by decide +kernel, by decide +kernel, by decide +kernel⟩, by decide⟩,
    ⟨⟨by decide +kernel, by decide +kernel, by decide +kernel⟩, by decide, by decide⟩,
    ⟨by decide +kernel, by decide +kernel, by decide +kernel, by decide +kernel⟩,
    ⟨rfl, rfl, rfl, fun i w h e => by
      cases h
      have k : some w = some parked12 := e.symm.trans (one_well parked12 duty 12)
      cases k
      simp [parked12]⟩⟩

theorem test_meets_TheMissLimitMakesTheWellSilent :
    ∃ w : Well, (waitingFor .poll w).held = false ∧ Awaits (waitingFor .poll w) .a (inFlight .poll) 12 w ∧ w.answering = true ∧
      ((waitingFor .poll w).seg .a).settings.missLimit ≤ satInc 15 w.missCount :=
  ⟨{ well12 with missCount := 2 }, rfl, awaits_of _ _ rfl rfl rfl, rfl, by decide⟩

theorem test_meets_GoodEchoWritesTheRecord :
    ((waitingFor .set well12).held = false ∧ (waitingFor .set well12).unit.role = .duty ∧
      Awaits (waitingFor .set well12) .a (inFlight .set) 12 well12 ∧
      ((waitingFor .set well12).seg .a).sentCopy = some ⟨12, 440, .engine, .trim, 40⟩ ∧
      Arrives (reply 4 (leBytes 2 440 ++ [1])) 12 250 ∧ (reply 4 (leBytes 2 440 ++ [1])).isEcho = true ∧
      (reply 4 (leBytes 2 440 ++ [1])).echoTarget = 440 ∧ (reply 4 (leBytes 2 440 ++ [1])).echoOutlet = some .engine) ∧
    ((overhearing .set moving12).unit.role = .standby ∧ ((overhearing .set moving12).seg .a).txn = none ∧
      (overhearing .set moving12).wellAt .a 12 = some 12 ∧ (overhearing .set moving12).well 12 = some moving12 ∧
      Arrives (replyToOther 4 (leBytes 2 440 ++ [1])) 12 251) :=
  ⟨⟨rfl, rfl, awaits_of _ _ rfl rfl rfl, rfl, ⟨by decide +kernel, by decide +kernel, by decide +kernel⟩, by decide, by decide,
      by decide⟩,
    ⟨rfl, rfl, by decide +kernel, one_well moving12 State.reset 12, ⟨by decide +kernel, by decide +kernel, by decide +kernel⟩⟩⟩

theorem test_meets_StrayFramesChangeOneCounter :
    (duty.held = false ∧ Settled duty ∧ Quiet duty .b) ∧ (reply 2 bareSample).fromWellhead = true ∧
      ((FieldFrame.poll 250 12).complete = true ∧ (FieldFrame.poll 250 12).source = duty.ownAddress) ∧
      (⟨0, 0, 0, [], 0⟩ : FieldFrame).checkGood = false :=
  ⟨⟨rfl, rfl, quiet_duty .b⟩, by decide +kernel, by decide +kernel, by decide +kernel⟩

theorem test_meets_OverheardTimeoutClosesTheExchange :
    ((overhearing .poll well12).held = false ∧ Settled (overhearing .poll well12) ∧
      (overhearing .poll well12).wellAt .a 12 = some 12 ∧ (overhearing .poll well12).well 12 = some well12 ∧
      BelowMissLimit (overhearing .poll well12) well12) ∧
    ((overhearing .poll parked12).wellAt .a 12 = none ∧ ((overhearing .poll parked12).seg .a).txn = none ∧
      (⟨0, 0, 0, [], 0⟩ : FieldFrame).fits = true ∧ (⟨0, 0, 0, [], 0⟩ : FieldFrame).checkGood = false) :=
  ⟨⟨rfl, rfl, by decide +kernel, one_well well12 State.reset 12, Or.inr (by decide)⟩, by decide +kernel, rfl, by decide,
    by decide +kernel⟩

/-! ### Timers, pins and figures -/

theorem test_meets_SilenceTakeoverTakesDuty :
    State.reset.held = false ∧ State.reset.unit.role = .standby ∧ State.reset.unit.silenceStart = some 0 ∧
      ∃ s : State, Settled s ∧ s.unit.role = .standby ∧ s.link.transmitter ≠ none ∧ s.link.urgent.length = 13 :=
  ⟨rfl, rfl, rfl, { State.reset with link := { Link.reset with transmitter := some upFrame, urgent := List.replicate 13 upFrame } },
    rfl, rfl, by simp, rfl⟩

/-- `duty` with a frame on the uplink's transmitter. -/
def sending : State := { duty with link := { duty.link with transmitter := some upFrame } }

theorem test_meets_PresenceMoveDemandAndReportTimersExpire :
    ((duty.held = false ∧ duty.unit.role = .duty ∧
      ((segA (fun q => { q with presenceTimer := some 0 }) duty).seg .a).presenceTimer = some 0) ∧
    Quiet (segA (fun q => { q with presenceDue := true }) duty) .a ∧
      ((segA (fun q => { q with presenceDue := true }) duty).seg .a).presenceDue = true) ∧
    ((duty.held = false ∧ (duty.well 12).bind (·.move) = none) ∧
    ((one moving12 duty).well 12 = some moving12 ∧ moving12.move = some ⟨440, .engine, .trim, 40, 0⟩) ∧
    ∃ s : State, s.held = false ∧ s.balancer.demand = some (60000, 8) ∧ s.balancer.demandArrival = some 0) ∧
    (sending.held = false ∧ sending.link.transmitter ≠ none ∧ sending.link.routineFill < 64) ∧
    ({ sending with link := { sending.link with routine := List.replicate 64 upFrame } } : State).link.routineFill = 64 :=
  ⟨⟨⟨rfl, rfl, rfl⟩, ⟨rfl, rfl, rfl⟩, rfl⟩,
    ⟨⟨rfl, by rw [duty_well]; rfl⟩, ⟨one_well _ _ _, rfl⟩,
    ⟨{ duty with balancer := { Balancer.start 0 with demand := some (60000, 8), demandArrival := some 0 } }, rfl, rfl, rfl⟩⟩,
    ⟨rfl, by decide, by decide⟩, by decide⟩

/-- `moving12` with an ACTUATOR count of `n`. -/
def overdue12 (n : Nat) : Well := { moving12 with excursions := ⟨0, 0, 0, n⟩ }

/-- ACTUATOR FAULT of slot 12 in service, attached or not. -/
def actuatorRecord (attached : Bool) : Conditions :=
  { Conditions.reset with stack := [⟨.actuatorFault, 12, 3, 0, some 0, 255, some 400, some 440, attached⟩] }

theorem test_meets_MoveTimeout_counts_an_excursion :
    (State.attachedRec { one moving12 duty with conds := actuatorRecord true } .actuatorFault 12 = true) ∧
    ((one (overdue12 0) duty).attachedRec .actuatorFault 12 = false ∧
      ¬ Verifies (one (overdue12 0) duty) 12 (overdue12 0) .actuator) ∧
    (Verifies (one (overdue12 1) duty) 12 (overdue12 1) .actuator ∧ duty.conds.find .actuatorFault 12 = none) ∧
    (Verifies { one (overdue12 1) duty with conds := actuatorRecord false } 12 (overdue12 1) .actuator ∧
      ((actuatorRecord false).find .actuatorFault 12).isSome = true) ∧
    ∃ s : State, s.well 12 = some moving12 ∧ ∃ b, s.balancer.move = some b ∧ b.slot = 12 ∧ b.phase = .moving :=
  ⟨by decide, ⟨by decide, fun h => absurd h.2 (by decide)⟩, ⟨⟨by decide, by decide⟩, by decide⟩,
    ⟨⟨by decide, by decide⟩, by decide⟩,
    { one moving12 duty with balancer := { Balancer.start 0 with move := some ⟨12, .blendLow, 400, .flare, .moving⟩ } },
    one_well moving12 duty 12, _, rfl, rfl, rfl⟩

/-- Slot 12 alone on the ENGINE roster, these O2 maximum and engine minimum in force, a count of 3 for each line kind. -/
def blended (o2Max engineMin : Nat) : State :=
  { one well12 sending with
    limits := { Limits.reset with engineO2Max := o2Max, engineMin := engineMin }
    balancer := { Balancer.start 0 with counts := ⟨3, 3, 3⟩ } }

theorem test_meets_ReportTimer_evaluates_the_lines :
    (∀ a b, RosterLaw (blended a b) ∧ CondLaw (blended a b).conds ∧ (blended a b).held = false) ∧
    ((reportExpiry (blended 5 450)).lines.engine.status = .oxygen ∧ (reportExpiry (blended 40 800)).lines.engine.status = .low ∧
      (reportExpiry (blended 40 450)).lines.engine.status = .normal) ∧
    ((blended 5 450).hasRec .lineOxygenHigh 96 = false ∧ (blended 5 450).site.verifyLineOxygen ≤ satInc 15 3 ∧
      satInc 15 1 < (blended 5 450).site.verifyLineOxygen) ∧
    ∃ s : State, s.hasRec .lineOxygenHigh 96 = true :=
  ⟨fun _ _ => ⟨one_rosters sending, reset_lawful, rfl⟩, by decide +kernel, by decide,
    { duty with conds := { Conditions.reset with waiting := [⟨.lineOxygenHigh, 96, 1, 0, none, 0, some 50, some 40, true⟩] } },
    by decide⟩

/-- A filter of raw level high with this accepted state and candidate. -/
def filter (accepted : Bool) (candidate : Option Bool) (first : Bool) : State :=
  { duty with trips := duty.trips.put .trip0 ⟨true, accepted, candidate, 0, first⟩ }

/-- TRIP0 and the only mask bit with interval off, so that its acceptance loses the engine line. -/
def followed : State :=
  { duty with
    limits := { Limits.reset with mask := ⟨true, false, false, false, false⟩ }
    site := { SiteSettings.reset with intervals := ⟨.off, .s1, .s1, .s1, .s1⟩ } }

theorem test_meets_TripInputsAreVerifiedOrFollowed :
    ((filter false none true).held = false ∧ ((filter false none true).site.intervals.get .trip0).ms = some 1000 ∧
      ((filter false none true).trips.get .trip0).awaitingFirst = true) ∧
    (let s := filter true none false;
      (s.trips.get .trip0).awaitingFirst = false ∧
        xor (s.trips.get .trip0).rawHigh (s.limits.activeLow.get .trip0) = (s.trips.get .trip0).accepted) ∧
    (let s := filter false none false;
      xor (s.trips.get .trip0).rawHigh (s.limits.activeLow.get .trip0) ≠ (s.trips.get .trip0).accepted ∧
        (s.trips.get .trip0).candidate ≠ some true) ∧
    (let s := filter false (some true) false;
      xor (s.trips.get .trip0).rawHigh (s.limits.activeLow.get .trip0) ≠ (s.trips.get .trip0).accepted ∧
        (s.trips.get .trip0).candidate = some true) ∧
    (duty.held = false ∧ duty.site.intervals.get .trip0 ≠ .off) ∧
    (followed.held = false ∧ followed.site.intervals.get .trip0 = .off) := by decide

theorem test_meets_LineLostBeginsAndEnds :
    (followed.held = false ∧ followed.site.intervals.get .trip0 = .off ∧ followed.combination = false ∧
      (inputChange .trip0 true followed).combination = true ∧ followed.balancer.lineLost = false) ∧
    (Ready (given (plant 12 [6, 96]) (engineLost (.fill false))) (plant 12 [6, 96]) [] ∧ (plant 12 [6, 96]).isKind 12 = true ∧
      parsePair [6, 96] = some (.engineLineLost, 96) ∧
      (engineLost (.fill false)).conds.stack = [⟨.engineLineLost, 96, 0, 0, some 0, 0, some 1, none, true⟩] ∧
      (engineLost (.fill false)).combination = false ∧ (engineLost (.fill false)).balancer.lineLost = true) :=
  ⟨by decide +kernel, ready_given _ _ rfl (by decide) rfl, by decide⟩

/-- TRIP0, alone in the mask, accepted as ACTIVE at its next expiry. -/
def expiring : State := { filter false (some true) false with limits := maskedLimits }

theorem test_meets_LineLostBeginsAndEnds_by_expiry :
    (TripEvent expiring .trip0 (.tripFilterExpiry .trip0) ∧ TripEvent followed .trip0 (.tripInputChange .trip0 true)) ∧
    (expiring.held = false ∧ expiring.combination = false ∧ (filterExpiry .trip0 expiring).combination = true ∧
      expiring.balancer.lineLost = false ∧ expiring.hasRec .engineLineLost 96 = false) ∧
    ((engineStays expiring).combination = false ∧ (filterExpiry .trip0 (engineStays expiring)).combination = true ∧
      (engineStays expiring).balancer.lineLost = true) ∧
    (let s : State := { filter true none false with
       limits := { maskedLimits with activeLow := ⟨true, false, false, false, false⟩ }
       trips := (filter true (some false) false).trips
       balancer := { Balancer.start 0 with lineLost := true } }
     s.combination = true ∧ (filterExpiry .trip0 s).combination = false ∧ s.hasRec .engineLineLost 96 = false) :=
  ⟨⟨Or.inl ⟨rfl, by decide⟩, Or.inr ⟨true, rfl, rfl⟩⟩, by decide +kernel, by decide +kernel, by decide +kernel⟩

/-- `followed` with slot 12, record `w`, on the ENGINE roster; FLARE closed or open. -/
def engineWell (w : Well) (fault : Bool) : State :=
  { one w followed with
    balancer := { Balancer.start 0 with flareFault := fault }
    trips := followed.trips.put .flareFault ⟨false, fault, none, 0, false⟩ }

theorem test_meets_LineLostDivertsTheEngineWells :
    ((one well12 (lost duty)).stateOf 12 = .tracking ∧ (one well12 (lost duty)).routing 12 = some .engine ∧
      (one well12 (lost duty)).isOpen .engine = false ∧ well12.holds.noOutlet = false ∧
      (one well12 (lost duty)).protOutlet 12 = some .flare ∧ (one engineOnly (lost duty)).protOutlet 12 = none ∧
      (one well12 duty).isOpen .engine = true) ∧
    (let s := engineWell well12 false
     s.held = false ∧ s.unit.role = .duty ∧ s.site.intervals.get .trip0 = .off ∧ s.combination = false ∧
       s.balancer.lineLost = false ∧ s.balancer.flareFault = s.trips.flareFault.accepted ∧
       (inputChange .trip0 true s).combination = true ∧ 12 ∈ s.rosters.engine ∧ well12.cfg.permitted.allows .flare = true ∧
       well12.holds.hot = false) ∧
    (RosterLaw (engineWell well12 false) ∧ QueuesLaw (engineWell well12 false) ∧ PendingLaw (engineWell well12 false)) ∧
    (engineOnly.cfg.permitted.allows .flare = false ∧ (engineWell engineOnly false).protCommand 12 = none ∧
      (engineWell engineOnly false).sentProt 12 = none) ∧
    (let s := engineWell well12 true
     s.balancer.flareFault = true ∧ s.balancer.flareFault = s.trips.flareFault.accepted ∧ 12 ∈ s.rosters.engine ∧
       s.protCommand 12 = none ∧ s.sentProt 12 = none) :=
  ⟨by decide +kernel, by decide +kernel,
    ⟨one_rosters followed, fun g => by cases g <;> exact ⟨by decide, by decide, by decide⟩,
      fun e => absurd e (by decide), fun i v e => Or.inr (noPending_one well12 followed rfl i v e)⟩,
    by decide +kernel, by decide +kernel⟩

/-- `well12` held SHUT on ENGINE by NO OUTLET. -/
def closed12 : Well := { well12 with holds := ⟨false, false, false, false, false, true⟩ }

theorem closed_rosters : RosterLaw (one closed12 duty) := by
  intro l
  cases l
  · refine ⟨by simp [one, PerLine.get], fun i => ?_, by simp [one, PerLine.get]⟩
    rw [one_well]
    by_cases h : i = 12
    · simp [h, one, PerLine.get, rosterLine, closed12, well12, wellState, WellState.onRoster, cfg12]
    · simp [h, one, PerLine.get, rosterLine]
  · refine ⟨by simp [one, PerLine.get], fun i => ?_, by simp [one, PerLine.get]⟩
    rw [one_well]
    by_cases h : i = 12
    · simp [h, one, PerLine.get, rosterLine, closed12, well12, wellState, WellState.onRoster, cfg12]
    · simp [h, one, PerLine.get, rosterLine]

/-- Line-lost and flare fault status set, slot 12 SHUT on ENGINE; the next expiry of FLARE FAULT finds it INACTIVE. -/
def reopening : State :=
  { one closed12 duty with
    balancer := { Balancer.start 0 with lineLost := true, flareFault := true }
    conds := engineRecord
    trips := duty.trips.put .flareFault ⟨false, true, some false, 0, false⟩ }

theorem test_meets_LineLostDivertsTheEngineWells_at_the_end_of_flare_fault :
    (reopening.held = false ∧ reopening.unit.role = .duty ∧ reopening.balancer.lineLost = true ∧
      reopening.hasRec .engineLineLost 96 = true ∧ reopening.balancer.flareFault = true ∧
      TripEvent reopening .flareFault (.tripFilterExpiry .flareFault) ∧
      (filterExpiry .flareFault reopening).trips.flareFault.accepted = false) ∧
    (RosterLaw reopening ∧ QueuesLaw reopening ∧ PendingLaw reopening) ∧
    12 ∈ reopening.rosters.engine ∧ reopening.well 12 = some closed12 ∧ closed12.cfg.permitted.allows .flare = true ∧
      closed12.holds.hot = false ∧ closed12.holds.noOutlet = true :=
  ⟨⟨rfl, rfl, rfl, by decide, rfl, Or.inl ⟨rfl, by decide⟩, by decide +kernel⟩,
    ⟨closed_rosters, fun g => by cases g <;> exact ⟨by decide, by decide, by decide⟩,
      fun e => absurd e (by decide), fun i v e => Or.inr (noPending_one closed12 duty rfl i v e)⟩,
    by decide, one_well closed12 duty 12, rfl, rfl, rfl⟩

theorem test_meets_StoredSampleValues :
    let whole := RawSample.parse ([7#8] ++ leBytes 2 1000 ++ leBytes 2 0 ++ leBytes 2 1 ++ leBytes 2 0 ++ [0] ++ leBytes 2 4001 ++
      leBytes 2 1001)
    let bare := RawSample.parse bareSample
    whole.gas = some (1000, 0, 1) ∧ 1000 < 1000 + 0 + 1 ∧ whole.flow = some 4001 ∧ bare.gas = none ∧ bare.flow = none ∧
      bare.position = 0 := by decide

/-- A gas block at the ends of its ranges. -/
def extreme : GasBlock := ⟨1000, 0, 0, 1000⟩

theorem test_meets_TrimErrorInStages :
    extreme.ch4 ≤ 1000 ∧ cfg12.ch4Target ≤ 1000 ∧ extreme.o2 ≤ 1000 ∧ extreme.balance ≤ 1000 := by decide

theorem test_meets_TrimStepIsTruncatedAndClamped :
    (cfg12.gain ≤ 255 ∧ ({ cfg12 with gain := 1 } : WellCfg).gain = 1 ∧ ({ cfg12 with gain := 0 } : WellCfg).gain = 0) ∧
      cfg12.pmin ≤ cfg12.pmax ∧ -(cfg12.step : Int) ≤ rawStep cfg12 32 ∧ rawStep cfg12 32 ≤ cfg12.step ∧
      (cfg12.pmin : Int) ≤ 860 + clampedStep cfg12 32 ∧ (860 : Int) + clampedStep cfg12 32 ≤ cfg12.pmax := by decide +kernel

theorem test_meets_TravelByWhatTheRecordHolds :
    well12.target = some 400 ∧ (({ well12 with target := none } : Well).last = some sample12) ∧
      (({ well12 with target := none, last := none } : Well).target = none) ∧ sample12.position ≤ 1000 := by decide

/-- Slot 12 on ENGINE, its line's O2 above the maximum; `balancing`'s move is not outstanding, and the interval has passed. -/
def excess (queue : List Entry) : State :=
  segA (fun q => { q with queue := queue })
    { one well12 running with
      timeBase := 200000
      lines := ⟨⟨.oxygen, 1, 300, 150000, 3000, some 500, some 50, some 200000⟩, State.reset.lines.flare⟩ }

/-- 16 entries of other slots. -/
def full : List Entry := (List.range 16).map fun n => ⟨Fin.ofNat 96 (n + 20), 400, .engine, .protective, false⟩

theorem test_meets_BlendsStatusAndBalancing :
    (∀ c ∈ [(⟨2, 500, 300, 20⟩ : Contrib), ⟨19, 0, 700, 20⟩], 300 ≤ c.ch4 ∧ c.ch4 ≤ 700) ∧
      sumFlow [(⟨2, 500, 300, 20⟩ : Contrib), ⟨19, 0, 700, 20⟩] ≠ 0 ∧ sumFlow [(⟨19, 0, 700, 20⟩ : Contrib)] = 0 ∧
      Limits.reset.engineO2Max < 41 ∧ 449 < Limits.reset.engineMin ∧ 179 < Limits.reset.flareMin ∧
      (∀ c ∈ [(⟨2, 500, 300, 20⟩ : Contrib), ⟨19, 0, 700, 30⟩], 20 ≤ c.o2 ∧ c.o2 ≤ 30) := by decide

theorem test_meets_BlendsStatusAndBalancing_pass :
    ((excess []).chooseBalance = some ⟨12, .o2Excess, 400, .flare, .queued⟩ ∧ (excess []).entryOf 12 = none ∧
      ((excess []).seg .a).queue.length < 16) ∧
    ((excess full).chooseBalance = some ⟨12, .o2Excess, 400, .flare, .queued⟩ ∧ (excess full).entryOf 12 = none ∧
      16 ≤ ((excess full).seg .a).queue.length ∧ NoPending (excess full)) ∧
    (∃ s : State, s.held = false ∧ s.unit.role = .standby) ∧
    ∀ sent, let s : State := { awaitingEcho well12 (copy12 .balance) [entry12 .balance sent] with balancer := balancing.balancer }
      s.held = false ∧ s.unit.role = .duty ∧ s.entryOf 12 = some (entry12 .balance sent) ∧
        (∃ b, s.balancer.move = some b ∧ b.slot = 12 ∧ b.phase = .queued) ∧ s.isOpen .engine = true ∧
        1 ≤ s.site.balanceInterval ∧ (reply 4 (leBytes 2 440 ++ [1])).echoOutlet = some .engine :=
  ⟨by decide +kernel, ⟨by decide +kernel, by decide +kernel, by decide +kernel, noPending_one well12 running rfl⟩,
    ⟨State.reset, rfl, rfl⟩, fun sent => by
    refine ⟨rfl, rfl, ?_, ⟨_, rfl, rfl, rfl⟩, rfl, show 1 ≤ 120 by decide, by decide⟩
    cases sent <;> decide +kernel⟩

theorem test_meets_SentFramesCarryTheirCheckAndAddresses : 0 < 256 ∧ 255 < 256 := by decide

/-! ### Invariants -/

/-- A state of every law: slot 12 alone, with a TRIM entry, a pending condition and a frame in each uplink queue. -/
def lawful : State :=
  { segA (fun q => { q with queue := [trim12] }) (one well12 duty) with
    conds := conditions
    link := { duty.link with urgent := [upFrame], routine := [upFrame], transmitter := some upFrame } }

theorem test_meets_the_invariants :
    LinkLaw lawful.link ∧ QueuesLaw lawful ∧ RosterLaw lawful ∧ CondLaw lawful.conds ∧ RoleLaw lawful.unit ∧
      AddressLaw lawful ∧ Settled lawful ∧ PendingLaw lawful ∧ ∃ t, step lawful = .next t := by
  refine ⟨⟨by decide, by decide, by decide⟩, fun g => ?_, one_rosters duty, ?_, by simp [RoleLaw, lawful, segA, State.modSeg, one, duty],
    ?_, rfl, ⟨fun e => absurd e (by decide), fun i v e => Or.inr (noPending_one well12 duty rfl i v e)⟩, _, rfl⟩
  · cases g <;> refine ⟨by decide, by decide, ?_⟩ <;> simp [lawful, segA, State.modSeg, State.seg, PerSeg.put, PerSeg.get, one,
      duty, State.reset, PerSeg.all, Segment.start]
  · refine ⟨by decide, fun k => ?_, by decide, by decide, by decide⟩
    cases k <;> decide
  · intro i j w v hi hj _
    have e : ∀ k : Slot, lawful.well k = if k = 12 then some well12 else none := one_well well12 duty
    rw [e] at hi hj
    by_cases a : i = 12 <;> by_cases b : j = 12
    · rw [a, b]
    · rw [if_neg b] at hj; exact absurd hj (by simp)
    · rw [if_neg a] at hi; exact absurd hi (by simp)
    · rw [if_neg a] at hi; exact absurd hi (by simp)

/-- Slot 12's move, of travel 40, on segment A. -/
def travelling : State := segA (fun q => { q with outstanding := 40 }) (one moving12 duty)

theorem test_meets_OutstandingTravelIsTheSumOfTheMoves : TravelLaw travelling ∧ ∃ t, step travelling = .next t := by
  refine ⟨⟨fun g => ?_, fun i w e h => ?_, fun g c e => ?_⟩, _, rfl⟩
  · cases g <;> decide +kernel
  · have e : (if i = 12 then some moving12 else none) = some w := (one_well moving12 duty i).symm.trans e
    by_cases x : i = 12
    · rw [if_pos x] at e; injection e with e; rw [← e] at h; exact absurd h (by decide)
    · rw [if_neg x] at e; exact absurd e (by simp)
  · cases g <;> exact absurd e (by simp [travelling, segA, State.modSeg, State.seg, PerSeg.put, PerSeg.get, one, duty,
      State.reset, PerSeg.all, Segment.start])

theorem test_meets_OnlyLoadingRowsChangeSettings :
    (∃ (c : Instr) (s t : State), c ∉ plantRows ∧ c ≠ .resetAsserted ∧ (∀ h, c ≠ .resetReleased h) ∧ exec c s = .next t) ∧
      ∃ (c : Instr) (s t : State), c ∈ plantRows ∧ c ∉ loadingRows ∧ exec c s = .next t :=
  ⟨⟨.reportTimer, State.reset, _, by decide, by decide, by simp, rfl⟩, ⟨.demand, State.reset, _, by decide, by decide, rfl⟩⟩

end Sys2Proof.Tests
end

section
/-! The values a sample is stored with (R34 to R36), field by field, and the statement on them. -/

namespace Sys2Proof

open Machine

/-! ## The clamp (R1) -/

/-- A natural number is never below 0, so only the upper end clamps. -/
@[simp] theorem clampNat_zero (hi x : Nat) : clampNat 0 hi x = min x hi := by
  rw [clampNat, if_neg (Nat.not_lt_zero x)]
  split <;> omega

/-! ## Rejection (R33) -/

/-- What a sample that is not malformed has passed: each gas on its own, not their sum, and every fault code. -/
theorem RawSample.malformed_eq_false_iff (r : RawSample) :
    r.malformed = false ↔
      (∀ m c o, r.gas = some (m, c, o) → m ≤ 1000 ∧ c ≤ 1000 ∧ o ≤ 1000) ∧
        ∀ b ∈ r.faultBytes, (faultOfCode b).isSome = true := by
  unfold RawSample.malformed
  cases r.gas with
  | none => simp [Option.isSome_iff_ne_none]
  | some x =>
    obtain ⟨m, c, o⟩ := x
    simp only [Bool.or_eq_false_iff, decide_eq_false_iff_not, Nat.not_lt, List.any_eq_false, Option.some.injEq,
      Prod.mk.injEq, Option.isNone_iff_eq_none, ← Option.isSome_iff_ne_none]
    constructor
    · rintro ⟨⟨⟨hm, hc⟩, ho⟩, hfaults⟩
      exact ⟨by rintro _ _ _ ⟨rfl, rfl, rfl⟩; exact ⟨hm, hc, ho⟩, hfaults⟩
    · rintro ⟨hgas, hfaults⟩
      obtain ⟨hm, hc, ho⟩ := hgas m c o ⟨rfl, rfl, rfl⟩
      exact ⟨⟨⟨hm, hc⟩, ho⟩, hfaults⟩

/-! ## The gas block (R35) -/

@[simp] theorem gasBlockOf_ch4 (m c o : Nat) : (gasBlockOf m c o).ch4 = m := rfl
@[simp] theorem gasBlockOf_co2 (m c o : Nat) : (gasBlockOf m c o).co2 = c := rfl
@[simp] theorem gasBlockOf_o2 (m c o : Nat) : (gasBlockOf m c o).o2 = o := rfl

/-- The three subtractions are one of the sum, which stops at 0 where the sum exceeds 1000. -/
@[simp] theorem gasBlockOf_balance (m c o : Nat) : (gasBlockOf m c o).balance = 1000 - (m + c + o) := by
  change 1000 - m - c - o = 1000 - (m + c + o)
  omega

theorem RawSample.stored_gas_of_some {r : RawSample} {m c o : Nat} (h : r.gas = some (m, c, o)) (a t : Nat) :
    (r.stored a t).gas = some (gasBlockOf m c o) := by
  simp [RawSample.stored, h]

theorem RawSample.stored_gas_of_none {r : RawSample} (h : r.gas = none) (a t : Nat) : (r.stored a t).gas = none := by
  simp [RawSample.stored, h]

/-! ## The flow (R36) -/

@[simp] theorem RawSample.stored_flowMeasured (r : RawSample) (a t : Nat) :
    (r.stored a t).flowMeasured = r.flow.isSome := rfl

theorem RawSample.stored_flow_of_some {r : RawSample} {f : Nat} (h : r.flow = some f) (a t : Nat) :
    (r.stored a t).flow = min f 4000 := by
  simp [RawSample.stored, h]

theorem RawSample.stored_flow_of_none {r : RawSample} (h : r.flow = none) (a t : Nat) :
    (r.stored a t).flow = a * min r.position 1000 / 1000 := by
  simp [RawSample.stored, h]

/-- The estimate is at most the assumed flow, since the clamped position is at most 1000. -/
theorem estimate_le (a position : Nat) : a * min position 1000 / 1000 ≤ a :=
  calc a * min position 1000 / 1000
      ≤ a * 1000 / 1000 := Nat.div_le_div_right (Nat.mul_le_mul_left a (Nat.min_le_right position 1000))
    _ = a := Nat.mul_div_cancel a (by decide)

/-- Measured or estimated, the stored flow keeps the range of a flow. -/
theorem RawSample.stored_flow_le (r : RawSample) (a t : Nat) (ha : a ≤ 4000) : (r.stored a t).flow ≤ 4000 := by
  cases h : r.flow with
  | some f => exact (stored_flow_of_some h a t).trans_le (Nat.min_le_right f 4000)
  | none => exact (stored_flow_of_none h a t).trans_le ((estimate_le a r.position).trans ha)

/-- Without an assumed flow, or with the valve closed, the estimate is 0. -/
theorem RawSample.stored_flow_eq_zero {r : RawSample} (h : r.flow = none) (a t : Nat) (hz : a = 0 ∨ r.position = 0) :
    (r.stored a t).flow = 0 := by
  rw [stored_flow_of_none h]
  rcases hz with ha | hp
  · simp [ha]
  · simp [hp]

/-! ## The statement -/

/-- Settles O45, from the stored gas block, the test of R33 and the stored flow. -/
theorem storedSampleValues : Obligations.StoredSampleValues := by
  unfold Obligations.StoredSampleValues
  refine ⟨fun r a t => ⟨fun m c o h => ?present, fun h => r.stored_gas_of_none h a t⟩,
    fun r m c o h hm hc ho hfaults => ?wellFormed, fun r a t => ⟨fun f h => ?measured, fun h => ?estimated,
      r.stored_flow_le a t, fun h => r.stored_flow_eq_zero h a t⟩⟩
  case present =>
    refine ⟨gasBlockOf m c o, r.stored_gas_of_some h a t, rfl, rfl, rfl, ?_⟩
    rw [gasBlockOf_balance]
    omega
  case wellFormed =>
    rw [r.malformed_eq_false_iff, h, hfaults]
    simp [hm, hc, ho]
  case measured => exact ⟨r.stored_flow_of_some h a t, by simp [h]⟩
  case estimated => exact ⟨r.stored_flow_of_none h a t, by simp [h]⟩

end Sys2Proof
end

section
/-! The trim error and the step made of it (R61, R63 to R65): the clamp, the stages of the error, the raw step by its division,
and the statements on them. -/

namespace Sys2Proof

open Machine

/-! ## The clamp of a signed figure (R1) -/

theorem clampInt_eq_max_min {lo hi : Int} (h : lo ≤ hi) (x : Int) : clampInt lo hi x = max lo (min x hi) := by
  unfold clampInt
  split
  · omega
  · split <;> omega

theorem le_clampInt {lo hi : Int} (h : lo ≤ hi) (x : Int) : lo ≤ clampInt lo hi x :=
  (le_max_left lo (min x hi)).trans_eq (clampInt_eq_max_min h x).symm

theorem clampInt_le {lo hi : Int} (h : lo ≤ hi) (x : Int) : clampInt lo hi x ≤ hi :=
  (clampInt_eq_max_min h x).trans_le (max_le h (min_le_right x hi))

theorem clampInt_eq_self {lo hi x : Int} (hlo : lo ≤ x) (hhi : x ≤ hi) : clampInt lo hi x = x := by
  rw [clampInt, if_neg hlo.not_gt, if_neg hhi.not_gt]

/-! ## The trim error (R61) -/

/-- An excess over a threshold is at most the reading itself, whatever the threshold. -/
theorem excess_le (reading threshold : Nat) : max 0 ((reading : Int) - threshold) ≤ reading :=
  max_le (Int.natCast_nonneg reading) (Int.sub_le_self _ (Int.natCast_nonneg threshold))

/-- The penalties act in one direction: no penalty raises the error above the quality error. -/
theorem trimError_le_quality (c : WellCfg) (x : GasBlock) : trimError c x ≤ (x.ch4 : Int) - c.ch4Target := by
  have hoxygen : 0 ≤ 4 * max 0 ((x.o2 : Int) - c.o2Soft) := mul_nonneg (by decide) (le_max_left 0 _)
  have hbalance : 0 ≤ max 0 ((x.balance : Int) - c.balanceCeiling) := le_max_left 0 _
  unfold trimError
  linarith

/-! ## The raw step (R63) -/

@[simp] theorem rawStep_neg (c : WellCfg) (e : Int) : rawStep c (-e) = -rawStep c e := by
  rw [rawStep, Int.mul_neg, Int.neg_tdiv, rawStep]

/-- For an error of 0 or more, truncation is the quotient with a remainder. -/
theorem rawStep_of_nonneg (c : WellCfg) {e : Int} (he : 0 ≤ e) : rawStep c e = c.gain * e / 16 :=
  Int.tdiv_eq_ediv_of_nonneg (mul_nonneg (Int.natCast_nonneg c.gain) he)

/-- The quotient of a product of 0 or more is cut off downward. -/
theorem rawStep_bounds_of_nonneg (c : WellCfg) {e : Int} (he : 0 ≤ e) :
    16 * rawStep c e ≤ c.gain * e ∧ (c.gain : Int) * e < 16 * rawStep c e + 16 := by
  rw [rawStep_of_nonneg c he]
  exact ⟨Int.mul_ediv_self_le (by decide), Int.lt_mul_ediv_self_add (by decide)⟩

/-- The quotient of a product of 0 or less is cut off upward, as the mirror image. -/
theorem rawStep_bounds_of_nonpos (c : WellCfg) {e : Int} (he : e ≤ 0) :
    (c.gain : Int) * e ≤ 16 * rawStep c e ∧ 16 * rawStep c e - 16 < c.gain * e := by
  have hmirror := rawStep_bounds_of_nonneg c (Int.neg_nonneg_of_nonpos he)
  rw [rawStep_neg, Int.mul_neg (c.gain : Int)] at hmirror
  omega

/-- The product of a gain of one byte and an error in its range. -/
theorem gain_mul_error_bounds {c : WellCfg} {e : Int} (hg : c.gain ≤ 255) (hlo : -6000 ≤ e) (hhi : e ≤ 1000) :
    -1530000 ≤ (c.gain : Int) * e ∧ (c.gain : Int) * e ≤ 255000 := by
  have hgain : (0 : Int) ≤ c.gain := Int.natCast_nonneg c.gain
  have hleast : (c.gain : Int) * -6000 ≤ c.gain * e := mul_le_mul_of_nonneg_left hlo hgain
  have hgreatest : (c.gain : Int) * e ≤ c.gain * 1000 := mul_le_mul_of_nonneg_left hhi hgain
  omega

/-- Truncation moves the quotient toward 0, so the bounds of the product, divided by 16, hold of the step. -/
theorem rawStep_range {c : WellCfg} {e : Int} (hg : c.gain ≤ 255) (hlo : -6000 ≤ e) (hhi : e ≤ 1000) :
    -95625 ≤ rawStep c e ∧ rawStep c e ≤ 15937 := by
  have hproduct := gain_mul_error_bounds hg hlo hhi
  rcases le_total 0 e with he | he
  · have hstep := rawStep_bounds_of_nonneg c he
    have hsign : 0 ≤ (c.gain : Int) * e := mul_nonneg (Int.natCast_nonneg c.gain) he
    omega
  · have hstep := rawStep_bounds_of_nonpos c he
    have hsign : (c.gain : Int) * e ≤ 0 := mul_nonpos_of_nonneg_of_nonpos (Int.natCast_nonneg c.gain) he
    omega

theorem rawStep_of_gain_one {c : WellCfg} (hg : c.gain = 1) (e : Int) : rawStep c e = e.tdiv 16 := by
  rw [rawStep, hg, Nat.cast_one, one_mul]

theorem rawStep_of_gain_zero {c : WellCfg} (hg : c.gain = 0) (e : Int) : rawStep c e = 0 := by
  rw [rawStep, hg, Nat.cast_zero, zero_mul, Int.zero_tdiv]

/-- With a gain of 1 the errors below 16 vanish on both sides of 0. -/
theorem rawStep_eq_zero_of_gain_one {c : WellCfg} {e : Int} (hg : c.gain = 1) (hlo : -15 ≤ e) (hhi : e ≤ 15) :
    rawStep c e = 0 := by
  rcases le_total 0 e with he | he
  · have hstep := rawStep_bounds_of_nonneg c he
    rw [hg, Nat.cast_one, one_mul] at hstep
    omega
  · have hstep := rawStep_bounds_of_nonpos c he
    rw [hg, Nat.cast_one, one_mul] at hstep
    omega

/-! ## The clamped step and the target (R64, R65) -/

theorem clampedStep_bounds (c : WellCfg) (e : Int) : -(c.step : Int) ≤ clampedStep c e ∧ clampedStep c e ≤ c.step :=
  have hlimits : -(c.step : Int) ≤ c.step := by omega
  ⟨le_clampInt hlimits _, clampInt_le hlimits _⟩

theorem clampedStep_eq_rawStep {c : WellCfg} {e : Int} (hlo : -(c.step : Int) ≤ rawStep c e) (hhi : rawStep c e ≤ c.step) :
    clampedStep c e = rawStep c e :=
  clampInt_eq_self hlo hhi

theorem trimTarget_bounds {c : WellCfg} (hrange : c.pmin ≤ c.pmax) (target : Nat) (e : Int) :
    (c.pmin : Int) ≤ trimTarget c target e ∧ trimTarget c target e ≤ c.pmax :=
  have hrange' : (c.pmin : Int) ≤ c.pmax := Int.ofNat_le.mpr hrange
  ⟨le_clampInt hrange' _, clampInt_le hrange' _⟩

theorem trimTarget_eq_trimAim {c : WellCfg} {target : Nat} {e : Int} (hlo : c.pmin ≤ trimAim c target e)
    (hhi : trimAim c target e ≤ c.pmax) : trimTarget c target e = trimAim c target e :=
  clampInt_eq_self hlo hhi

/-! ## The statements -/

/-- Settles O46: the stages by definition, each range from that of its reading. -/
theorem trimErrorInStages : Obligations.TrimErrorInStages := by
  unfold Obligations.TrimErrorInStages
  intro c x quality oxygen balance
  have hstages : trimError c x = quality - oxygen - balance := rfl
  refine ⟨hstages, trimError_le_quality c x, fun hch4 htarget ho2 hbal => ?_⟩
  have hquality : -1000 ≤ quality ∧ quality ≤ 1000 := by omega
  have hoxygen : 0 ≤ oxygen ∧ oxygen ≤ 4 * x.o2 :=
    ⟨mul_nonneg (by decide) (le_max_left 0 _), mul_le_mul_of_nonneg_left (excess_le x.o2 c.o2Soft) (by decide)⟩
  have hbalance : 0 ≤ balance ∧ balance ≤ x.balance := ⟨le_max_left 0 _, excess_le x.balance c.balanceCeiling⟩
  omega

/-- Settles O47: the division by its two signs, the examples of R63, and the two clamps. -/
theorem trimStepIsTruncatedAndClamped : Obligations.TrimStepIsTruncatedAndClamped := by
  unfold Obligations.TrimStepIsTruncatedAndClamped
  refine ⟨fun c e => ⟨rawStep_bounds_of_nonneg c, rawStep_bounds_of_nonpos c, rawStep_neg c e, fun hg hlo hhi => ?ranges,
      fun hg => ?gainOne, fun hg => rawStep_of_gain_zero hg e⟩,
    fun c target e hrange => ⟨clampedStep_bounds c e, clampedStep_eq_rawStep, trimTarget_bounds hrange target e,
      trimTarget_eq_trimAim⟩⟩
  case ranges =>
    obtain ⟨hleast, hgreatest⟩ := gain_mul_error_bounds hg hlo hhi
    exact ⟨hleast, hgreatest, rawStep_range hg hlo hhi⟩
  case gainOne =>
    refine ⟨rawStep_eq_zero_of_gain_one hg, ?_, ?_, ?_⟩ <;> rw [rawStep_of_gain_one hg] <;> rfl

end Sys2Proof
end

section
/-! The travel of an entry (R160): what it is measured from, case by case, and the statement on it. -/

namespace Sys2Proof

open Machine

/-! ## The distance of two positions -/

/-- Of the two truncated differences the one taken the wrong way round is 0, so the greater is the distance. -/
theorem dist_eq_max (t x : Nat) : dist t x = max (t - x) (x - t) := by
  unfold dist
  split <;> omega

/-- Two positions of one range lie no further apart than the range is long. -/
theorem dist_le {t x n : Nat} (ht : t ≤ n) (hx : x ≤ n) : dist t x ≤ n := by
  rw [dist_eq_max]
  exact max_le ((Nat.sub_le t x).trans ht) ((Nat.sub_le x t).trans hx)

/-! ## The three lines of R160 -/

theorem travelOf_of_target {w : Well} {x : Nat} (htarget : w.target = some x) (t : Nat) : travelOf w t = dist t x := by
  rw [travelOf, htarget]

theorem travelOf_of_last {w : Well} {q : Sample} (htarget : w.target = none) (hlast : w.last = some q) (t : Nat) :
    travelOf w t = dist t q.position := by
  rw [travelOf, htarget, hlast]

/-- The valve may stand at either end, so the further end is charged. -/
theorem travelOf_of_neither {w : Well} (htarget : w.target = none) (hlast : w.last = none) (t : Nat) :
    travelOf w t = max t (1000 - t) := by
  rw [travelOf, htarget, hlast, max_def]

/-- Every line of R160 measures within the valve's range. -/
theorem travelOf_le {w : Well} {t : Nat} (ht : t ≤ 1000) (htargets : ∀ x, w.target = some x → x ≤ 1000)
    (hsamples : ∀ q, w.last = some q → q.position ≤ 1000) : travelOf w t ≤ 1000 := by
  cases htarget : w.target with
  | some x => exact (travelOf_of_target htarget t).trans_le (dist_le ht (htargets x htarget))
  | none =>
    cases hlast : w.last with
    | some q => exact (travelOf_of_last htarget hlast t).trans_le (dist_le ht (hsamples q hlast))
    | none => exact (travelOf_of_neither htarget hlast t).trans_le (max_le ht (Nat.sub_le 1000 t))

/-! ## The statement -/

/-- Settles O48: the three lines of R160, and the range they share. -/
theorem travelByWhatTheRecordHolds : Obligations.TravelByWhatTheRecordHolds := by
  unfold Obligations.TravelByWhatTheRecordHolds
  exact fun w t => ⟨fun x htarget => (travelOf_of_target htarget t).trans (dist_eq_max t x),
    fun q htarget hlast => (travelOf_of_last htarget hlast t).trans (dist_eq_max t q.position),
    fun htarget hlast => travelOf_of_neither htarget hlast t, travelOf_le⟩

end Sys2Proof
end

section
/-! What a command can do, said once: a reset, an event of the field, the pins, the time base or the link, or a row of the plant
computer. Every invariant is then a statement about these. -/

set_option Elab.async false

namespace Sys2Proof.Machine

/-- The commands that are neither resets nor rows of the plant computer, with what each makes of the state. -/
inductive Event : Instr → (State → State) → Prop
  | plantFrameReceived (f : PlantFrame) : Event (.plantFrameReceived f) (whileRunning (receivePlant f))
  | plantFrameAbandoned : Event .plantFrameAbandoned (whileRunning countLinkError)
  | uplinkFrameSent : Event .uplinkFrameSent (whileRunning uplinkSent)
  | poll (g : Seg) : Event (.poll g) (whileRunning (takeTurn g Turn.isPoll))
  | set (g : Seg) : Event (.set g) (whileRunning (takeTurn g Turn.isSet))
  | presenceTimerExpiry (g : Seg) : Event (.presenceTimerExpiry g) (whileRunning (presenceExpiry g))
  | presence (g : Seg) : Event (.presence g) (whileRunning (sendPresence g))
  | frameTransmitted (g : Seg) : Event (.frameTransmitted g) (whileRunning (frameSent g))
  | arbitrationLoss (g : Seg) (w : Nat) : Event (.arbitrationLoss g w) (whileRunning (loseArbitration g w))
  | sample (g : Seg) (f : FieldFrame) : Event (.sample g f) (whileRunning (receiveFrame g f))
  | echo (g : Seg) (f : FieldFrame) : Event (.echo g f) (whileRunning (receiveFrame g f))
  | otherControllerFrame (g : Seg) (f : FieldFrame) :
      Event (.otherControllerFrame g f) (whileRunning (receiveFrame g f))
  | strayFrame (g : Seg) (f : FieldFrame) : Event (.strayFrame g f) (whileRunning (receiveFrame g f))
  | fieldCheckFailure (g : Seg) (f : FieldFrame) : Event (.fieldCheckFailure g f) (whileRunning (receiveFrame g f))
  | replyOfWrongKind (g : Seg) (f : FieldFrame) : Event (.replyOfWrongKind g f) (whileRunning (receiveFrame g f))
  | ownAddressFrame (g : Seg) (f : FieldFrame) : Event (.ownAddressFrame g f) (whileRunning (receiveFrame g f))
  | fieldFrameAbandoned (g : Seg) :
      Event (.fieldFrameAbandoned g) (whileRunning fun s => runEvals (receptionError g s))
  | replyTimeout (g : Seg) : Event (.replyTimeout g) (whileRunning (windowCloses g))
  | overheardTimeout (g : Seg) : Event (.overheardTimeout g) (whileRunning (overheardExpiry g))
  | silenceTakeover : Event .silenceTakeover (whileRunning silenceExpiry)
  | moveTimeout (i : Slot) : Event (.moveTimeout i) (whileRunning (moveExpiry i))
  | tripFilterExpiry (t : Trip) : Event (.tripFilterExpiry t) (whileRunning (filterExpiry t))
  | tripInputChange (t : Trip) (high : Bool) : Event (.tripInputChange t high) (inputChange t high)
  | reportTimer : Event .reportTimer (whileRunning reportExpiry)
  | demandTimeout : Event .demandTimeout (whileRunning demandExpiry)

/-- The rows of the plant computer but RESTART, each with the rules of its command. -/
inductive Row : Instr → (PlantFrame → State → Answer) → Prop
  | loadWell : Row .loadWell runLoadWell
  | loadWellVacate : Row .loadWellVacate runVacate
  | loadSegment : Row .loadSegment runLoadSegment
  | loadSite : Row .loadSite runLoadSite
  | unlock : Row .unlock runUnlock
  | loadLimits : Row .loadLimits runLoadLimits
  | loadCondition : Row .loadCondition runLoadCondition
  | readWell : Row .readWell runRead
  | readLine : Row .readLine runRead
  | readSegment : Row .readSegment runRead
  | readSegmentClear : Row .readSegmentClear runRead
  | readConditionLevels : Row .readConditionLevels runRead
  | readInServiceStack : Row .readInServiceStack runRead
  | readPendingSet : Row .readPendingSet runRead
  | readConditionPair : Row .readConditionPair runRead
  | readRole : Row .readRole runRead
  | readSite : Row .readSite runRead
  | readLimits : Row .readLimits runRead
  | readLink : Row .readLink runRead
  | readLinkClear : Row .readLinkClear runRead
  | readLineState : Row .readLineState runRead
  | demand : Row .demand runDemand
  | modeRun : Row .modeRun runMode
  | modeHold : Row .modeHold runMode
  | force : Row .force runForce
  | release : Row .release runRelease
  | clear : Row .clear runClear
  | dismiss : Row .dismiss runDismiss
  | budgetReset : Row .budgetReset runBudgetReset
  | malformed : Row .malformed fun _ s => refuse .malformed s

theorem Event.exec_eq {c : Instr} {f : State → State} (h : Event c f) (s : State) : exec c s = .next (f s) := by
  cases h <;> rfl

/-- A row executes the frame it takes. -/
theorem Row.exec_eq {c : Instr} {run : PlantFrame → State → Answer} (h : Row c run) (s : State) :
    exec c s = .next (whileRunning (executeFrame (takes c) run) s) := by
  cases h <;> rfl

/-- Every command is a reset, an event, a row of the plant computer, or RESTART. -/
theorem instr_cases (c : Instr) :
    c = .resetAsserted ∨ (∃ high, c = .resetReleased high) ∨ (∃ f, Event c f) ∨ (∃ run, Row c run) ∨ c = .restart := by
  cases c with
  | resetAsserted => exact .inl rfl
  | resetReleased high => exact .inr (.inl ⟨high, rfl⟩)
  | restart => exact .inr (.inr (.inr (.inr rfl)))
  | _ => first
    | exact .inr (.inr (.inl ⟨_, by constructor⟩))
    | exact .inr (.inr (.inr (.inl ⟨_, by constructor⟩)))

/-- What a command leaves, by what it is. -/
theorem exec_cases {c : Instr} {s t : State} (h : exec c s = .next t) :
    (∃ held strap, t = powerOn held strap s) ∨ (∃ f, Event c f ∧ t = f s) ∨
      (∃ run, Row c run ∧ t = whileRunning (executeFrame (takes c) run) s) ∨ t = whileRunning executeRestart s := by
  rcases instr_cases c with rfl | ⟨high, rfl⟩ | ⟨f, hf⟩ | ⟨run, hr⟩ | rfl
  · exact .inl ⟨_, _, (Host.Outcome.next.inj h).symm⟩
  · exact .inl ⟨_, _, (Host.Outcome.next.inj h).symm⟩
  · exact .inr (.inl ⟨f, hf, (Host.Outcome.next.inj ((hf.exec_eq s).symm.trans h)).symm⟩)
  · exact .inr (.inr (.inl ⟨run, hr, (Host.Outcome.next.inj ((hr.exec_eq s).symm.trans h)).symm⟩))
  · exact .inr (.inr (.inr (Host.Outcome.next.inj h).symm))

/-- Every command has an effect. -/
theorem exec_next (c : Instr) (s : State) : ∃ t, exec c s = .next t := by
  rcases instr_cases c with rfl | ⟨high, rfl⟩ | ⟨f, hf⟩ | ⟨run, hr⟩ | rfl
  · exact ⟨_, rfl⟩
  · exact ⟨_, rfl⟩
  · exact ⟨_, hf.exec_eq s⟩
  · exact ⟨_, hr.exec_eq s⟩
  · exact ⟨_, rfl⟩

/-- A step is the command at the front, or a millisecond (assumption 3). -/
theorem step_cons {c : Instr} {rest : List Instr} {s : State} (h : s.pending = c :: rest) :
    step s = exec c { s with pending := rest } := by
  unfold step
  rw [h]

theorem step_nil {s : State} (h : s.pending = []) : step s = .next (idle s) := by
  unfold step
  rw [h]

/-- What a step is, read backwards. -/
theorem step_cases {s t : State} (h : step s = .next t) :
    (s.pending = [] ∧ t = idle s) ∨ ∃ c rest, s.pending = c :: rest ∧ exec c { s with pending := rest } = .next t := by
  cases hp : s.pending with
  | nil => exact .inl ⟨rfl, (Host.Outcome.next.inj ((step_nil hp).symm.trans h)).symm⟩
  | cons c rest => exact .inr ⟨c, rest, rfl, (step_cons hp).symm.trans h⟩

/-- An invariant goes through every step when the resets, the events, the executions and RESTART keep it. -/
theorem step_keeps {P : State → Prop} (queue : ∀ s l, P s → P { s with pending := l })
    (time : ∀ s x, P s → P { s with timeBase := x }) (power : ∀ held strap s, P s → P (powerOn held strap s))
    (event : ∀ c f s, Event c f → P s → P (f s))
    (row : ∀ c run s, Row c run → P s → P (executeFrame (takes c) run s))
    (restart : ∀ s, P s → P (executeRestart s)) {s t : State} (hs : P s) (h : step s = .next t) : P t := by
  have running : ∀ f : State → State, (∀ s, P s → P (f s)) → ∀ s, P s → P (whileRunning f s) := by
    intro f hf s hs
    unfold whileRunning
    split
    · exact hs
    · exact hf s hs
  rcases step_cases h with ⟨-, rfl⟩ | ⟨c, rest, -, hc⟩
  · unfold idle
    split
    · exact hs
    · exact time s _ hs
  · have hs' := queue s rest hs
    rcases exec_cases hc with ⟨held, strap, rfl⟩ | ⟨f, hf, rfl⟩ | ⟨run, hr, rfl⟩ | rfl
    · exact power _ _ _ hs'
    · exact event c f _ hf hs'
    · exact running _ (row c run · hr) _ hs'
    · exact running _ restart _ hs'

/-! ## The statements -/

/-- Settles O1. -/
theorem stepRunsFrontCommand : Obligations.StepRunsFrontCommand := by
  unfold Obligations.StepRunsFrontCommand
  exact fun c rest s h => step_cons h

/-- Settles O2: a command of every kind has an effect, and a step with none waiting is a millisecond. -/
theorem everyStepCompletes : Obligations.EveryStepCompletes := by
  unfold Obligations.EveryStepCompletes
  refine ⟨fun s hp => ⟨fun hh => ?_, fun hh => ?_⟩, exec_next, fun s => ?_⟩
  · rw [step_nil hp]
    simp [idle, hh, State.advanceTo]
  · rw [step_nil hp]
    simp [idle, hh]
  · unfold SafeStep
    cases hp : s.pending with
    | nil => exact ⟨_, step_nil hp⟩
    | cons c rest => exact step_cons hp ▸ exec_next c _

end Sys2Proof.Machine
end

section
/-! The laws of the link, the rosters, the queues, the conditions and the role go through every step. -/

set_option Elab.async false

namespace Sys2Proof.Machine

theorem keeps_whileRunning {f : State → State} (h : ∀ s, Keeps s (f s)) (s : State) : Keeps s (whileRunning f s) := by
  unfold whileRunning
  split
  · exact Keeps.refl s
  · exact h s

/-- The link's own events, which write the receive buffer or the uplink. -/
inductive LinkEvent : Instr → Prop
  | received (f : PlantFrame) : LinkEvent (.plantFrameReceived f)
  | sent : LinkEvent .uplinkFrameSent

/-- An event of the field, the pins or the time base keeps all that `Keeps` tells. -/
theorem Event.keeps {c : Instr} {f : State → State} (h : Event c f) (hl : ¬ LinkEvent c) (s : State) : Keeps s (f s) := by
  cases h with
  | plantFrameReceived f => exact absurd (.received f) hl
  | uplinkFrameSent => exact absurd .sent hl
  | plantFrameAbandoned => exact keeps_whileRunning (fun s => laws_modLinkCounters s _) s
  | poll g => exact keeps_whileRunning (keeps_takeTurn g _) s
  | set g => exact keeps_whileRunning (keeps_takeTurn g _) s
  | presenceTimerExpiry g => exact keeps_whileRunning (keeps_presenceExpiry g) s
  | presence g => exact keeps_whileRunning (keeps_sendPresence g) s
  | frameTransmitted g => exact keeps_whileRunning (keeps_frameSent g) s
  | arbitrationLoss g w => exact keeps_whileRunning (keeps_loseArbitration g w) s
  | sample g f => exact keeps_whileRunning (keeps_receiveFrame g f) s
  | echo g f => exact keeps_whileRunning (keeps_receiveFrame g f) s
  | otherControllerFrame g f => exact keeps_whileRunning (keeps_receiveFrame g f) s
  | strayFrame g f => exact keeps_whileRunning (keeps_receiveFrame g f) s
  | fieldCheckFailure g f => exact keeps_whileRunning (keeps_receiveFrame g f) s
  | replyOfWrongKind g f => exact keeps_whileRunning (keeps_receiveFrame g f) s
  | ownAddressFrame g f => exact keeps_whileRunning (keeps_receiveFrame g f) s
  | fieldFrameAbandoned g =>
    exact keeps_whileRunning (fun s => (keeps_receptionError g s).trans (keeps_runEvals _)) s
  | replyTimeout g => exact keeps_whileRunning (keeps_windowCloses g) s
  | overheardTimeout g => exact keeps_whileRunning (keeps_overheardExpiry g) s
  | silenceTakeover => exact keeps_whileRunning keeps_silenceExpiry s
  | moveTimeout i => exact keeps_whileRunning (keeps_moveExpiry i) s
  | tripFilterExpiry t => exact keeps_whileRunning (keeps_filterExpiry t) s
  | tripInputChange t high => exact keeps_inputChange t high s
  | reportTimer => exact keeps_whileRunning keeps_reportExpiry s
  | demandTimeout => exact keeps_whileRunning keeps_demandExpiry s

theorem LawsKept.refl (s : State) : LawsKept s s := ⟨id, id, id, id, id⟩

/-- Every event keeps the laws. -/
theorem Event.kept {c : Instr} {f : State → State} (h : Event c f) (s : State) : LawsKept s (f s) := by
  by_cases hl : LinkEvent c
  · cases hl with
    | received => cases h; exact kept_whileRunning (receivePlant_kept _) s
    | sent => cases h; exact kept_whileRunning uplinkSent_kept s
  · exact (h.keeps hl s).kept

/-- A command's own rules keep the laws. -/
theorem Row.laws {c : Instr} {run : PlantFrame → State → Answer} (h : Row c run) (f : PlantFrame) (s : State) :
    KeepsLaws s (run f s).state := by
  cases h with
  | loadWell => exact laws_runLoadWell f s
  | loadWellVacate => exact laws_runVacate f s
  | loadSegment => exact laws_runLoadSegment f s
  | loadSite => exact laws_runLoadSite f s
  | unlock => exact laws_runUnlock f s
  | loadLimits => exact laws_runLoadLimits f s
  | loadCondition => exact laws_runLoadCondition f s
  | demand => exact laws_runDemand f s
  | modeRun => exact laws_runMode f s
  | modeHold => exact laws_runMode f s
  | force => exact laws_runForce f s
  | release => exact laws_runRelease f s
  | clear => exact laws_runClear f s
  | dismiss => exact laws_runDismiss f s
  | budgetReset => exact laws_runBudgetReset f s
  | malformed => exact KeepsLaws.refl s
  | _ => exact laws_runRead f s

/-- One law of the five goes through every step. -/
theorem step_keeps_law {P : State → Prop} (law : ∀ {s t}, LawsKept s t → P s → P t) {s t : State} (hs : P s)
    (h : step s = .next t) : P t :=
  step_keeps (P := P) (fun _ _ => law ⟨id, id, id, id, id⟩) (fun _ _ => law ⟨id, id, id, id, id⟩)
    (fun _ _ s => law (powerOn_kept _ _ s)) (fun _ _ s hf => law (hf.kept s))
    (fun _ _ s hr => law (kept_executeFrame _ _ hr.laws s)) (fun s => law (executeRestart_kept s)) hs h

/-- Settles O51. -/
theorem uplinkQueuesNeverOverflow : Obligations.UplinkQueuesNeverOverflow := by
  unfold Obligations.UplinkQueuesNeverOverflow
  exact fun _ _ => step_keeps_law (P := fun s => LinkLaw s.link) LawsKept.linkLaw

/-- Settles O52. -/
theorem commandQueuesKeepTheirLaw : Obligations.CommandQueuesKeepTheirLaw := by
  unfold Obligations.CommandQueuesKeepTheirLaw
  exact fun _ _ => step_keeps_law LawsKept.queuesLaw

/-- Settles O55. -/
theorem rostersFollowTheRecords : Obligations.RostersFollowTheRecords := by
  unfold Obligations.RostersFollowTheRecords
  exact fun _ _ => step_keeps_law LawsKept.rosterLaw

/-- Settles O56: the law goes through every step, and strictly decreasing levels of 0 to 7 leave room for eight. -/
theorem conditionsKeepTheirOrder : Obligations.ConditionsKeepTheirOrder := by
  unfold Obligations.ConditionsKeepTheirOrder
  exact ⟨fun _ _ => step_keeps_law (P := fun s => CondLaw s.conds) LawsKept.condLaw, fun _ => CondLaw.depth⟩

/-! ## Addresses (R3, R20) -/

/-- The addresses stay unique where no record but slot `i`'s has another configuration, and slot `i`'s address is free. -/
theorem AddressLaw.putCfg {s t : State} {i : Slot} (h : AddressLaw s)
    (others : ∀ j, j ≠ i → (t.well j).map (·.cfg) = (s.well j).map (·.cfg))
    (free : ∀ w, t.well i = some w → ∀ j v, j ≠ i → s.well j = some v → v.cfg.address ≠ w.cfg.address) :
    AddressLaw t := by
  have back : ∀ j v, j ≠ i → t.well j = some v → ∃ u, s.well j = some u ∧ u.cfg = v.cfg := by
    intro j v hj hv
    have e := others j hj
    rw [hv] at e
    cases hu : s.well j with
    | none => simp [hu] at e
    | some u => exact ⟨u, rfl, by simpa [hu] using e.symm⟩
  intro j k w v hw hv e
  by_cases hj : j = i <;> by_cases hk : k = i
  · rw [hj, hk]
  · obtain ⟨u, hu, hc⟩ := back k v hk hv
    exact absurd (hc ▸ e.symm) (free w (hj ▸ hw) k u hk hu)
  · obtain ⟨u, hu, hc⟩ := back j w hj hw
    exact absurd (hc ▸ e) (free v (hk ▸ hv) j u hj hu)
  · obtain ⟨u, hu, hcu⟩ := back j w hj hw
    obtain ⟨x, hx, hcx⟩ := back k v hk hv
    exact h j k u x hu hx (by rw [hcu, hcx]; exact e)

theorem allSlots_mem (i : Slot) : i ∈ allSlots := List.mem_finRange i

theorem State.addressHeld_eq_false {s : State} {i : Slot} {a : Nat} (h : s.addressHeld i a = false) {j : Slot} {v : Well}
    (hj : j ≠ i) (hv : s.well j = some v) : v.cfg.address ≠ a := by
  unfold State.addressHeld at h
  rw [List.any_eq_false] at h
  have := h j (allSlots_mem j)
  simpa [hj, hv] using this

/-- What an accepted load form leaves as configuration in every slot (R20, R21, R22, R25). -/
theorem loadSlot_cfg (x : WellLoad) (s : State) (j : Slot) :
    ((loadSlot x s).well j).map (·.cfg) = if j = x.slot then some x.cfg else (s.well j).map (·.cfg) := by
  have put : ∀ s : State, ∀ w : Well, w.cfg = x.cfg →
      ((putWell s x.slot (some w)).well j).map (·.cfg) = if j = x.slot then some x.cfg else (s.well j).map (·.cfg) := by
    intro s w hw
    rw [putWell_well]
    split
    · rw [Option.map_some, hw]
    · rfl
  unfold loadSlot
  split
  · exact put s _ rfl
  · rename_i w hw
    split
    · unfold liveChange
      simp only
      split
      · exact put s _ rfl
      · rw [(inner_rangeChangeSet (d := True) _ _).keeps.cfg, (inner_clampPending (d := True) _ _ _).keeps.cfg,
          (inner_clampEntry (d := True) _ _ _).keeps.cfg]
        exact put s _ rfl
    · unfold park
      simp only
      rw [(inner_withdrawSlot (d := True) _ _).keeps.cfg, (keeps_runEvals _).cfg,
        (inner_removeEntry (d := True) _ _ _).keeps.cfg, put (forgetPoll x.slot s) _ rfl, (keeps_forgetPoll x.slot s).cfg]

/-- What vacating leaves as configuration in every slot (R27). -/
theorem vacate_cfg (i : Slot) (w : Well) (s : State) (j : Slot) :
    ((vacate i w s).well j).map (·.cfg) = if j = i then none else (s.well j).map (·.cfg) := by
  unfold vacate
  rw [(inner_withdrawSlot (d := True) _ _).keeps.cfg, (inner_removeEntry (d := True) _ _ _).keeps.cfg, putWell_well]
  split
  · rfl
  · exact (keeps_forgetPoll i s).cfg j

/-- An operation that leaves every configuration. -/
theorem AddressLaw.of_cfg {s t : State} (h : ∀ j, (t.well j).map (·.cfg) = (s.well j).map (·.cfg)) (hs : AddressLaw s) :
    AddressLaw t := by
  refine hs.putCfg (i := 0) (fun j _ => h j) fun w hw j v hj hv e => hj ?_
  have e0 := h 0
  rw [hw] at e0
  cases hu : s.well 0 with
  | none => simp [hu] at e0
  | some u =>
    rw [hu] at e0
    exact hs j 0 v u hv hu (e.trans (congrArg (·.address) (Option.some.inj e0)))

theorem addressLaw_runLoadWell (f : PlantFrame) {s : State} (h : AddressLaw s) : AddressLaw (runLoadWell f s).state := by
  unfold runLoadWell
  split
  · exact h
  · rename_i x hx
    split
    · exact h
    · rename_i hfree
      split
      · exact h
      · split
        · exact h
        · refine h.putCfg (i := x.slot) (fun j hj => ?_) fun w hw j v hj hv => ?_
          · exact (loadSlot_cfg x s j).trans (if_neg hj)
          · have e := loadSlot_cfg x s x.slot
            rw [show (loadSlot x s).well x.slot = some w from hw, if_pos rfl] at e
            rw [show w.cfg = x.cfg from Option.some.inj e]
            exact State.addressHeld_eq_false (by simpa using hfree) hj hv

theorem addressLaw_runVacate (f : PlantFrame) {s : State} (h : AddressLaw s) : AddressLaw (runVacate f s).state := by
  unfold runVacate
  split
  · exact h
  · rename_i i hi
    split
    · exact h
    · rename_i w hw
      split
      · exact h
      · refine h.putCfg (i := i) (fun j hj => ?_) fun v hv => ?_
        · exact (vacate_cfg i w s j).trans (if_neg hj)
        · have e := vacate_cfg i w s i
          rw [show (vacate i w s).well i = some v from hv, if_pos rfl] at e
          exact absurd e (by simp)

/-- The state with the settings of LOAD SITE and what they bring to the demand, the filters and the report timer (R76, R84, R93),
before the combination and the silence timer follow. -/
def siteWritten (x : SiteSettings) (s : State) : State :=
  { s with
    site := x
    trips := .ofFn fun t => State.refilter { s with site := x } t (!decide (s.site.intervals.get t = x.intervals.get t)) false
    balancer :=
      { s.balancer with
        demand :=
          if x.demandTimeout = s.site.demandTimeout then s.balancer.demand
          else State.demandNow { s with site := x, balancer := { s.balancer with demand := s.demandNow } }
        reportTimer := if x.reportInterval = s.site.reportInterval then s.balancer.reportTimer else s.timeBase } }

theorem loadSite_eq (x : SiteSettings) (s : State) :
    loadSite x s =
      if x.silence = s.site.silence then tripsChanged s.combination (siteWritten x s)
      else silenceAtLoad (tripsChanged s.combination (siteWritten x s)) := by
  unfold loadSite siteWritten
  by_cases hd : x.demandTimeout = s.site.demandTimeout <;> by_cases hr : x.reportInterval = s.site.reportInterval <;>
    simp only [hd, hr, if_true, if_false] <;> rfl

/-- The state with the limit group of LOAD LIMITS and its filters, before the combination follows (R93, R194). -/
def limitsWritten (x : Limits) (s : State) : State :=
  { s with
    limits := x
    trips := .ofFn fun t =>
      State.refilter { s with limits := x } t false (!decide (s.limits.activeLow.get t = x.activeLow.get t)) }

theorem loadLimits_eq (x : Limits) (s : State) :
    loadLimits x s = tripsChanged s.combination (limitsWritten x s) := rfl

/-! ## Configurations -/

theorem tripsChanged_cfg (b : Bool) (s : State) (j : Slot) :
    ((tripsChanged b s).well j).map (·.cfg) = (s.well j).map (·.cfg) := (inner_tripsChanged (d := True) b s).keeps.cfg j

theorem loadSite_cfg (x : SiteSettings) (s : State) (j : Slot) :
    ((loadSite x s).well j).map (·.cfg) = (s.well j).map (·.cfg) := by
  rw [loadSite_eq]
  split
  · exact tripsChanged_cfg _ (siteWritten x s) j
  · exact ((keeps_silenceAtLoad _).cfg j).trans (tripsChanged_cfg _ (siteWritten x s) j)

theorem loadSegment_cfg (g : Seg) (x : SegSettings) (s : State) (j : Slot) :
    ((loadSegment g x s).well j).map (·.cfg) = (s.well j).map (·.cfg) := by
  unfold loadSegment
  simp only
  split
  · exact (inner_timeOutAged _ _ _).keeps.cfg j
  · rfl

theorem loadCondition_cfg (k : CondKind) (x : KindSetting) (s : State) (j : Slot) :
    ((loadCondition k x s).well j).map (·.cfg) = (s.well j).map (·.cfg) := by
  unfold loadCondition
  split
  · rfl
  · exact (inner_evalTaking (d := True) _).keeps.cfg j

theorem changeMode_cfg (m : Mode) (s : State) (j : Slot) :
    ((changeMode m s).well j).map (·.cfg) = (s.well j).map (·.cfg) := by
  unfold changeMode
  split
  · exact ((inner_examineAll (d := True) _).keeps.cfg j).trans
      ((inner_foldSegs (d := True) _ inner_holdQueue _ (setMode .hold s)).keeps.cfg j)
  · rfl
  · rfl
  · rfl

theorem runMode_cfg (f : PlantFrame) (s : State) (j : Slot) :
    ((runMode f s).state.well j).map (·.cfg) = (s.well j).map (·.cfg) := by
  unfold runMode
  split
  · rfl
  · exact changeMode_cfg _ s j

/-- A command that changes no setting keeps all that `Keeps` tells. -/
theorem Row.keeps {c : Instr} {run : PlantFrame → State → Answer} (h : Row c run) (hc : c ∉ loadingRows) (f : PlantFrame)
    (s : State) : Keeps s (run f s).state := by
  cases h with
  | loadWell | loadWellVacate | loadSegment | loadSite | loadLimits | loadCondition | modeRun | modeHold =>
    exact absurd (by decide) hc
  | unlock => exact keeps_runUnlock f s
  | demand => exact keeps_runDemand f s
  | force => exact keeps_runForce f s
  | release => exact keeps_runRelease f s
  | clear => exact keeps_runClear f s
  | dismiss => exact keeps_runDismiss f s
  | budgetReset => exact keeps_runBudgetReset f s
  | malformed => exact Keeps.refl s
  | _ => exact keeps_runRead f s

/-- Only the two forms of LOAD WELL change a configuration (R22, R192). -/
theorem Row.cfg {c : Instr} {run : PlantFrame → State → Answer} (h : Row c run) (hw : c ≠ .loadWell)
    (hv : c ≠ .loadWellVacate) (f : PlantFrame) (s : State) (j : Slot) :
    ((run f s).state.well j).map (·.cfg) = (s.well j).map (·.cfg) := by
  by_cases hc : c ∈ loadingRows
  · cases h with
    | loadWell => exact absurd rfl hw
    | loadWellVacate => exact absurd rfl hv
    | loadSegment =>
      unfold runLoadSegment
      split
      · rfl
      · exact loadSegment_cfg _ _ s j
    | loadSite =>
      unfold runLoadSite
      split
      · rfl
      · exact loadSite_cfg _ s j
    | loadLimits =>
      unfold runLoadLimits
      split
      · split
        · rfl
        · exact tripsChanged_cfg _ (limitsWritten _ s) j
      · rfl
    | loadCondition =>
      unfold runLoadCondition
      split
      · rfl
      · exact loadCondition_cfg _ _ s j
    | modeRun => exact runMode_cfg f s j
    | modeHold => exact runMode_cfg f s j
    | _ => exact absurd hc (by decide)
  · exact (h.keeps hc f s).cfg j

theorem finishExecution_cfg (f : PlantFrame) (a : Answer) (j : Slot) :
    ((finishExecution f a).well j).map (·.cfg) = (a.state.well j).map (·.cfg) := (keeps_runEvals a.state).cfg j

/-- A command's own rules leave the addresses unique. -/
theorem Row.addressLaw {c : Instr} {run : PlantFrame → State → Answer} (h : Row c run) (f : PlantFrame) {s : State}
    (hs : AddressLaw s) : AddressLaw (run f s).state := by
  by_cases hw : c = .loadWell
  · subst hw; cases h; exact addressLaw_runLoadWell f hs
  · by_cases hv : c = .loadWellVacate
    · subst hv; cases h; exact addressLaw_runVacate f hs
    · exact hs.of_cfg (h.cfg hw hv f s)

theorem executeRestart_cfg (s : State) (j : Slot) :
    ((executeRestart s).well j).map (·.cfg) = (s.well j).map (·.cfg) := by
  unfold executeRestart
  split
  · rename_i f hf
    rw [(keeps_offInputsAtRestart _).cfg, finishExecution_cfg]
    show ((restarted (beginExecution s)).well j).map (·.cfg) = _
    rw [restarted_well]
    show _ = ((beginExecution s).well j).map (·.cfg)
    cases (beginExecution s).well j <;> rfl
  · rfl

theorem Event.addressLaw {c : Instr} {f : State → State} (h : Event c f) {s : State} (hs : AddressLaw s) :
    AddressLaw (f s) := by
  by_cases hl : LinkEvent c
  · refine hs.of_cfg fun j => ?_
    cases hl with
    | received =>
      cases h
      unfold whileRunning receivePlant
      split
      · rfl
      · split
        · rfl
        · split <;> rfl
    | sent =>
      cases h
      unfold whileRunning
      split <;> rfl
  · exact (h.keeps hl s).addressLaw hs

/-- Settles O57: a configuration is written by LOAD WELL alone, whose first check is that the address is free; the role law is
one of the five. -/
theorem addressesAndRoleKeepTheirLaw : Obligations.AddressesAndRoleKeepTheirLaw := by
  unfold Obligations.AddressesAndRoleKeepTheirLaw
  refine ⟨fun s t => step_keeps (fun _ _ h => h) (fun _ _ h => h) (fun held strap s _ => ?_) (fun _ _ _ hf h => hf.addressLaw h)
    (fun c run s hr h => ?_) fun s h => h.of_cfg (executeRestart_cfg s),
    fun _ _ => step_keeps_law (P := fun s => RoleLaw s.unit) LawsKept.roleLaw⟩
  · intro i j w v hw
    exact absurd ((reset_well i).symm.trans hw) (by simp)
  · unfold executeFrame
    split
    · rename_i f hf
      exact (hr.addressLaw f (s := beginExecution s) h).of_cfg (finishExecution_cfg f _)
    · exact h

/-! ## What no other row changes -/

theorem Keeps.undisturbed {s t : State} (k : Keeps s t) : Undisturbed s t :=
  ⟨k.pending, k.held, k.site, k.limits, k.kinds, k.settings, k.strap, k.mode, k.unlocked, k.cfg⟩

theorem Event.undisturbed {c : Instr} {f : State → State} (h : Event c f) (s : State) : Undisturbed s (f s) := by
  by_cases hl : LinkEvent c
  · cases hl with
    | received =>
      cases h
      unfold whileRunning receivePlant
      split
      · exact (Keeps.refl s).undisturbed
      · split
        · exact (laws_modLinkCounters s _).undisturbed
        · split
          · exact ⟨rfl, rfl, rfl, rfl, rfl, fun _ => rfl, rfl, rfl, rfl, fun _ => rfl⟩
          · exact (laws_modLinkCounters s _).undisturbed
    | sent =>
      cases h
      unfold whileRunning
      split
      · exact (Keeps.refl s).undisturbed
      · obtain ⟨-, -, hu, hm, -⟩ := Link.pump_frame { s.link with transmitter := none }
        exact ⟨rfl, rfl, rfl, rfl, rfl, fun _ => rfl, rfl, hm, hu, fun _ => rfl⟩
  · exact (h.keeps hl s).undisturbed

/-- The end of an execution leaves, of what `Keeps` tells, all but the unlock and the reservation. -/
theorem finishExecution_undisturbed {s : State} (f : PlantFrame) (a : Answer) (h : Keeps (beginExecution s) a.state) :
    Undisturbed s { finishExecution f a with
      link := { (finishExecution f a).link with unlocked := s.link.unlocked } } := by
  have k := h.trans (keeps_runEvals a.state)
  refine ⟨k.pending, k.held, k.site, k.limits, k.kinds, k.settings, k.strap, ?_, rfl, k.cfg⟩
  exact (Link.pump_frame _).2.2.2.1.trans k.mode

/-- Settles O60: an event keeps all that is stated, and an execution all but the unlock. -/
theorem onlyLoadingRowsChangeSettings : Obligations.OnlyLoadingRowsChangeSettings := by
  unfold Obligations.OnlyLoadingRowsChangeSettings
  refine ⟨fun c s t hc ha hr h => ?_, fun c s t hc hl h => ?_⟩
  · rcases instr_cases c with rfl | ⟨high, rfl⟩ | ⟨f, hf⟩ | ⟨run, hrun⟩ | rfl
    · exact absurd rfl ha
    · exact absurd rfl (hr high)
    · obtain rfl := Host.Outcome.next.inj ((hf.exec_eq s).symm.trans h)
      exact hf.undisturbed s
    · exact absurd (by cases hrun <;> decide) hc
    · exact absurd (by decide) hc
  · rcases instr_cases c with rfl | ⟨high, rfl⟩ | ⟨f, hf⟩ | ⟨run, hrun⟩ | rfl
    · exact absurd hc (by decide)
    · exact absurd hc (by simp [plantRows])
    · exact absurd hc (by cases hf <;> simp [plantRows])
    · obtain rfl := Host.Outcome.next.inj ((hrun.exec_eq s).symm.trans h)
      unfold whileRunning
      split
      · exact (Keeps.refl s).undisturbed
      · unfold executeFrame
        split
        · rename_i f hf
          exact finishExecution_undisturbed f _ (hrun.keeps hl f _)
        · exact (Keeps.refl s).undisturbed
    · exact absurd (by decide) hl

end Sys2Proof.Machine
end

section
/-! Evaluations end with their command, and power-on reset: its values, its laws, and the two commands that bring it. -/

set_option Elab.async false

namespace Sys2Proof.Machine

/-! ## Evaluations end with their command -/

theorem settled_whileRunning {f : State → State} (hf : ∀ s, Settled s → Settled (f s)) {s : State} (h : Settled s) :
    Settled (whileRunning f s) := by
  unfold whileRunning
  split
  · exact h
  · exact hf s h

theorem settled_takeTurn (g : Seg) (want : Turn → Bool) (s : State) (h : Settled s) : Settled (takeTurn g want s) := by
  have hx : Settled (chooseTurn g s).1 := (inner_chooseTurn (d := True) g s).settled h
  unfold takeTurn
  split
  · simp only
    split
    · split
      · unfold beginPoll; split <;> exact hx
      · unfold beginSet; split <;> exact hx
      · exact hx
    · exact hx
  · exact h

theorem settled_unbegin (g : Seg) (s : State) (h : Settled s) : Settled (unbegin g s) := by
  unfold unbegin
  split
  · exact h
  · simp only
    split <;> exact h

theorem settled_loseArbitration (g : Seg) (w : Nat) (s : State) (h : Settled s) : Settled (loseArbitration g w s) := by
  unfold loseArbitration
  simp only
  split
  · exact h
  · split
    · split <;> exact h
    · split
      · exact settled_runEvals _
      · exact settled_unbegin g _ h

theorem settled_inputChange (t : Trip) (high : Bool) (s : State) (h : Settled s) : Settled (inputChange t high s) := by
  unfold inputChange
  simp only
  split
  · exact h
  · split
    · exact h
    · exact (inner_tripsChanged (d := True) _ _).settled h

/-- Every event makes the evaluations it asks for. -/
theorem Event.settled {c : Instr} {f : State → State} (hf : Event c f) {s : State} (h : Settled s) : Settled (f s) := by
  cases hf with
  | tripInputChange t high => exact settled_inputChange t high s h
  | plantFrameReceived f =>
    refine settled_whileRunning (fun s h => ?_) h
    unfold receivePlant
    split
    · exact h
    · split <;> exact h
  | plantFrameAbandoned => exact settled_whileRunning (f := countLinkError) (fun _ h => h) h
  | uplinkFrameSent => exact settled_whileRunning (f := uplinkSent) (fun _ h => h) h
  | poll g => exact settled_whileRunning (settled_takeTurn g _) h
  | set g => exact settled_whileRunning (settled_takeTurn g _) h
  | presenceTimerExpiry g =>
    refine settled_whileRunning (fun s h => ?_) h
    unfold presenceExpiry
    split
    · split <;> exact h
    · exact h
  | presence g => exact settled_whileRunning (fun s h => by unfold sendPresence; split <;> exact h) h
  | frameTransmitted g => exact settled_whileRunning (fun s h => by unfold frameSent; split <;> exact h) h
  | arbitrationLoss g w => exact settled_whileRunning (settled_loseArbitration g w) h
  | replyTimeout g =>
    refine settled_whileRunning (fun s h => ?_) h
    unfold windowCloses
    split
    · exact settled_runEvals _
    · exact h
  | overheardTimeout g =>
    refine settled_whileRunning (fun s h => ?_) h
    unfold overheardExpiry
    split
    · exact settled_runEvals _
    · exact h
  | silenceTakeover =>
    refine settled_whileRunning (fun s h => ?_) h
    unfold silenceExpiry
    split
    · exact settled_runEvals _
    · exact h
  | moveTimeout i =>
    refine settled_whileRunning (fun s h => ?_) h
    unfold moveExpiry
    split
    · exact (inner_timeOutMove _ _).settled h
    · exact h
  | tripFilterExpiry t =>
    refine settled_whileRunning (fun s h => ?_) h
    unfold filterExpiry
    split
    · exact h
    · exact (inner_tripsChanged (d := True) _ _).settled h
  | reportTimer =>
    refine settled_whileRunning (fun s h => ?_) h
    unfold reportExpiry
    exact (inner_offerLine (d := True) _).settled ((inner_evaluateLine (d := True) .flare _).settled
      ((inner_evaluateLine (d := True) .engine _).settled (s := State.modBalancer _ _) h))
  | demandTimeout => exact settled_whileRunning (fun s h => by unfold demandExpiry; split <;> exact h) h
  | _ => exact settled_whileRunning (fun _ _ => settled_runEvals _) h

/-- Settles O58: an execution and a RESTART end with their evaluations, and so does every event. -/
theorem evaluationsEndWithTheirCommand : Obligations.EvaluationsEndWithTheirCommand := by
  unfold Obligations.EvaluationsEndWithTheirCommand
  refine fun s t => step_keeps (fun _ _ h => h) (fun _ _ h => h) (fun _ _ _ _ => rfl) (fun _ _ _ hf h => hf.settled h)
    (fun c run s _ h => ?_) fun s h => ?_
  · unfold executeFrame
    split
    · exact settled_finishExecution _ _
    · exact h
  · unfold executeRestart
    split
    · exact settled_runEvals _
    · exact h

/-! ## Power-on reset -/

theorem reset_seg (g : Seg) : State.reset.seg g = Segment.start .reset := PerSeg.get_all _ g

/-- Settles O3. -/
theorem resetHoldsThePowerOnValues : Obligations.ResetHoldsThePowerOnValues := by
  unfold Obligations.ResetHoldsThePowerOnValues
  refine ⟨fun i => ⟨reset_well i, ?_⟩, rfl, fun g => ?_, fun l => ?_, rfl, fun t => ?_, rfl, rfl, rfl, rfl, by decide,
    fun k => ?_, rfl, rfl, rfl, rfl, rfl, rfl⟩
  · unfold State.stateOf
    rw [reset_well]
    rfl
  · unfold Quiet
    rw [reset_seg]
    exact ⟨rfl, rfl, rfl, rfl, ⟨rfl, rfl, rfl⟩, rfl, rfl, rfl, rfl, rfl, rfl⟩
  · cases l <;> rfl
  · cases t <;> exact ⟨rfl, rfl, rfl, rfl⟩
  · cases k <;> decide

/-- With no slot loaded no segment has a move record. -/
theorem movesOf_of_vacant {s : State} (h : ∀ i, s.well i = none) (g : Seg) : s.movesOf g = [] := by
  unfold State.movesOf
  rw [List.filterMap_eq_nil_iff]
  intro i _
  rw [h]

/-- The power-on values obey the laws of addresses, travel and pending fields. -/
theorem reset_travelLaw : TravelLaw State.reset := by
  refine ⟨fun g => ?_, fun i w hw => absurd ((reset_well i).symm.trans hw) (by simp), fun g c hc => ?_⟩
  · rw [movesOf_of_vacant reset_well, reset_seg]
    rfl
  · rw [reset_seg] at hc
    exact absurd hc (by simp [Segment.start])

theorem reset_pendingLaw : PendingLaw State.reset := by
  refine ⟨fun _ g => ?_, fun i w hw => absurd ((reset_well i).symm.trans hw) (by simp)⟩
  rw [reset_seg]
  rfl

/-- Settles O59: the five laws are those the power-on values always have, the others speak of loaded slots alone. -/
theorem resetHasEveryLaw : Obligations.ResetHasEveryLaw := by
  unfold Obligations.ResetHasEveryLaw
  have k := powerOn_kept false false State.reset
  refine ⟨⟨Nat.zero_le _, Nat.zero_le _, Nat.zero_le _⟩, fun g => ?_, fun l => ?_, ?_, by simp [RoleLaw, State.reset, RoleUnit.start],
    fun i j w v hw => absurd ((reset_well i).symm.trans hw) (by simp), reset_travelLaw, reset_pendingLaw, rfl⟩
  · rw [reset_seg]
    exact QueueLaw.nil
  · have e : State.reset.rosters.get l = [] := by cases l <;> rfl
    rw [e]
    refine ⟨List.nodup_nil, fun i => ?_, List.Pairwise.nil⟩
    rw [reset_well]
    simp [rosterLine]
  · refine ⟨List.nodup_nil, fun k => ?_, fun r hr => absurd hr (by simp [State.reset, Conditions.reset]),
      List.Pairwise.nil, List.Pairwise.nil⟩
    cases k <;> decide

/-- Settles O4: both resets are `powerOn`, and every other command but the pins' runs only while RESET is not held. -/
theorem resetCommandsRestoreThePowerOnValues : Obligations.ResetCommandsRestoreThePowerOnValues := by
  unfold Obligations.ResetCommandsRestoreThePowerOnValues
  refine ⟨fun s high => ⟨⟨_, rfl, rfl, fun x => by cases x <;> rfl⟩, ⟨_, rfl, rfl, fun x => by cases x <;> rfl⟩⟩,
    fun c s hs hr ha hp => ?_⟩
  have held : ∀ f : State → State, whileRunning f s = s := fun f => by
    unfold whileRunning
    rw [if_pos hs]
  rcases instr_cases c with rfl | ⟨high, rfl⟩ | ⟨f, hf⟩ | ⟨run, hrun⟩ | rfl
  · exact absurd rfl ha
  · exact absurd rfl (hr high)
  · rw [hf.exec_eq]
    cases hf with
    | tripInputChange t high => exact absurd rfl (hp t high)
    | _ => rw [held]
  · rw [hrun.exec_eq, held]
  · exact congrArg Host.Outcome.next (held executeRestart)

end Sys2Proof.Machine
end

section
/-! The law of the pending fields is not kept by every step from every state that has it: it says nothing of a queue with two entries
for one well, which the law of the Command Queues rules out (R153). -/

set_option Elab.async false

namespace Sys2Proof.Machine

/-- A well that does not answer, with its pending field set (R12). -/
def silentHolding : Well :=
  { Well.fresh ⟨12, .a, true, .both, 100, 900, 40, 20, 520, 6, 10, 180, 300⟩ .engine with
    answering := false
    pendingProt := some ⟨100, .engine⟩ }

/-- A duty machine at a C entry whose queue holds two entries for slot 12: a TRIM entry that travels further than the budget, and
a PROTECTIVE one behind it. -/
def twoEntries : State :=
  { State.reset with
    pending := [.set .a]
    wells := (Vector.replicate 96 none).set 12 (some silentHolding)
    segs := State.reset.segs.put .a
      { Segment.start .reset with
        pointer := 1
        budgetInForce := 50
        queue := [⟨12, 500, .engine, .trim, false⟩, ⟨12, 100, .engine, .protective, false⟩] }
    unit := ⟨.duty, false, none, none⟩ }

theorem twoEntries_well (j : Slot) : twoEntries.well j = if j = 12 then some silentHolding else none := by
  unfold State.well twoEntries
  simp only [Vector.getElem_set, Vector.getElem_replicate]
  by_cases h : j = 12
  · subst h; rfl
  · have : ¬ 12 = j.val := fun e => h (Fin.ext e.symm)
    simp [h, this]

/-- The entry found for slot 12 is the TRIM one, so the law holds there. -/
theorem twoEntries_pendingLaw : PendingLaw twoEntries := by
  refine ⟨fun h => absurd h (by decide), fun i w hw => .inl ?_⟩
  rw [twoEntries_well] at hw
  by_cases hi : i = 12
  · subst hi
    decide +kernel
  · rw [if_neg hi] at hw
    exact absurd hw (by simp)

/-- The turn drops the TRIM entry for its travel (R161), and the PROTECTIVE entry stands beside the pending field. -/
theorem twoEntries_afterTurn :
    ((takeTurn .a Turn.isSet { twoEntries with pending := [] }).protEntryOf 12).isSome = true ∧
      (((takeTurn .a Turn.isSet { twoEntries with pending := [] }).well 12).bind (·.pendingProt)).isSome = true := by
  decide +kernel

/-- Refutes O54: the law of the pending fields speaks of the entry found for a well, and a state with two entries for one well, which
breaks R153 but not this law, loses it when the first is dropped at the head of the queue. -/
theorem not_pendingFieldsStandAlone : ¬ Obligations.PendingFieldsStandAlone := by
  unfold Obligations.PendingFieldsStandAlone
  rintro ⟨-, h⟩
  have law := h twoEntries _ twoEntries_pendingLaw rfl
  obtain ⟨hentry, hfield⟩ := twoEntries_afterTurn
  obtain ⟨p, hfield⟩ := Option.isSome_iff_exists.mp hfield
  obtain ⟨w, hw, hp⟩ := Option.bind_eq_some_iff.mp hfield
  rcases law.2 12 w hw with h0 | h0
  · exact absurd (h0 ▸ hentry) (by simp)
  · exact absurd (h0 ▸ hp) (by simp)

end Sys2Proof.Machine
end

section
/-! What the shared operations leave alone besides what `Inner` tells: of a segment all but its queue, budget in force, drops and
evictions; the RESPONSEs the uplink holds, the routine queue while the transmitter is sending, and the status of the lines. -/

set_option Elab.async false

namespace Sys2Proof.Machine

variable {d l : Prop}

/-- A segment without what the operations on its queue change. -/
def Segment.queueless (q : Segment) : Segment :=
  { q with
    queue := []
    outstanding := 0
    budgetInForce := 0
    counters := { q.counters with drops := 0, evictions := 0 } }

/-- What a shared operation leaves. Where `d` says so moves may have ended, and their travel been released; where `l` says so the
status of a line may have changed, and LINE summaries been offered. -/
structure Calm (d l : Prop) (s t : State) : Prop where
  seg : ∀ g, (t.seg g).queueless = (s.seg g).queueless
  outstanding : d ∨ ∀ g, (t.seg g).outstanding = (s.seg g).outstanding
  responses : t.link.responses.Perm s.link.responses
  transmitter : s.link.transmitter ≠ none → t.link.transmitter = s.link.transmitter
  routine : l ∨ (s.link.transmitter ≠ none → t.link.routine = s.link.routine)
  lineLost : l ∨ t.balancer.lineLost = s.balancer.lineLost
  flareFault : l ∨ t.balancer.flareFault = s.balancer.flareFault
  resetTime : t.balancer.resetTime = s.balancer.resetTime

theorem Calm.refl (s : State) : Calm d l s s :=
  ⟨fun _ => rfl, .inr fun _ => rfl, .refl _, fun _ => rfl, .inr fun _ => rfl, .inr rfl, .inr rfl, rfl⟩

theorem or_trans_eq {α : Type} {p : Prop} {x y z : α} (a : p ∨ y = x) (b : p ∨ z = y) : p ∨ z = x := by
  rcases a with h | h
  · exact .inl h
  · exact b.imp_right (·.trans h)

theorem Calm.trans {s t u : State} (a : Calm d l s t) (b : Calm d l t u) : Calm d l s u where
  seg := fun g => (b.seg g).trans (a.seg g)
  outstanding := by
    rcases a.outstanding with h | h
    · exact .inl h
    · exact b.outstanding.imp_right fun k g => (k g).trans (h g)
  responses := b.responses.trans a.responses
  transmitter := fun h => (b.transmitter (a.transmitter h ▸ h)).trans (a.transmitter h)
  routine := by
    rcases a.routine with h | h
    · exact .inl h
    · exact b.routine.imp_right fun k hs => (k (a.transmitter hs ▸ hs)).trans (h hs)
  lineLost := or_trans_eq a.lineLost b.lineLost
  flareFault := or_trans_eq a.flareFault b.flareFault
  resetTime := b.resetTime.trans a.resetTime

/-- What leaves every move leaves all that is left where moves may end; likewise for the lines. -/
theorem Calm.mono {d' l' : Prop} {s t : State} (a : Calm d l s t) (hd : d → d') (hl : l → l') : Calm d' l' s t :=
  ⟨a.seg, a.outstanding.imp_left hd, a.responses, a.transmitter, a.routine.imp_left hl, a.lineLost.imp_left hl,
    a.flareFault.imp_left hl, a.resetTime⟩

/-! ## The leaves -/

/-- An operation that touches neither the segments nor the link, nor the status of a line. -/
theorem Calm.quiet {s t : State} (segs : t.segs = s.segs) (link : t.link = s.link)
    (lost : t.balancer.lineLost = s.balancer.lineLost) (fault : t.balancer.flareFault = s.balancer.flareFault)
    (reset : t.balancer.resetTime = s.balancer.resetTime) : Calm d l s t := by
  have e : ∀ g, t.seg g = s.seg g := fun g => by unfold State.seg; rw [segs]
  exact ⟨fun g => by rw [e], .inr fun g => by rw [e], by rw [link], fun _ => by rw [link], .inr fun _ => by rw [link],
    .inr lost, .inr fault, reset⟩

theorem Calm.modSeg (s : State) (g : Seg) (f : Segment → Segment)
    (hq : ∀ q, (f q).queueless = q.queueless := by intro _; rfl)
    (ho : d ∨ ∀ q, (f q).outstanding = q.outstanding := by exact Or.inr fun _ => rfl) : Calm d l s (s.modSeg g f) where
  seg := fun k => by
    rw [State.seg_modSeg]
    split
    · rename_i e; rw [e, hq]
    · rfl
  outstanding := ho.imp_right fun h k => by
    rw [State.seg_modSeg]
    split
    · rename_i e; rw [e, h]
    · rfl
  responses := .refl _
  transmitter := fun _ => rfl
  routine := .inr fun _ => rfl
  lineLost := .inr rfl
  flareFault := .inr rfl
  resetTime := rfl

theorem Calm.modBalancer (s : State) (f : Balancer → Balancer) (hl : ∀ b, (f b).lineLost = b.lineLost := by intro _; rfl)
    (hf : ∀ b, (f b).flareFault = b.flareFault := by intro _; rfl)
    (hr : ∀ b, (f b).resetTime = b.resetTime := by intro _; rfl) : Calm d l s (s.modBalancer f) :=
  .quiet rfl rfl (hl _) (hf _) (hr _)

theorem calm_modConds (s : State) (f : Conditions → Conditions) : Calm d l s (s.modConds f) := .quiet rfl rfl rfl rfl rfl

theorem calm_setLine (s : State) (n : Line) (r : LineRecord) : Calm d l s (s.setLine n r) := .quiet rfl rfl rfl rfl rfl

theorem calm_countProt (s : State) : Calm d l s s.countProt := .quiet rfl rfl rfl rfl rfl

theorem calm_askEvalOf (s : State) (o : Option Line) : Calm d l s (s.askEvalOf o) := by
  cases o <;> exact .quiet rfl rfl rfl rfl rfl

theorem calm_putWell (s : State) (i : Slot) (w : Option Well) : Calm d l s (putWell s i w) := by
  rw [putWell_frame]
  exact .quiet rfl rfl rfl rfl rfl

theorem calm_modWell (s : State) (i : Slot) (f : Well → Well) : Calm d l s (modWell s i f) := by
  unfold modWell
  split
  · exact calm_putWell _ _ _
  · exact .refl s

theorem calm_setReason (i : Slot) (r : Reason) (x : Bool) (s : State) : Calm d l s (setReason i r x s) := calm_modWell _ _ _

theorem calm_setPending (i : Slot) (p : Option PendingProt) (s : State) : Calm d l s (setPending i p s) := calm_modWell _ _ _

theorem calm_modCounters (s : State) (g : Seg) (f : SegCounters → SegCounters)
    (h : ∀ c, { f c with drops := 0, evictions := 0 } = { c with drops := 0, evictions := 0 } := by intro _; rfl) :
    Calm d l s (s.modCounters g f) :=
  Calm.modSeg s g _ fun q => by
    have e : ({ q with counters := f q.counters } : Segment).queueless = q.queueless := by
      unfold Segment.queueless
      exact congrArg (fun c : SegCounters =>
        ({ q with queue := [], outstanding := 0, budgetInForce := 0, counters := c } : Segment)) (h q.counters)
    exact e

/-! ## The uplink -/

/-- The frames the uplink holds. -/
def Link.held (k : Link) : List Uplink := k.transmitter.toList ++ k.urgent ++ k.routine

/-- The RESPONSE a frame is. -/
def Uplink.response? : Uplink → Option Response
  | .response r => some r
  | _ => none

theorem Link.responses_eq (k : Link) : k.responses = k.held.filterMap Uplink.response? := by
  refine congrArg (List.filterMap · k.held) (funext fun u => ?_)
  cases u <;> rfl

theorem Link.pump_held (k : Link) : k.pump.held = k.held := by
  unfold Link.pump Link.held
  split
  · rfl
  · rename_i ht
    split
    · rename_i hu; simp [ht, hu]
    · rename_i hu
      split
      · rename_i hr; simp [ht, hu, hr]
      · rfl

/-- Taking a frame onto the transmitter changes no RESPONSE the uplink holds. -/
theorem Link.pump_responses (k : Link) : k.pump.responses = k.responses := by
  rw [responses_eq, responses_eq, pump_held]

/-- A transmitter that is sending takes no frame. -/
theorem Link.pump_sending {k : Link} (h : k.transmitter ≠ none) : k.pump = k := by
  unfold Link.pump
  split
  · rfl
  · rename_i e; exact absurd e h

/-- A frame that is no RESPONSE adds none. -/
theorem Link.offerRoutine_responses {f : Uplink} (hf : f.response? = none) (k : Link) :
    (k.offerRoutine f).responses = k.responses := by
  unfold Link.offerRoutine
  split
  · rw [pump_responses, responses_eq, responses_eq]
    simp [Link.held, hf]
  · rfl

theorem Link.offerUrgent_responses {f : Uplink} (hf : f.response? = none) (k : Link) :
    (k.offerUrgent f).responses = k.responses := by
  unfold Link.offerUrgent
  split
  · rw [pump_responses, responses_eq, responses_eq]
    simp [Link.held, hf]
  · rfl

/-- What an offer makes of a link whose transmitter is sending (R204, R205). -/
theorem Link.offerRoutine_sending {k : Link} (h : k.transmitter ≠ none) (f : Uplink) :
    k.offerRoutine f =
      if k.routineFill < Config.routineCap then { k with routine := k.routine ++ [f] }
      else { k with counters := { k.counters with routineDiscards := counterInc k.counters.routineDiscards } } := by
  unfold Link.offerRoutine
  split
  · exact Link.pump_sending (k := { k with routine := k.routine ++ [f] }) h
  · rfl

theorem Link.offerUrgent_sending {k : Link} (h : k.transmitter ≠ none) (f : Uplink) :
    k.offerUrgent f =
      if k.urgent.length < Config.urgentCap then { k with urgent := k.urgent ++ [f] }
      else { k with counters := { k.counters with urgentDiscards := counterInc k.counters.urgentDiscards } } := by
  unfold Link.offerUrgent
  split
  · exact Link.pump_sending (k := { k with urgent := k.urgent ++ [f] }) h
  · rfl

theorem calm_offerRoutine {f : Uplink} (hf : f.response? = none) (s : State) (hl : l) :
    Calm d l s (offerRoutine f s) := by
  refine ⟨fun _ => rfl, .inr fun _ => rfl, ?_, fun h => ?_, .inl hl, .inr rfl, .inr rfl, rfl⟩
  · exact .of_eq (Link.offerRoutine_responses hf s.link)
  · show (s.link.offerRoutine f).transmitter = _
    rw [Link.offerRoutine_sending h]
    split <;> rfl

theorem calm_offerUrgent {f : Uplink} (hf : f.response? = none) (s : State) : Calm d l s (offerUrgent f s) := by
  refine ⟨fun _ => rfl, .inr fun _ => rfl, .of_eq (Link.offerUrgent_responses hf s.link), fun h => ?_, .inr fun h => ?_,
    .inr rfl, .inr rfl, rfl⟩
  · show (s.link.offerUrgent f).transmitter = _
    rw [Link.offerUrgent_sending h]
    split <;> rfl
  · show (s.link.offerUrgent f).routine = _
    rw [Link.offerUrgent_sending h]
    split <;> rfl

/-! ## The Condition Controller -/

theorem calm_evalTaking (s : State) : Calm d l s (evalTaking s) := by
  unfold evalTaking
  split
  · split
    · exact (calm_modConds s _).trans (calm_offerUrgent rfl _)
    · exact .refl s
  · exact .refl s

theorem calm_bumpRec (k : CondKind) (src : Nat) (s : State) : Calm d l s (bumpRec k src s) := by
  unfold bumpRec
  exact calm_modConds _ _

theorem calm_raiseCond (k : CondKind) (src : Nat) (m n : Option Int) (s : State) : Calm d l s (raiseCond k src m n s) := by
  unfold raiseCond
  split
  · exact calm_bumpRec _ _ _
  · exact (calm_modConds s _).trans (calm_evalTaking _)

theorem calm_withdraw (k : CondKind) (src : Nat) (s : State) : Calm d l s (withdraw k src s) := by
  unfold withdraw
  split
  · exact (calm_modConds s _).trans (calm_evalTaking _)
  · exact .refl s

theorem calm_withdrawSlot (i : Slot) (s : State) : Calm d l s (withdrawSlot i s) := by
  unfold withdrawSlot
  simp only
  split
  · exact (calm_modConds s _).trans (calm_evalTaking _)
  · exact calm_modConds s _

/-! ## The Command Queues -/

theorem calm_endBalancing (r : Ending) (s : State) : Calm d l s (endBalancing r s) := by
  unfold endBalancing
  split
  · exact .modBalancer _ _
  · exact .refl s

theorem calm_leaveEffects (e : Entry) (s : State) : Calm d l s (leaveEffects e s) := by
  unfold leaveEffects
  split
  · exact calm_endBalancing _ _
  · exact .refl s

theorem calm_protEnter {g : Seg} {e : Entry} {s s' : State} (h : protEnter g e s = some s') : Calm d l s s' := by
  unfold protEnter at h
  split at h
  · cases h
    exact .modSeg _ _ _
  · split at h
    · cases h
      exact (Calm.modSeg s g _).trans (calm_leaveEffects _ _)
    · exact absurd h (by simp)

theorem calm_protReplace (g : Seg) (old e : Entry) (s : State) : Calm d l s (protReplace g old e s) :=
  (Calm.modSeg s g _).trans (calm_leaveEffects _ _)

theorem calm_examineFrom (g : Seg) (slots : List Slot) (s : State) : Calm d l s (examineFrom g slots s) := by
  induction slots generalizing s with
  | nil => exact .refl s
  | cons i rest ih =>
    unfold examineFrom
    split
    · exact ih s
    · split
      · split
        · exact ih s
        · simp only
          split
          · exact ((calm_protReplace _ _ _ _).trans (calm_setPending _ _ _)).trans (ih _)
          · split
            · rename_i s' hs'
              exact ((calm_protEnter hs').trans (calm_setPending _ _ _)).trans (ih _)
            · exact .refl s
      · exact ih s

theorem calm_examinePending (g : Seg) (s : State) : Calm d l s (examinePending g s) := by
  unfold examinePending
  split
  · exact calm_examineFrom _ _ _
  · exact .refl s

theorem calm_examineAll (s : State) : Calm d l s (examineAll s) :=
  (((calm_examinePending .a s).trans (calm_examinePending .b _)).trans (calm_examinePending .c _)).trans
    (calm_examinePending .d _)

theorem calm_departed (g : Seg) (e : Entry) (s : State) : Calm d l s (departed g e s) :=
  (calm_leaveEffects e s).trans (calm_examinePending g _)

theorem calm_removeEntry (g : Seg) (i : Slot) (s : State) : Calm d l s (removeEntry g i s) := by
  unfold removeEntry
  split
  · exact (Calm.modSeg s g _).trans (calm_departed _ _ _)
  · exact .refl s

theorem calm_arriveProt (i : Slot) (target : Nat) (outlet : Line) (s : State) : Calm d l s (arriveProt i target outlet s) := by
  unfold arriveProt
  split
  · exact .refl s
  · simp only
    split
    · exact calm_setPending _ _ _
    · split
      · exact ((calm_protReplace _ _ _ _).trans (calm_setPending _ _ _)).trans (calm_examinePending _ _)
      · split
        · exact calm_setPending _ _ _
        · split
          · rename_i s' hs'
            have k := (calm_protEnter (d := d) (l := l) hs').trans (calm_setPending i none _)
            split
            · exact k
            · exact k.trans (calm_examinePending _ _)
          · exact calm_setPending _ _ _

theorem calm_arriveOther (i : Slot) (target : Nat) (outlet : Line) (cls : Cls) (s : State) :
    Calm d l s (arriveOther i target outlet cls s) := by
  unfold arriveOther
  split
  · exact .refl s
  · simp only
    split
    · split
      · exact calm_leaveEffects _ _
      · exact (Calm.modSeg s _ _).trans (calm_departed _ _ _)
    · split
      · exact .modSeg _ _ _
      · exact (calm_modCounters s _ _).trans (calm_departed _ _ _)

theorem calm_refreshBudget (g : Seg) (s : State) : Calm d l s (refreshBudget g s) := by
  unfold refreshBudget
  split
  · exact .modSeg _ _ _
  · exact .refl s

theorem calm_dropOverBudget (g : Seg) (n : Nat) (s : State) : Calm d l s (dropOverBudget g n s) := by
  induction n generalizing s with
  | zero => exact .refl s
  | succ n ih =>
    unfold dropOverBudget
    split
    · exact .refl s
    · split
      · exact ((Calm.modSeg s g _).trans (calm_departed _ _ _)).trans (ih _)
      · exact .refl s

theorem calm_testHead (g : Seg) (s : State) : Calm d l s (testHead g s) := calm_dropOverBudget _ _ _

theorem calm_releaseMove (i : Slot) (r : Ending) (s : State) : Calm True l s (releaseMove i r s) := by
  unfold releaseMove
  split
  · exact .refl s
  · split
    · exact .refl s
    · rename_i w _ _ m _
      simp only
      have k := ((calm_putWell (d := True) (l := l) s i (some { w with move := none })).trans
        (Calm.modSeg _ w.cfg.seg (fun q => { q with outstanding := q.outstanding - m.travel }) (fun _ => rfl)
          (.inl trivial))).trans (calm_refreshBudget w.cfg.seg _)
      split
      · exact k.trans (calm_endBalancing _ _)
      · exact k

theorem calm_endMove (i : Slot) (r : Ending) (s : State) : Calm True l s (endMove i r s) := by
  unfold endMove
  split
  · exact .refl s
  · split
    · exact (calm_releaseMove i r s).trans (calm_testHead _ _)
    · exact .refl s

theorem calm_releaseMoves (r : Ending) (slots : List Slot) (s : State) : Calm True l s (releaseMoves r slots s) := by
  induction slots generalizing s with
  | nil => exact .refl s
  | cons i rest ih => exact (calm_releaseMove i r s).trans (ih _)

/-! ## Outlets -/

theorem calm_makeProt (i : Slot) (target : Nat) (s : State) : Calm d l s (makeProt i target s) := by
  unfold makeProt
  split
  · exact (calm_countProt s).trans (calm_arriveProt _ _ _ _)
  · exact .refl s

theorem calm_applyOutletRule (i : Slot) (s : State) : Calm d l s (applyOutletRule i s) := by
  unfold applyOutletRule
  split
  · split
    · split
      · split
        · exact calm_setReason _ _ _ _
        · exact .refl s
      · split
        · exact .refl s
        · simp only
          split
          · exact (calm_setReason _ _ _ _).trans (calm_makeProt _ _ _)
          · exact calm_setReason _ _ _ _
    · exact .refl s
  · exact .refl s

theorem calm_examineSite (b : Bool) (s : State) : Calm d l s (examineSite b s) := by
  unfold examineSite
  split
  · split
    · split
      · exact calm_bumpRec _ _ _
      · exact .refl s
    · exact calm_raiseCond _ _ _ _ _
  · exact .refl s

theorem calm_outletRuleAt (i : Slot) (s : State) : Calm d l s (outletRuleAt i s) :=
  (calm_applyOutletRule i s).trans (calm_examineSite _ _)

theorem calm_applyOutletRules (slots : List Slot) (s : State) : Calm d l s (applyOutletRules slots s) := by
  induction slots generalizing s with
  | nil => exact .refl s
  | cons i rest ih => exact (calm_applyOutletRule i s).trans (ih _)

theorem calm_outletRuleAll (b : Bool) (s : State) : Calm d l s (outletRuleAll b s) :=
  (calm_applyOutletRules _ s).trans (calm_examineSite _ _)

theorem calm_divertAll (slots : List Slot) (s : State) : Calm d l s (divertAll slots s) := by
  induction slots generalizing s with
  | nil => exact .refl s
  | cons i rest ih =>
    unfold divertAll
    split
    · exact ((calm_countProt s).trans (calm_arriveProt _ _ _ _)).trans (ih _)
    · exact ih s

theorem calm_diversion (s : State) : Calm d l s (diversion s) := calm_divertAll _ s

/-! ## Lines -/

theorem calm_setLineCount (k : CondKind) (n : Nat) (s : State) : Calm d l s (setLineCount k n s) := .modBalancer _ _

theorem calm_treatLineKind (k : CondKind) (b : Bool) (m : Option Nat) (n : Nat) (s : State) :
    Calm d l s (treatLineKind k b m n s) := by
  unfold treatLineKind
  simp only
  split
  · split
    · exact (calm_setLineCount _ _ _).trans (calm_bumpRec _ _ _)
    · split
      · exact (calm_setLineCount _ _ _).trans (calm_raiseCond _ _ _ _ _)
      · exact calm_setLineCount _ _ _
  · exact (calm_setLineCount _ _ _).trans (calm_withdraw _ _ _)

theorem calm_treatLine (n : Line) (r : LineRecord) (s : State) : Calm d l s (treatLine n r s) := by
  cases n
  · exact (calm_treatLineKind _ _ _ _ _).trans (calm_treatLineKind _ _ _ _ _)
  · exact calm_treatLineKind _ _ _ _ _

theorem calm_balancingPass (s : State) : Calm d l s (balancingPass s) := by
  unfold balancingPass
  split
  · exact (Calm.modBalancer s _).trans (calm_arriveOther _ _ _ _ _)
  · exact .refl s

theorem calm_evaluateLine (n : Line) (s : State) : Calm d l s (evaluateLine n s) := by
  unfold evaluateLine
  simp only
  have k := (calm_setLine (d := d) (l := l) s n (s.lineRecordOf n)).trans (calm_treatLine n (s.lineRecordOf n) _)
  split
  · exact k.trans (calm_balancingPass _)
  · exact k

theorem calm_runEvals (s : State) : Calm d l s (runEvals s) := by
  unfold runEvals
  simp only
  have k : Calm d l s { s with evalAsked := .all false } := .quiet rfl rfl rfl rfl rfl
  split <;> split
  · exact (k.trans (calm_evaluateLine _ _)).trans (calm_evaluateLine _ _)
  · exact k.trans (calm_evaluateLine _ _)
  · exact k.trans (calm_evaluateLine _ _)
  · exact k

theorem calm_offerLine (s : State) (hl : l) : Calm d l s (offerLine s) := calm_offerRoutine rfl s hl

/-! ## Trips -/

theorem calm_leaveAll (entries : List Entry) (s : State) : Calm d l s (leaveAll entries s) := by
  induction entries generalizing s with
  | nil => exact .refl s
  | cons e rest ih => exact (calm_leaveEffects e s).trans (ih _)

theorem calm_turnQueue (s : State) (g : Seg) : Calm d l s (turnQueue s g) :=
  (Calm.modSeg s g _).trans (calm_leaveAll _ _)

theorem calm_foldSegs (f : State → Seg → State) (hf : ∀ s g, Calm d l s (f s g)) (segs : List Seg) (s : State) :
    Calm d l s (segs.foldl f s) := by
  induction segs generalizing s with
  | nil => exact .refl s
  | cons g rest ih => exact (hf s g).trans (ih _)

theorem calm_turnPending (slots : List Slot) (s : State) : Calm d l s (turnPending slots s) := by
  induction slots generalizing s with
  | nil => exact .refl s
  | cons i rest ih =>
    unfold turnPending
    refine Calm.trans ?_ (ih _)
    split
    · exact .refl s
    · split
      · exact .refl s
      · split
        · exact calm_setPending _ _ _
        · exact .refl s

/-- The change of a line's status. -/
theorem calm_status (s : State) (f : Balancer → Balancer) (hl : l) (hr : (f s.balancer).resetTime = s.balancer.resetTime) :
    Calm d l s (s.modBalancer f) :=
  ⟨fun _ => rfl, .inr fun _ => rfl, .refl _, fun _ => rfl, .inl hl, .inl hl, .inl hl, hr⟩

theorem calm_lineLostOnset (s : State) : Calm d True s (lineLostOnset s) := by
  unfold lineLostOnset
  simp only
  refine Calm.trans ?_ ((calm_evaluateLine _ _).trans (calm_offerLine _ trivial))
  refine Calm.trans ?_ (calm_outletRuleAll _ _)
  refine Calm.trans ?_ ((calm_turnPending _ _).trans (calm_examineAll _))
  refine Calm.trans ?_ (calm_foldSegs _ calm_turnQueue _ _)
  have k := (calm_status (d := d) s (fun b => { b with lineLost := true }) trivial rfl).trans
    (calm_raiseCond .engineLineLost Config.engineSource (some (maskValue s.limits.mask)) none _)
  split
  · exact k.trans (calm_diversion _)
  · exact k

theorem calm_lineLostEnd (s : State) : Calm d True s (lineLostEnd s) :=
  (((calm_status s _ trivial rfl).trans (calm_outletRuleAll _ _)).trans (calm_evaluateLine _ _)).trans
    (calm_offerLine _ trivial)

theorem calm_combinationChanged (b : Bool) (s : State) : Calm d True s (combinationChanged b s) := by
  unfold combinationChanged
  split
  · split
    · exact .refl s
    · split
      · exact calm_bumpRec _ _ _
      · exact calm_lineLostOnset s
  · split
    · exact calm_lineLostEnd s
    · exact .refl s

theorem calm_freeDiverted (slots : List Slot) (s : State) : Calm d l s (freeDiverted slots s) :=
  (calm_applyOutletRules _ _).trans (calm_examineSite _ _)

theorem calm_flareFaultChanged (s : State) : Calm d True s (flareFaultChanged s) := by
  unfold flareFaultChanged
  simp only
  split
  · exact .refl s
  · refine Calm.trans ?_ ((calm_evaluateLine _ _).trans (calm_offerLine _ trivial))
    have k := (calm_status (d := d) s (fun b => { b with flareFault := s.trips.flareFault.accepted }) trivial rfl).trans
      (calm_outletRuleAll true _)
    split
    · exact (k.trans (calm_diversion _)).trans (calm_freeDiverted _ _)
    · exact k

theorem calm_tripsChanged (b : Bool) (s : State) : Calm d True s (tripsChanged b s) :=
  (calm_combinationChanged b s).trans (calm_flareFaultChanged _)

theorem calm_removalEffects (r : CondRec) (s : State) : Calm d True s (removalEffects r s) := by
  unfold removalEffects
  split
  · split
    · exact calm_setReason _ _ _ _
    · exact .refl s
  · split
    · exact calm_lineLostEnd s
    · exact .refl s

/-! ## Replies, excursions and samples -/

theorem calm_handJoin (i : Slot) (b : Option Line) (s : State) : Calm d l s (handJoin i b s) := by
  unfold handJoin
  split
  · exact calm_outletRuleAt _ _
  · exact .refl s

theorem calm_examineOwn (i : Slot) (s : State) : Calm d l s (examineOwn i s) := by
  unfold examineOwn
  split
  · split
    · exact calm_examinePending _ _
    · exact .refl s
  · exact .refl s

theorem calm_goodReply (i : Slot) (s : State) : Calm d l s (goodReply i s) :=
  ((calm_modWell s i _).trans (calm_examineOwn _ _)).trans (calm_handJoin _ _ _)

theorem calm_silenceQueue (i : Slot) (s : State) : Calm True l s (silenceQueue i s) := by
  unfold silenceQueue
  simp only
  have k := calm_endMove (l := l) i .abandoned s
  split
  · split
    · exact k
    · split
      · exact (k.trans (calm_setPending _ _ _)).trans (calm_removeEntry _ _ _)
      · exact k
  · exact k

theorem calm_fallSilent (i : Slot) (s : State) : Calm True l s (fallSilent i s) := by
  unfold fallSilent
  split
  · exact .refl s
  · exact ((calm_putWell s i _).trans (calm_raiseCond _ _ _ _ _)).trans (calm_silenceQueue _ _)

theorem calm_missWell (i : Slot) (s : State) : Calm True l s (missWell i s) := by
  unfold missWell
  split
  · exact .refl s
  · simp only
    split
    · exact (calm_putWell s i _).trans (calm_fallSilent _ _)
    · exact calm_putWell s i _

theorem calm_setCount (i : Slot) (k : ExcKind) (n : Nat) (s : State) : Calm d l s (setCount i k n s) := calm_modWell _ _ _

theorem calm_protectiveAction (i : Slot) (k : ExcKind) (s : State) : Calm d l s (protectiveAction i k s) := by
  unfold protectiveAction
  split
  · exact .refl s
  · split
    · split
      · exact calm_makeProt _ _ _
      · split
        · exact calm_makeProt _ _ _
        · split <;> exact calm_makeProt _ _ _
      · exact .refl s
      · exact .refl s
    · exact .refl s

theorem calm_excursion (i : Slot) (k : ExcKind) (m n : Option Int) (s : State) : Calm d l s (excursion i k m n s).1 := by
  unfold excursion
  split
  · exact .refl s
  · split
    · exact (calm_setCount _ _ _ _).trans (calm_bumpRec _ _ _)
    · simp only
      split
      · exact (((calm_setCount _ _ _ _).trans (calm_raiseCond _ _ _ _ _)).trans (calm_setReason _ _ _ _)).trans
          (calm_protectiveAction _ _ _)
      · exact calm_setCount _ _ _ _

theorem calm_writeEcho (i : Slot) (target : Nat) (outlet : Line) (s : State) : Calm d l s (writeEcho i target outlet s) := by
  unfold writeEcho
  split
  · exact .refl s
  · simp only
    refine Calm.trans ?_ (calm_runEvals _)
    split
    · exact calm_putWell s i _
    · exact (calm_putWell s i _).trans (calm_outletRuleAt _ _)

theorem calm_advanceBalancing (c : SentCopy) (s : State) : Calm d l s (advanceBalancing c s) := by
  unfold advanceBalancing
  split
  · exact .modBalancer _ _
  · exact .refl s

theorem calm_endOvertaken (e : Entry) (s : State) : Calm d l s (endOvertaken e s) := by
  unfold endOvertaken
  split
  · exact calm_endBalancing _ _
  · exact .refl s

theorem calm_settleEntry (g : Seg) (i : Slot) (s : State) : Calm d l s (settleEntry g i s) := by
  unfold settleEntry
  split
  · exact .refl s
  · split
    · exact (Calm.modSeg s g _).trans (calm_examinePending _ _)
    · split
      · exact .refl s
      · exact ((Calm.modSeg s g _).trans (calm_endOvertaken _ _)).trans (calm_examinePending _ _)

theorem calm_endSentBalancing (c : SentCopy) (s : State) : Calm d l s (endSentBalancing c s) := by
  unfold endSentBalancing
  split
  · exact calm_endBalancing _ _
  · exact .refl s

theorem calm_unsend (g : Seg) (i : Slot) (s : State) : Calm d l s (unsend g i s) := .modSeg _ _ _

theorem calm_failedOther (g : Seg) (c : SentCopy) (s : State) : Calm d l s (failedOther g c s) := by
  unfold failedOther
  split
  · split
    · exact calm_removeEntry _ _ _
    · exact .refl s
  · exact .refl s

theorem calm_failedProt (g : Seg) (c : SentCopy) (s : State) : Calm d l s (failedProt g c s) := by
  unfold failedProt
  split
  · split
    · exact calm_unsend _ _ _
    · exact (calm_setPending _ _ _).trans (calm_removeEntry _ _ _)
  · exact .refl s

theorem calm_timeOutMove (i : Slot) (s : State) : Calm True l s (timeOutMove i s) := by
  unfold timeOutMove
  split
  · exact .refl s
  · split
    · exact .refl s
    · exact (calm_endMove _ _ _).trans (calm_excursion _ _ _ _ _)

theorem calm_timeOutAged (limit : Nat) (moves : List (Slot × MoveRec)) (s : State) :
    Calm True l s (timeOutAged limit moves s) := by
  induction moves generalizing s with
  | nil => exact .refl s
  | cons m rest ih =>
    unfold timeOutAged
    refine Calm.trans ?_ (ih _)
    split
    · exact calm_timeOutMove _ _
    · exact .refl s

theorem calm_budgetReset (g : Seg) (s : State) : Calm True l s (budgetReset g s) :=
  ((calm_releaseMoves _ _ _).trans (Calm.modSeg _ g (fun q => { q with outstanding := 0 }) (fun _ => rfl)
    (.inl trivial))).trans (calm_refreshBudget _ _)

theorem calm_trimSample (i : Slot) (s : State) : Calm d l s (trimSample i s).1 := by
  unfold trimSample
  split
  · exact .refl s
  · split
    · simp only
      split
      · split
        · exact calm_arriveOther _ _ _ _ _
        · exact .refl s
      · exact .refl s
    · exact .refl s
    · exact .refl s

theorem calm_rangeChangeSet (i : Slot) (s : State) : Calm d l s (rangeChangeSet i s) := by
  unfold rangeChangeSet
  split
  · exact .refl s
  · split
    · exact .refl s
    · split
      · exact (calm_countProt s).trans (calm_arriveProt _ _ _ _)
      · exact .refl s

theorem calm_storeSample (i : Slot) (r : RawSample) (s : State) : Calm d l s (storeSample i r s) := by
  unfold storeSample
  split
  · exact .refl s
  · exact (((calm_putWell s i _).trans (calm_askEvalOf _ _)).trans (calm_examineOwn _ _)).trans (calm_handJoin _ _ _)

theorem calm_judgeMove (i : Slot) (s : State) : Calm True l s (judgeMove i s).1 := by
  unfold judgeMove
  split
  · exact .refl s
  · split
    · split
      · exact calm_endMove _ _ _
      · exact .refl s
    · exact .refl s

theorem calm_testKind (i : Slot) (q : Sample) (ended : Option (Ending × Nat)) (k : ExcKind) (x : State × ExcResult) :
    Calm d l x.1 (testKind i q ended k x).1 := by
  unfold testKind
  simp only
  split
  · exact .refl _
  · exact calm_setCount _ _ _ _
  · exact calm_excursion _ _ _ _ _

theorem calm_testSample (i : Slot) (q : Sample) (ended : Option (Ending × Nat)) (s : State) :
    Calm d l s (testSample i q ended s).1 :=
  (((calm_testKind i q ended .hot (s, ExcResult.none)).trans (calm_testKind _ _ _ _ _)).trans
    (calm_testKind _ _ _ _ _)).trans (calm_testKind _ _ _ _ _)

/-! ## The role, turns and tables -/

theorem calm_yieldEntry (s : State) (e : Entry) : Calm d l s (yieldEntry s e) := by
  unfold yieldEntry
  split
  · split
    · exact .refl s
    · exact calm_leaveEffects _ _
  · split
    · split
      · exact calm_outletRuleAt _ _
      · exact (calm_setPending _ _ _).trans (calm_outletRuleAt _ _)
    · exact .refl s

theorem calm_emptyQueue (s : State) (g : Seg) : Calm d l s (emptyQueue s g) := by
  have fold : ∀ (entries : List Entry) (s : State), Calm d l s (entries.foldl yieldEntry s) := by
    intro entries
    induction entries with
    | nil => exact .refl
    | cons e rest ih => exact fun s => (calm_yieldEntry s e).trans (ih _)
  exact (Calm.modSeg s g _).trans (fold _ _)

theorem calm_raiseConflict (s : State) : Calm d l s (raiseConflict s) := calm_raiseCond _ _ _ _ _

theorem calm_takeoverSets (slots : List Slot) (s : State) : Calm d l s (takeoverSets slots s) := by
  induction slots generalizing s with
  | nil => exact .refl s
  | cons i rest ih =>
    unfold takeoverSets
    refine Calm.trans ?_ (ih _)
    split
    · split
      · exact calm_makeProt _ _ _
      · exact .refl s
    · exact .refl s

theorem calm_chooseTurn (g : Seg) (s : State) : Calm d l s (chooseTurn g s).1 := by
  unfold chooseTurn
  split
  · split
    · exact .refl s
    · simp only
      split <;> exact calm_testHead _ _
  · simp only
    split
    · exact calm_testHead _ _
    · split <;> exact calm_testHead _ _

theorem calm_clampEntry (i : Slot) (c : WellCfg) (s : State) : Calm d l s (clampEntry i c s) := .modSeg _ _ _

theorem calm_clampPending (i : Slot) (c : WellCfg) (s : State) : Calm d l s (clampPending i c s) := calm_modWell _ _ _

theorem calm_liveChange (i : Slot) (w : Well) (c : WellCfg) (s : State) : Calm d l s (liveChange i w c s) := by
  unfold liveChange
  simp only
  split
  · exact calm_putWell s i _
  · exact (((calm_putWell s i _).trans (calm_clampEntry _ _ _)).trans (calm_clampPending _ _ _)).trans
      (calm_rangeChangeSet _ _)

theorem calm_holdQueue (s : State) (g : Seg) : Calm d l s (holdQueue s g) :=
  (Calm.modSeg s g _).trans (calm_leaveAll _ _)

end Sys2Proof.Machine
end

section
/-! Outstanding travel is the sum of the moves (R161): the two halves of the law, the moves and their travel, and the sent copies and
their transactions, through every step. -/

set_option Elab.async false

namespace Sys2Proof.Machine

variable {l : Prop}

/-! ## The two halves -/

/-- The travel a record brings to segment `g`. -/
def travelOn (g : Seg) (o : Option Well) : Nat :=
  match o with
  | some w => if w.cfg.seg = g then ((w.move.map (·.travel)).getD 0) else 0
  | none => 0

/-- The moves and the outstanding travel of every segment (R161), with no move out of service. -/
def Books (s : State) : Prop :=
  (∀ g : Seg, (s.seg g).outstanding = ∑ i : Slot, travelOn g (s.well i)) ∧
    ∀ (i : Slot) (w : Well), s.well i = some w → w.cfg.inService = false → w.move = none

/-- A sent copy stands only with the SET of its slot in flight (R152). -/
def Segment.CopyOk (q : Segment) : Prop :=
  ∀ c, q.sentCopy = some c → ∃ t, q.txn = some t ∧ t.kind = .set ∧ t.slot = some c.slot

/-- Every segment's copy. -/
def Copies (s : State) : Prop := ∀ g, (s.seg g).CopyOk

/-- The move record a slot brings to segment `g`'s list. -/
def State.moveOn (s : State) (g : Seg) (i : Slot) : Option (Slot × MoveRec) :=
  (s.well i).bind fun w => if w.cfg.seg = g then w.move.map fun m => (i, m) else none

theorem movesOf_eq (s : State) (g : Seg) : s.movesOf g = allSlots.filterMap (s.moveOn g) := by
  unfold State.movesOf
  congr 1
  funext i
  unfold State.moveOn
  cases s.well i <;> rfl

theorem moveOn_travel (s : State) (g : Seg) (i : Slot) :
    ((s.moveOn g i).map fun m => m.2.travel).getD 0 = travelOn g (s.well i) := by
  unfold State.moveOn travelOn
  cases s.well i with
  | none => rfl
  | some w =>
    by_cases hg : w.cfg.seg = g
    · cases hm : w.move <;> simp [hg, hm]
    · simp [hg]

theorem movesOf_travel (s : State) (g : Seg) :
    ((s.movesOf g).map fun m => m.2.travel).sum = ∑ i : Slot, travelOn g (s.well i) := by
  have key : ∀ slots : List Slot,
      ((slots.filterMap (s.moveOn g)).map fun m => m.2.travel).sum = (slots.map fun i => travelOn g (s.well i)).sum := by
    intro slots
    induction slots with
    | nil => rfl
    | cons i rest ih =>
      rw [List.map_cons, List.sum_cons, ← ih, ← moveOn_travel, List.filterMap_cons]
      cases s.moveOn g i <;> simp
  rw [movesOf_eq, key, Fin.sum_univ_def]
  rfl

theorem travelLaw_iff (s : State) : TravelLaw s ↔ Books s ∧ Copies s := by
  unfold TravelLaw Books Copies Segment.CopyOk
  simp only [movesOf_travel]
  tauto

/-! ## Moves that stay -/

/-- Every configuration, every move and every outstanding travel stays. -/
structure SameMoves (s t : State) : Prop where
  well : ∀ j, (t.well j).map (fun w => (w.cfg, w.move)) = (s.well j).map (fun w => (w.cfg, w.move))
  outstanding : ∀ g, (t.seg g).outstanding = (s.seg g).outstanding

theorem SameMoves.refl (s : State) : SameMoves s s := ⟨fun _ => rfl, fun _ => rfl⟩

theorem SameMoves.trans {s t u : State} (a : SameMoves s t) (b : SameMoves t u) : SameMoves s u :=
  ⟨fun j => (b.well j).trans (a.well j), fun g => (b.outstanding g).trans (a.outstanding g)⟩

theorem SameMoves.travelOn {s t : State} (a : SameMoves s t) (g : Seg) (j : Slot) :
    Machine.travelOn g (t.well j) = Machine.travelOn g (s.well j) := by
  have h := a.well j
  cases hs : s.well j <;> cases ht : t.well j <;> simp_all [Machine.travelOn]

theorem SameMoves.books {s t : State} (a : SameMoves s t) (h : Books s) : Books t := by
  refine ⟨fun g => ?_, fun i w hw hi => ?_⟩
  · rw [a.outstanding, h.1]
    exact Finset.sum_congr rfl fun j _ => (a.travelOn g j).symm
  · have e := a.well i
    rw [hw] at e
    cases hs : s.well i with
    | none => simp [hs] at e
    | some v =>
      rw [hs] at e
      obtain ⟨hc, hm⟩ := Prod.mk.inj (Option.some.inj e)
      exact hm.trans (h.2 i v hs (hc ▸ hi))

/-- A shared operation that ends no move. -/
theorem Inner.sameMoves {s t : State} (a : Inner False s t) (c : Calm False l s t) : SameMoves s t := by
  refine ⟨fun j => ?_, c.outstanding.resolve_left id⟩
  have hc := a.keeps.cfg j
  have hm := (a.moves j).resolve_right fun h => h.1
  cases hs : s.well j <;> cases ht : t.well j <;> simp_all

theorem SameMoves.modSeg (s : State) (g : Seg) (f : Segment → Segment)
    (h : ∀ q, (f q).outstanding = q.outstanding := by intro _; rfl) : SameMoves s (s.modSeg g f) := by
  refine ⟨fun _ => rfl, fun k => ?_⟩
  rw [State.seg_modSeg]
  split
  · rename_i e; rw [e, h]
  · rfl

/-- An operation that touches neither the wells nor the segments. -/
theorem SameMoves.quiet {s t : State} (wells : t.wells = s.wells) (segs : t.segs = s.segs) : SameMoves s t := by
  refine ⟨fun j => ?_, fun g => ?_⟩
  · unfold State.well; rw [wells]
  · unfold State.seg; rw [segs]

theorem putWell_seg (s : State) (i : Slot) (w : Option Well) (g : Seg) : (putWell s i w).seg g = s.seg g := by
  rw [putWell_frame]
  rfl

theorem SameMoves.putWell {s : State} {i : Slot} {w : Well} (hw : s.well i = some w) (v : Well) (hc : v.cfg = w.cfg)
    (hm : v.move = w.move) : SameMoves s (putWell s i (some v)) := by
  refine ⟨fun j => ?_, fun g => by rw [putWell_seg]⟩
  rw [putWell_well]
  split
  · rename_i e; rw [e, hw, Option.map_some, Option.map_some, hc, hm]
  · rfl

theorem SameMoves.modWell (s : State) (i : Slot) (f : Well → Well) (hc : ∀ w, (f w).cfg = w.cfg := by intro _; rfl)
    (hm : ∀ w, (f w).move = w.move := by intro _; rfl) : SameMoves s (modWell s i f) := by
  unfold Machine.modWell
  split
  · rename_i w hw
    exact .putWell hw _ (hc w) (hm w)
  · exact .refl s

theorem sameMoves_runEvals (s : State) : SameMoves s (runEvals s) := by
  have h : SameMoves s { s with evalAsked := .all false } := .quiet rfl rfl
  unfold runEvals
  simp only
  have k : ∀ n u, SameMoves u (evaluateLine n u) := fun n u =>
    (inner_evaluateLine n u).sameMoves (l := False) (calm_evaluateLine n u)
  split <;> split
  · exact (h.trans (k _ _)).trans (k _ _)
  · exact h.trans (k _ _)
  · exact h.trans (k _ _)
  · exact h

theorem sameMoves_handJoin (i : Slot) (b : Option Line) (s : State) : SameMoves s (handJoin i b s) :=
  (inner_handJoin i b s).sameMoves (l := False) (calm_handJoin i b s)

theorem sameMoves_examineOwn (i : Slot) (s : State) : SameMoves s (examineOwn i s) :=
  (inner_examineOwn i s).sameMoves (l := False) (calm_examineOwn i s)

theorem sameMoves_goodReply (i : Slot) (s : State) : SameMoves s (goodReply i s) :=
  ((SameMoves.modWell s i _).trans (sameMoves_examineOwn _ _)).trans (sameMoves_handJoin _ _ _)

theorem sameMoves_askEvalOf (s : State) (o : Option Line) : SameMoves s (s.askEvalOf o) := by
  cases o <;> exact .quiet rfl rfl

theorem sameMoves_storeSample (i : Slot) (r : RawSample) (s : State) : SameMoves s (storeSample i r s) := by
  unfold storeSample
  split
  · exact .refl s
  · rename_i w hw
    simp only
    refine SameMoves.trans ?_ (sameMoves_handJoin _ _ _)
    refine SameMoves.trans ?_ (sameMoves_examineOwn _ _)
    refine SameMoves.trans ?_ (sameMoves_askEvalOf _ _)
    exact .putWell hw _ rfl rfl

theorem sameMoves_writeEcho (i : Slot) (target : Nat) (outlet : Line) (s : State) :
    SameMoves s (writeEcho i target outlet s) := by
  unfold writeEcho
  split
  · exact .refl s
  · rename_i w hw
    simp only
    refine SameMoves.trans ?_ (sameMoves_runEvals _)
    have k := SameMoves.putWell hw { w with target := some target, outlet := outlet } rfl rfl
    split
    · exact k
    · exact k.trans ((inner_outletRuleAt i _).sameMoves (l := False) (calm_outletRuleAt i _))

/-! ## Moves that end or open -/

/-- A record written whose segment stays: the outstanding travel of that segment follows. -/
theorem Books.put {s t : State} {i : Slot} {w v : Well} (h : Books s) (hw : s.well i = some w)
    (wells : ∀ j, t.well j = if j = i then some v else s.well j) (hseg : v.cfg.seg = w.cfg.seg)
    (hout : (t.seg w.cfg.seg).outstanding + (w.move.map (·.travel)).getD 0 =
      (s.seg w.cfg.seg).outstanding + (v.move.map (·.travel)).getD 0)
    (others : ∀ g, g ≠ w.cfg.seg → (t.seg g).outstanding = (s.seg g).outstanding)
    (hserv : v.cfg.inService = false → v.move = none) : Books t := by
  refine ⟨fun g => ?_, fun j u hu hj => ?_⟩
  · have rest : ∑ j ∈ Finset.univ.erase i, travelOn g (t.well j) = ∑ j ∈ Finset.univ.erase i, travelOn g (s.well j) :=
      Finset.sum_congr rfl fun j hj => by rw [wells, if_neg (Finset.ne_of_mem_erase hj)]
    have ht := Finset.add_sum_erase Finset.univ (fun j => travelOn g (t.well j)) (Finset.mem_univ i)
    have hs := Finset.add_sum_erase Finset.univ (fun j => travelOn g (s.well j)) (Finset.mem_univ i)
    have hb := h.1 g
    simp only [wells i, if_true, hw] at ht hs
    by_cases hg : g = w.cfg.seg
    · subst hg
      simp only [travelOn, hseg, if_true] at ht hs rest
      simp only [travelOn] at hb ⊢
      omega
    · have hg' : ¬ w.cfg.seg = g := fun e => hg e.symm
      rw [others g hg]
      simp only [travelOn, hseg, hg', if_false] at ht hs rest
      simp only [travelOn] at hb ⊢
      omega
  · rw [wells] at hu
    split at hu
    · cases hu; exact hserv hj
    · exact h.2 j u hu hj

theorem books_travel_le {s : State} (h : Books s) {i : Slot} {w : Well} {m : MoveRec} (hw : s.well i = some w)
    (hm : w.move = some m) : m.travel ≤ (s.seg w.cfg.seg).outstanding := by
  rw [h.1]
  have := Finset.single_le_sum (f := fun j => travelOn w.cfg.seg (s.well j)) (fun j _ => Nat.zero_le _) (Finset.mem_univ i)
  simpa [travelOn, hw, hm] using this

theorem books_releaseMove (i : Slot) (r : Ending) {s : State} (h : Books s) : Books (releaseMove i r s) := by
  unfold releaseMove
  split
  · exact h
  · rename_i w hw
    split
    · exact h
    · rename_i m hm
      simp only
      have released : Books ((putWell s i (some { w with move := none })).modSeg w.cfg.seg fun q =>
          { q with outstanding := q.outstanding - m.travel }) := by
        refine h.put hw (v := { w with move := none }) (fun j => ?_) rfl ?_ (fun g hg => ?_) fun _ => rfl
        · rw [State.well_modSeg, putWell_well]
        · have := books_travel_le h hw hm
          rw [State.seg_modSeg, if_pos rfl, putWell_seg, hm]
          simp
          omega
        · rw [State.seg_modSeg, if_neg hg, putWell_seg]
      have k := ((inner_refreshBudget w.cfg.seg _).sameMoves (l := False) (calm_refreshBudget w.cfg.seg _)).books released
      split
      · exact ((inner_endBalancing r _).sameMoves (l := False) (calm_endBalancing r _)).books k
      · exact k

theorem books_endMove (i : Slot) (r : Ending) {s : State} (h : Books s) : Books (endMove i r s) := by
  unfold endMove
  split
  · exact h
  · split
    · exact ((inner_testHead _ _).sameMoves (l := False) (calm_testHead _ _)).books (books_releaseMove i r h)
    · exact h

theorem books_releaseMoves (r : Ending) (slots : List Slot) {s : State} (h : Books s) : Books (releaseMoves r slots s) := by
  induction slots generalizing s with
  | nil => exact h
  | cons i rest ih => exact ih (books_releaseMove i r h)

/-- After a release the slot has no move. -/
theorem releaseMove_move (i : Slot) (r : Ending) (s : State) : ((releaseMove i r s).well i).bind (·.move) = none := by
  unfold releaseMove
  split
  · rename_i hw; rw [hw]; rfl
  · rename_i w hw
    split
    · rename_i hm; rw [hw]; exact hm
    · rename_i m hm
      simp only
      have k : ∀ u : State, (u.well i).bind (·.move) = none → ((refreshBudget w.cfg.seg u).well i).bind (·.move) = none :=
        fun u hu => ((inner_refreshBudget (d := False) w.cfg.seg u).moves i).elim (·.trans hu) And.right
      have k' := k ((putWell s i (some { w with move := none })).modSeg w.cfg.seg fun q =>
        { q with outstanding := q.outstanding - m.travel }) (by rw [State.well_modSeg, putWell_well, if_pos rfl]; rfl)
      split
      · exact ((inner_endBalancing (d := False) r _).moves i).elim (·.trans k') And.right
      · exact k'

/-- No shared operation opens a move. -/
theorem Inner.move_none {d : Prop} {s t : State} (k : Inner d s t) {j : Slot} (h : (s.well j).bind (·.move) = none) :
    (t.well j).bind (·.move) = none := (k.moves j).elim (·.trans h) And.right

theorem releaseMoves_move (r : Ending) (slots : List Slot) (s : State) {j : Slot} (hj : j ∈ slots) :
    ((releaseMoves r slots s).well j).bind (·.move) = none := by
  induction slots generalizing s with
  | nil => exact absurd hj (by simp)
  | cons i rest ih =>
    by_cases hr : j ∈ rest
    · exact ih _ hr
    · have : j = i := (List.mem_cons.mp hj).resolve_right hr
      subst this
      exact (inner_releaseMoves r rest _).move_none (releaseMove_move j r s)

theorem mem_movesOf {s : State} {g : Seg} {i : Slot} {m : MoveRec} :
    (i, m) ∈ s.movesOf g ↔ ∃ w, s.well i = some w ∧ w.cfg.seg = g ∧ w.move = some m := by
  rw [movesOf_eq, List.mem_filterMap]
  unfold State.moveOn
  constructor
  · rintro ⟨j, -, hj⟩
    obtain ⟨w, hw, hj⟩ := Option.bind_eq_some_iff.mp hj
    split at hj
    · rename_i hg
      obtain ⟨m', hm', e⟩ := Option.map_eq_some_iff.mp hj
      obtain ⟨rfl, rfl⟩ := Prod.mk.inj e
      exact ⟨w, hw, hg, hm'⟩
    · exact absurd hj (by simp)
  · rintro ⟨w, hw, hg, hm⟩
    exact ⟨i, allSlots_mem i, by simp [hw, hg, hm]⟩

theorem books_budgetReset (g : Seg) {s : State} (h : Books s) : Books (budgetReset g s) := by
  unfold budgetReset
  simp only
  refine ((inner_refreshBudget g _).sameMoves (l := False) (calm_refreshBudget g _)).books ?_
  have hb := books_releaseMoves .abandoned ((s.movesOf g).map (·.1)) h
  have hk := inner_releaseMoves .abandoned ((s.movesOf g).map (·.1)) s
  refine ⟨fun k => ?_, hb.2⟩
  rw [State.seg_modSeg]
  split
  · rename_i e
    subst e
    show 0 = _
    refine (Finset.sum_eq_zero fun j _ => ?_).symm
    rw [State.well_modSeg]
    unfold travelOn
    split
    · rename_i w hw
      split
      · rename_i hseg
        have hnone : ((releaseMoves .abandoned ((s.movesOf k).map (·.1)) s).well j).bind (·.move) = none := by
          by_cases hj : j ∈ (s.movesOf k).map (·.1)
          · exact releaseMoves_move _ _ s hj
          · refine hk.move_none ?_
            have hc := hk.keeps.cfg j
            rw [hw] at hc
            cases hs : s.well j with
            | none => rfl
            | some v =>
              rw [hs] at hc
              have hv : v.cfg.seg = k := by rw [← hseg]; exact congrArg (·.seg) (Option.some.inj hc).symm
              cases hm : v.move with
              | none => exact hm
              | some m => exact absurd (List.mem_map.mpr ⟨(j, m), mem_movesOf.mpr ⟨v, hs, hv, hm⟩, rfl⟩) hj
        rw [hw] at hnone
        rw [show w.move = none from hnone]
        rfl
      · rfl
    · rfl
  · exact hb.1 k

theorem books_silenceQueue (i : Slot) {s : State} (h : Books s) : Books (silenceQueue i s) := by
  unfold silenceQueue
  simp only
  have k := books_endMove i .abandoned h
  split
  · split
    · exact k
    · split
      · exact ((inner_removeEntry _ _ _).sameMoves (l := False) (calm_removeEntry _ _ _)).books
          ((SameMoves.modWell _ i _).books k)
      · exact k
  · exact k

theorem books_fallSilent (i : Slot) {s : State} (h : Books s) : Books (fallSilent i s) := by
  unfold fallSilent
  split
  · exact h
  · rename_i w hw
    refine books_silenceQueue i (((inner_raiseCond _ _ _ _ _).sameMoves (l := False) (calm_raiseCond _ _ _ _ _)).books ?_)
    exact (SameMoves.putWell hw { w with answering := false, holds := w.holds.put .silent true } rfl rfl).books h

theorem books_missWell (i : Slot) {s : State} (h : Books s) : Books (missWell i s) := by
  unfold missWell
  split
  · exact h
  · rename_i w hw
    simp only
    have k := (SameMoves.putWell hw { w with missCount := satInc Config.countCap w.missCount } rfl rfl).books h
    split
    · exact books_fallSilent i k
    · exact k

theorem books_timeOutMove (i : Slot) {s : State} (h : Books s) : Books (timeOutMove i s) := by
  unfold timeOutMove
  split
  · exact h
  · split
    · exact h
    · exact ((inner_excursion _ _ _ _ _).sameMoves (l := False) (calm_excursion _ _ _ _ _)).books (books_endMove _ _ h)

theorem books_timeOutAged (limit : Nat) (moves : List (Slot × MoveRec)) {s : State} (h : Books s) :
    Books (timeOutAged limit moves s) := by
  induction moves generalizing s with
  | nil => exact h
  | cons m rest ih =>
    unfold timeOutAged
    refine ih ?_
    split
    · exact books_timeOutMove _ h
    · exact h

theorem books_judgeMove (i : Slot) {s : State} (h : Books s) : Books (judgeMove i s).1 := by
  unfold judgeMove
  split
  · exact h
  · split
    · split
      · exact books_endMove _ _ h
      · exact h
    · exact h

theorem sameMoves_testSample (i : Slot) (q : Sample) (ended : Option (Ending × Nat)) (s : State) :
    SameMoves s (testSample i q ended s).1 :=
  (inner_testSample i q ended s).sameMoves (l := False) (calm_testSample i q ended s)

theorem sameMoves_trimSample (i : Slot) (s : State) : SameMoves s (trimSample i s).1 :=
  (inner_trimSample i s).sameMoves (l := False) (calm_trimSample i s)

theorem books_acceptSample (i : Slot) (r : RawSample) {s : State} (h : Books s) : Books (acceptSample i r s) := by
  unfold acceptSample
  split
  · exact h
  · simp only
    have k := fun q e => (sameMoves_trimSample i _).books ((sameMoves_testSample i q e _).books
      (books_judgeMove i ((sameMoves_storeSample i r s).books h)))
    split
    · exact k _ _
    · exact (SameMoves.quiet rfl rfl).books (k _ _)

theorem books_creditSample (g : Seg) (i : Slot) (p : List Byte) {s : State} (h : Books s) :
    Books (creditSample g i p s).1 := by
  unfold creditSample
  simp only
  split
  · exact (SameMoves.modSeg s g _).books h
  · exact books_acceptSample i _ h

/-- The move record of a copy opens where the well has none and is in service (R164). -/
theorem books_openMove (c : SentCopy) {s : State} (h : Books s)
    (hmove : (s.well c.slot).bind (·.move) = none)
    (hserv : ∀ w, s.well c.slot = some w → w.cfg.inService = true) : Books (openMove c s) := by
  unfold openMove
  split
  · exact h
  · rename_i w hw
    have hnone : w.move = none := by rw [hw] at hmove; exact hmove
    refine h.put hw (v := { w with move := some ⟨c.target, c.outlet, c.cls, c.travel, s.timeBase⟩ }) (fun j => ?_) rfl ?_
      (fun g hg => ?_) fun e => absurd (hserv w hw) (by simp only at e; simp [e])
    · rw [State.well_modSeg, putWell_well]
    · rw [State.seg_modSeg, if_pos rfl, putWell_seg, hnone]
      simp
    · rw [State.seg_modSeg, if_neg hg, putWell_seg]

end Sys2Proof.Machine
end

section
/-! Outstanding travel is the sum of the moves (R161): the law through the events and the rows of the plant computer. -/

set_option Elab.async false

namespace Sys2Proof.Machine

variable {d l : Prop}

/-! ## Exchanges -/

/-- What the law says of a segment's exchange: kind and slot of the transaction, and the sent copy. -/
def Segment.exchange (q : Segment) : Option (TxnKind × Option Slot) × Option SentCopy :=
  (q.txn.map fun t => (t.kind, t.slot), q.sentCopy)

theorem Segment.copyOk_iff (q : Segment) :
    q.CopyOk ↔ ∀ c, q.exchange.2 = some c → q.exchange.1 = some (.set, some c.slot) := by
  unfold Segment.CopyOk Segment.exchange
  refine forall_congr' fun c => imp_congr_right fun _ => ?_
  cases q.txn <;> simp

theorem Segment.CopyOk.congr {q r : Segment} (h : q.CopyOk) (e : r.exchange = q.exchange) : r.CopyOk := by
  rw [copyOk_iff] at *
  rw [e]
  exact h

theorem Segment.copyOk_of_none {q : Segment} (h : q.sentCopy = none) : q.CopyOk := fun c hc => by
  rw [h] at hc
  exact absurd hc (by simp)

/-- No copy stands without a transaction, nor with one that is no SET. -/
theorem Segment.CopyOk.copy_none {q : Segment} (h : q.CopyOk) (ht : ∀ t, q.txn = some t → t.kind ≠ .set) :
    q.sentCopy = none := by
  cases hc : q.sentCopy with
  | none => rfl
  | some c =>
    obtain ⟨t, e, hk, -⟩ := h c hc
    exact absurd hk (ht t e)

/-- The exchanges of all segments but `g` stay. -/
def ExchangesBut (g : Seg) (s t : State) : Prop := ∀ k, k ≠ g → (t.seg k).exchange = (s.seg k).exchange

/-- Every exchange stays. -/
def SameExchanges (s t : State) : Prop := ∀ k, (t.seg k).exchange = (s.seg k).exchange

theorem SameExchanges.trans {s t u : State} (a : SameExchanges s t) (b : SameExchanges t u) : SameExchanges s u :=
  fun k => (b k).trans (a k)

theorem ExchangesBut.trans {g : Seg} {s t u : State} (a : ExchangesBut g s t) (b : ExchangesBut g t u) :
    ExchangesBut g s u := fun k hk => (b k hk).trans (a k hk)

theorem SameExchanges.but {s t : State} (a : SameExchanges s t) (g : Seg) : ExchangesBut g s t := fun k _ => a k

theorem Calm.exchanges {s t : State} (c : Calm d l s t) : SameExchanges s t :=
  fun k => by
    have e := congrArg Segment.exchange (c.seg k)
    exact e

theorem SameExchanges.modSeg (s : State) (g : Seg) (f : Segment → Segment)
    (h : ∀ q, (f q).exchange = q.exchange := by intro _; rfl) : SameExchanges s (s.modSeg g f) := fun k => by
  rw [State.seg_modSeg]
  split
  · rename_i e; rw [e, h]
  · rfl

theorem exchangesBut_modSeg (s : State) (g : Seg) (f : Segment → Segment) : ExchangesBut g s (s.modSeg g f) :=
  fun k hk => by rw [State.seg_modSeg, if_neg hk]

theorem SameExchanges.of_segs {s t : State} (h : t.segs = s.segs) : SameExchanges s t := fun k => by
  unfold State.seg
  rw [h]

theorem SameExchanges.copies {s t : State} (a : SameExchanges s t) (h : Copies s) : Copies t :=
  fun k => (h k).congr (a k)

theorem Copies.of_but {g : Seg} {s t : State} (h : Copies s) (a : ExchangesBut g s t) (own : (t.seg g).CopyOk) :
    Copies t := fun k => by
  by_cases hk : k = g
  · rw [hk]; exact own
  · exact (h k).congr (a k hk)

/-- Both halves of the law. -/
def Ledger (s : State) : Prop := Books s ∧ Copies s

theorem Ledger.same {s t : State} (h : Ledger s) (a : SameMoves s t) (b : SameExchanges s t) : Ledger t :=
  ⟨a.books h.1, b.copies h.2⟩

/-- A shared operation that ends no move. -/
theorem Ledger.inner {s t : State} (h : Ledger s) (a : Inner False s t) (c : Calm False l s t) : Ledger t :=
  h.same (a.sameMoves c) c.exchanges

theorem Ledger.modSeg {s : State} (h : Ledger s) (g : Seg) (f : Segment → Segment)
    (ho : ∀ q, (f q).outstanding = q.outstanding := by intro _; rfl)
    (he : ∀ q, (f q).exchange = q.exchange := by intro _; rfl) : Ledger (s.modSeg g f) :=
  h.same (.modSeg s g f ho) (.modSeg s g f he)

theorem Ledger.quiet {s t : State} (h : Ledger s) (wells : t.wells = s.wells) (segs : t.segs = s.segs) : Ledger t :=
  h.same (.quiet wells segs) (.of_segs segs)

theorem ledger_advanceTo (n : Nat) {s : State} (h : Ledger s) : Ledger (s.advanceTo n) := h.quiet rfl rfl

theorem ledger_modUnit (f : RoleUnit → RoleUnit) {s : State} (h : Ledger s) : Ledger (s.modUnit f) := h.quiet rfl rfl

theorem ledger_modBalancer (f : Balancer → Balancer) {s : State} (h : Ledger s) : Ledger (s.modBalancer f) := h.quiet rfl rfl

theorem ledger_offerUrgent (x : Uplink) {s : State} (h : Ledger s) : Ledger (offerUrgent x s) := h.quiet rfl rfl

theorem ledger_offerLine {s : State} (h : Ledger s) : Ledger (offerLine s) := h.quiet rfl rfl

theorem ledger_runEvals {s : State} (h : Ledger s) : Ledger (runEvals s) :=
  h.same (sameMoves_runEvals s) (calm_runEvals (d := False) (l := False) s).exchanges

/-! ## Turns and transmission -/

theorem seg_modSeg_self (s : State) (g : Seg) (f : Segment → Segment) : (s.modSeg g f).seg g = f (s.seg g) := by
  rw [State.seg_modSeg, if_pos rfl]

theorem seg_modSeg_of_ne (s : State) {g k : Seg} (f : Segment → Segment) (h : k ≠ g) : (s.modSeg g f).seg k = s.seg k := by
  rw [State.seg_modSeg, if_neg h]

/-- A segment where a transaction may begin has no copy. -/
theorem copy_none_of_canBegin {s : State} {g : Seg} (h : Copies s) (hc : s.canBegin g = true) :
    (s.seg g).sentCopy = none := by
  refine (h g).copy_none fun t ht => ?_
  unfold State.canBegin at hc
  simp [ht] at hc

theorem ledger_beginTxn (g : Seg) (k : TxnKind) (i : Option Slot) (a : Nat) (f : FieldFrame) (b : Bool) {s : State}
    (h : Ledger s) (hc : (s.seg g).sentCopy = none) : Ledger (beginTxn g k i a f b s) := by
  refine ⟨(SameMoves.modSeg s g _).books h.1, h.2.of_but (exchangesBut_modSeg s g _) (Segment.copyOk_of_none ?_)⟩
  unfold beginTxn
  rw [seg_modSeg_self]
  exact hc

theorem ledger_takeTurn (g : Seg) (want : Turn → Bool) {s : State} (h : Ledger s) : Ledger (takeTurn g want s) := by
  unfold takeTurn
  split
  · rename_i hb
    have hcan : s.canBegin g = true := (Bool.and_eq_true_iff.mp hb).1
    have hcalm := calm_chooseTurn (d := False) (l := False) g s
    have hx : Ledger (chooseTurn g s).1 := h.inner (inner_chooseTurn g s) hcalm
    have hcopy : ((chooseTurn g s).1.seg g).sentCopy = none :=
      (congrArg Prod.snd (hcalm.exchanges g)).trans (copy_none_of_canBegin h.2 hcan)
    simp only
    split
    · split
      · unfold beginPoll
        split
        · exact hx
        · exact (ledger_beginTxn g _ _ _ _ _ hx hcopy).modSeg g _
      · unfold beginSet
        split
        · exact hx
        · simp only
          have hbegin := fun i dst f => ledger_beginTxn g .set (some i) dst f true hx hcopy
          refine ⟨(SameMoves.modSeg _ g _).books (hbegin _ _ _).1, (hbegin _ _ _).2.of_but (exchangesBut_modSeg _ g _) ?_⟩
          rw [seg_modSeg_self]
          unfold beginTxn
          rw [seg_modSeg_self]
          intro c hc
          cases hc
          exact ⟨_, rfl, rfl, rfl⟩
      · exact hx
    · exact hx
  · exact h

theorem ledger_presenceExpiry (g : Seg) {s : State} (h : Ledger s) : Ledger (presenceExpiry g s) := by
  unfold presenceExpiry
  split
  · split
    · exact (ledger_advanceTo _ h).modSeg g _
    · exact h
  · exact h

theorem ledger_sendPresence (g : Seg) {s : State} (h : Ledger s) : Ledger (sendPresence g s) := by
  unfold sendPresence
  split
  · rename_i hb
    exact (ledger_beginTxn g _ _ _ _ _ h (copy_none_of_canBegin h.2 (Bool.and_eq_true_iff.mp hb).1)).modSeg g _
  · exact h

theorem ledger_frameSent (g : Seg) {s : State} (h : Ledger s) : Ledger (frameSent g s) := by
  unfold frameSent
  split
  · exact h
  · refine ⟨(SameMoves.modSeg s g _).books h.1, h.2.of_but (exchangesBut_modSeg s g _) ?_⟩
    rw [seg_modSeg_self]
    intro c hc
    obtain ⟨t, ht, hk, hs⟩ := h.2 g c hc
    exact ⟨{ t with window := some s.timeBase }, by simp [ht, Txn.transmitted, hk], hk, hs⟩

/-! ## Arbitration and the yield -/

theorem ledger_unbegin (g : Seg) {s : State} (h : Ledger s) : Ledger (unbegin g s) := by
  have cleared : ∀ {t : State}, SameMoves s t → ExchangesBut g s t → (t.seg g).sentCopy = none → Ledger t :=
    fun a b hc => ⟨a.books h.1, h.2.of_but b (Segment.copyOk_of_none hc)⟩
  unfold unbegin
  split
  · exact h.modSeg g _
  · rename_i t ht
    simp only
    have k := SameMoves.modSeg s g fun q =>
      { q with
        sending := none
        txn := none
        pointer := t.undo.pointer.getD q.pointer
        position := t.undo.position
        round := t.undo.round
        counters := uncount t.undo.counted q.counters }
    have e := exchangesBut_modSeg s g fun q =>
      { q with
        sending := none
        txn := none
        pointer := t.undo.pointer.getD q.pointer
        position := t.undo.position
        round := t.undo.round
        counters := uncount t.undo.counted q.counters }
    have none_of : t.kind ≠ .set → (s.seg g).sentCopy = none := fun hk =>
      (h.2 g).copy_none fun u hu => by
        rw [ht] at hu
        cases hu
        exact hk
    split
    · rename_i hk
      refine cleared (k.trans (.modSeg _ g _)) (e.trans (exchangesBut_modSeg _ g _)) ?_
      rw [seg_modSeg_self, seg_modSeg_self]
      exact none_of (by rw [hk]; decide)
    · refine cleared (k.trans ((SameMoves.modSeg _ g _).trans (.modSeg _ g _)))
        (e.trans ((exchangesBut_modSeg _ g _).trans (exchangesBut_modSeg _ g _))) ?_
      unfold clearCopy
      rw [seg_modSeg_self]
    · refine cleared (k.trans (.modSeg _ g _)) (e.trans (exchangesBut_modSeg _ g _)) ?_
      unfold clearCopy
      rw [seg_modSeg_self]
    · rename_i hk
      refine cleared k e ?_
      rw [seg_modSeg_self]
      exact none_of (by rw [hk]; decide)

theorem ledger_cutOff {s : State} (h : Ledger s) (g : Seg) : Ledger (cutOff s g) := by
  unfold cutOff
  simp only
  have k := h.modSeg g fun q => { q with presenceTimer := none, presenceDue := false }
  split
  · exact k
  · have k2 : Ledger ((s.modSeg g fun q => { q with presenceTimer := none, presenceDue := false }).modSeg g fun q =>
        { q with sending := none, txn := none, sentCopy := none }) := by
      refine ⟨(SameMoves.modSeg _ g _).books k.1, k.2.of_but (exchangesBut_modSeg _ g _) (Segment.copyOk_of_none ?_)⟩
      rw [seg_modSeg_self]
    split
    · exact k2
    · split
      · exact k2.inner (inner_setPending _ _ _) (calm_setPending (l := False) _ _ _)
      · split
        · exact k2.inner (inner_endBalancing _ _) (calm_endBalancing (l := False) _ _)
        · exact k2

theorem ledger_foldSegs {f : State → Seg → State} (hf : ∀ {s}, Ledger s → ∀ g, Ledger (f s g)) (segs : List Seg) {s : State}
    (h : Ledger s) : Ledger (segs.foldl f s) := by
  induction segs generalizing s with
  | nil => exact h
  | cons g rest ih => exact ih (hf h g)

theorem ledger_yieldTo (c : RoleCause) (g : Seg) {s : State} (h : Ledger s) : Ledger (yieldTo c g s) := by
  unfold yieldTo
  simp only
  refine ledger_offerUrgent _ ?_
  refine Ledger.inner ?_ (inner_raiseConflict _) (calm_raiseConflict (l := False) _)
  unfold yieldRole
  refine ledger_foldSegs (fun h g => h.inner (inner_emptyQueue _ g) (calm_emptyQueue (l := False) _ g)) _ ?_
  exact ledger_foldSegs ledger_cutOff _ (ledger_modUnit _ h)

theorem ledger_loseArbitration (g : Seg) (w : Nat) {s : State} (h : Ledger s) : Ledger (loseArbitration g w s) := by
  unfold loseArbitration
  simp only
  have k : Ledger (s.modCounters g fun c => { c with arbitrationLosses := counterInc c.arbitrationLosses }) := h.modSeg g _
  split
  · exact h
  · split
    · split
      · exact h
      · exact k
    · have k2 := ledger_unbegin g k
      split
      · exact ledger_runEvals (ledger_yieldTo _ _ k2)
      · exact k2

/-! ## Misses -/

theorem failedEcho_sameMoves (g : Seg) (c : SentCopy) (s : State) : SameMoves s (failedEcho g c s) := by
  unfold failedEcho
  simp only
  have k : SameMoves s (clearCopy g (s.modCounters g fun x => { x with echoFailures := counterInc x.echoFailures })) :=
    (SameMoves.modSeg s g _).trans (.modSeg _ g _)
  refine SameMoves.trans ?_ ((inner_refreshBudget g _).sameMoves (l := False) (calm_refreshBudget g _))
  refine k.trans ?_
  split
  · split
    · exact (inner_failedProt _ _ _).sameMoves (l := False) (calm_failedProt _ _ _)
    · exact (inner_setPending _ _ _).sameMoves (l := False) (calm_setPending _ _ _)
  · refine SameMoves.trans ((inner_endSentBalancing c _).sameMoves (l := False) (calm_endSentBalancing c _)) ?_
    split
    · exact (inner_failedOther _ _ _).sameMoves (l := False) (calm_failedOther _ _ _)
    · exact .refl _

/-- What follows the clearing of the copy in a failed echo is calm. -/
theorem failedEcho_exchanges (g : Seg) (c : SentCopy) (s : State) :
    SameExchanges (clearCopy g (s.modCounters g fun x => { x with echoFailures := counterInc x.echoFailures }))
      (failedEcho g c s) := by
  unfold failedEcho
  simp only
  refine SameExchanges.trans ?_ (calm_refreshBudget (d := False) (l := False) g _).exchanges
  split
  · split
    · exact (calm_failedProt (d := False) (l := False) _ _ _).exchanges
    · exact (calm_setPending (d := False) (l := False) _ _ _).exchanges
  · refine SameExchanges.trans (calm_endSentBalancing (d := False) (l := False) c _).exchanges ?_
    split
    · exact (calm_failedOther (d := False) (l := False) _ _ _).exchanges
    · exact fun _ => rfl

theorem failedEcho_copy (g : Seg) (c : SentCopy) (s : State) : ((failedEcho g c s).seg g).sentCopy = none := by
  have h := congrArg Prod.snd (failedEcho_exchanges g c s g)
  refine Eq.trans h ?_
  unfold Segment.exchange clearCopy
  rw [seg_modSeg_self]

theorem failedEcho_but (g : Seg) (c : SentCopy) (s : State) : ExchangesBut g s (failedEcho g c s) := by
  refine ExchangesBut.trans ?_ ((failedEcho_exchanges g c s).but g)
  exact (exchangesBut_modSeg s g _).trans (exchangesBut_modSeg _ g _)

theorem awaiting_txn {s : State} {g : Seg} {t : Txn} (h : s.awaiting g = some t) : (s.seg g).txn = some t :=
  (Option.filter_eq_some_iff.mp h).1

/-- A transaction that ends as a miss takes its copy with it (R134, R136). -/
theorem ledger_missTxn (g : Seg) {t : Txn} {s : State} (h : Ledger s) (ht : (s.seg g).txn = some t) :
    Ledger (missTxn g t s) := by
  unfold missTxn
  simp only
  have k0 : Books (countMiss g (endTxn g s)) := ((SameMoves.modSeg s g _).trans (.modSeg _ g _)).books h.1
  have e0 : ExchangesBut g s (countMiss g (endTxn g s)) := (exchangesBut_modSeg s g _).trans (exchangesBut_modSeg _ g _)
  have c0 : ((countMiss g (endTxn g s)).seg g).sentCopy = (s.seg g).sentCopy := by
    unfold countMiss endTxn State.modCounters
    rw [seg_modSeg_self, seg_modSeg_self]
  have key : ∀ u : State, Books u → ExchangesBut g s u → (u.seg g).sentCopy = (s.seg g).sentCopy →
      Ledger (match t.kind, (u.seg g).sentCopy with
        | .set, some c => failedEcho g c u
        | _, _ => u) := by
    intro u hb he hc
    split
    · exact ⟨(failedEcho_sameMoves g _ u).books hb,
        h.2.of_but (he.trans (failedEcho_but g _ u)) (Segment.copyOk_of_none (failedEcho_copy g _ u))⟩
    · rename_i hno
      refine ⟨hb, h.2.of_but he (Segment.copyOk_of_none ?_)⟩
      cases hcu : (u.seg g).sentCopy with
      | none => rfl
      | some c =>
        obtain ⟨t', ht', hk, -⟩ := h.2 g c (hc ▸ hcu)
        rw [ht] at ht'
        cases ht'
        exact absurd hcu (hno c hk)
  cases s.addressedWell g t with
  | none => exact key _ k0 e0 c0
  | some i =>
    have hm := (calm_missWell (l := False) i (countMiss g (endTxn g s))).exchanges
    exact key _ (books_missWell i k0) (e0.trans (hm.but g)) ((congrArg Prod.snd (hm g)).trans c0)

theorem ledger_missWell (i : Slot) {s : State} (h : Ledger s) : Ledger (missWell i s) :=
  ⟨books_missWell i h.1, (calm_missWell (l := False) i s).exchanges.copies h.2⟩

theorem ledger_missOverheard (g : Seg) (o : Overheard) {s : State} (h : Ledger s) : Ledger (missOverheard g o s) := by
  unfold missOverheard
  simp only
  have k : Ledger (countMiss g (closeOverheard g s)) := Ledger.modSeg (Ledger.modSeg h g _) g _
  split
  · exact ledger_missWell _ k
  · exact k

theorem ledger_lapseOverheard (g : Seg) (o : Overheard) {s : State} (h : Ledger s) : Ledger (lapseOverheard g o s) := by
  unfold lapseOverheard
  split
  · exact ledger_missOverheard g o h
  · exact h.modSeg g _

theorem ledger_endOpen (g : Seg) {finish : Seg → Overheard → State → State}
    (hf : ∀ o {s}, Ledger s → Ledger (finish g o s)) {s : State} (h : Ledger s) : Ledger (endOpen g finish s) := by
  unfold endOpen
  split
  · rename_i t ht
    exact ledger_missTxn g h (awaiting_txn ht)
  · split
    · exact hf _ h
    · exact h

theorem ledger_countForeign (g : Seg) {s : State} (h : Ledger s) : Ledger (countForeign g s) := h.modSeg g _

theorem ledger_receptionError (g : Seg) {s : State} (h : Ledger s) : Ledger (receptionError g s) :=
  ledger_endOpen g (ledger_missOverheard g) (h.modSeg g fun q => { q with counters := { q.counters with
    checkErrors := counterInc q.counters.checkErrors } })

theorem countForeign_txn (g : Seg) (s : State) : ((countForeign g s).seg g).txn = (s.seg g).txn := by
  unfold countForeign State.modCounters
  rw [seg_modSeg_self]

theorem ledger_hearOther (g : Seg) (f : FieldFrame) {s : State} (h : Ledger s) : Ledger (hearOther g f s) := by
  unfold hearOther
  simp only
  have k : Ledger (s.modUnit fun u => { u with lastOther := some (s.timeBase, g) }) := h.quiet rfl rfl
  split
  · split
    · exact ledger_yieldTo _ _ k
    · exact k.inner (inner_raiseConflict _) (calm_raiseConflict (l := False) _)
  · unfold openOverheard
    split
    · refine Ledger.modSeg ?_ g _
      exact ledger_modUnit _ k
    · exact ledger_modUnit _ k

theorem ledger_otherFrame (g : Seg) (f : FieldFrame) {s : State} (h : Ledger s) : Ledger (otherFrame g f s) := by
  unfold otherFrame
  simp only
  refine ledger_hearOther g f ?_
  split
  · rename_i t ht
    exact ledger_missTxn g (ledger_countForeign g h) ((countForeign_txn g s).trans (awaiting_txn ht))
  · split
    · exact ledger_lapseOverheard g _ h
    · exact h

/-! ## Good replies -/

theorem acceptSample_exchanges (i : Slot) (r : RawSample) (s : State) : SameExchanges s (acceptSample i r s) := by
  unfold acceptSample
  split
  · exact fun _ => rfl
  · simp only
    have k := fun q e => (((calm_storeSample (d := True) (l := False) i r s).trans (calm_judgeMove i _)).trans
      (calm_testSample i q e _)).trans (calm_trimSample i _)
    split
    · exact (k _ _).exchanges
    · exact (k _ _).exchanges

theorem creditSample_exchanges (g : Seg) (i : Slot) (p : List Byte) (s : State) : SameExchanges s (creditSample g i p s).1 := by
  unfold creditSample
  simp only
  split
  · exact SameExchanges.modSeg s g _
  · exact acceptSample_exchanges i _ s

theorem ledger_creditSample (g : Seg) (i : Slot) (p : List Byte) {s : State} (h : Ledger s) :
    Ledger (creditSample g i p s).1 := ⟨books_creditSample g i p h.1, (creditSample_exchanges g i p s).copies h.2⟩

/-- The transaction of a segment ends where no copy stands. -/
theorem ledger_endTxn (g : Seg) {s : State} (h : Ledger s) (hc : (s.seg g).sentCopy = none) : Ledger (endTxn g s) := by
  refine ⟨(SameMoves.modSeg s g _).books h.1, h.2.of_but (exchangesBut_modSeg s g _) (Segment.copyOk_of_none ?_)⟩
  unfold endTxn
  rw [seg_modSeg_self]
  exact hc

/-- The record of a slot in service, whatever shared operations follow. -/
theorem Keeps.inService {s t : State} (k : Keeps s t) {i : Slot} (h : ∀ w, s.well i = some w → w.cfg.inService = true) :
    ∀ w, t.well i = some w → w.cfg.inService = true := by
  intro v hv
  have e := k.cfg i
  rw [hv] at e
  cases hs : s.well i with
  | none => simp [hs] at e
  | some w =>
    rw [hs] at e
    rw [show v.cfg = w.cfg from Option.some.inj e]
    exact h w hs

theorem endMove_move (i : Slot) (r : Ending) (s : State) : ((endMove i r s).well i).bind (·.move) = none := by
  unfold endMove
  split
  · rename_i hw; rw [hw]; rfl
  · rename_i w hw
    split
    · exact (inner_testHead (d := False) _ _).move_none (releaseMove_move i r s)
    · rename_i hm
      rw [hw]
      simpa using hm

theorem SameMoves.move_none {s t : State} (a : SameMoves s t) {j : Slot} (h : (s.well j).bind (·.move) = none) :
    (t.well j).bind (·.move) = none := by
  have e := a.well j
  cases hs : s.well j <;> cases ht : t.well j <;> simp_all

/-- A good echo of a copy whose well is in service, its transaction ended (R164). -/
theorem books_goodEcho (g : Seg) (c : SentCopy) {s : State} (h : Books s)
    (hserv : ∀ w, s.well c.slot = some w → w.cfg.inService = true) : Books (goodEcho g c s) := by
  unfold goodEcho
  simp only
  have hend := books_endMove c.slot .superseded h
  have hecho := sameMoves_writeEcho c.slot c.target c.outlet (endMove c.slot .superseded s)
  have hopen : Books (openMove c (writeEcho c.slot c.target c.outlet (endMove c.slot .superseded s))) :=
    books_openMove c (hecho.books hend) (hecho.move_none (endMove_move _ _ _))
      (((inner_endMove c.slot .superseded s).keeps.trans (keeps_writeEcho _ _ _ _)).inService hserv)
  have hadvance := ((inner_advanceBalancing c _).sameMoves (l := False) (calm_advanceBalancing c _)).books hopen
  have hsettle := ((inner_settleEntry g c.slot _).sameMoves (l := False) (calm_settleEntry g c.slot _)).books hadvance
  exact ((inner_testHead g _).sameMoves (l := False) (calm_testHead g _)).books ((SameMoves.modSeg _ g _).books hsettle)

theorem openMove_exchanges (c : SentCopy) (s : State) : SameExchanges s (openMove c s) := by
  unfold openMove
  split
  · exact fun _ => rfl
  · exact SameExchanges.trans (calm_putWell (d := False) (l := False) _ _ _).exchanges (.modSeg _ _ _)

/-- After a good echo in either role the copy is gone, and no other segment's exchange has changed. -/
theorem takeEcho_exchanges (g : Seg) (c : SentCopy) (s : State) :
    ExchangesBut g s (takeEcho g c s) ∧ ((takeEcho g c s).seg g).sentCopy = none := by
  have hclear : ∀ u : State, ((clearCopy g u).seg g).sentCopy = none := fun u => by
    unfold clearCopy
    rw [seg_modSeg_self]
  unfold takeEcho
  simp only
  have h0 := (calm_goodReply (d := False) (l := False) c.slot s).exchanges
  split
  · unfold goodEcho
    simp only
    have h1 := h0.trans ((calm_endMove (l := False) c.slot .superseded (goodReply c.slot s)).exchanges.trans
      ((calm_writeEcho (d := False) (l := False) c.slot c.target c.outlet _).exchanges.trans ((openMove_exchanges c _).trans
        ((calm_advanceBalancing (d := False) (l := False) c _).exchanges.trans
          (calm_settleEntry (d := False) (l := False) g c.slot _).exchanges))))
    have h2 := (calm_testHead (d := False) (l := False) g (clearCopy g (settleEntry g c.slot (advanceBalancing c (openMove c
      (writeEcho c.slot c.target c.outlet (endMove c.slot .superseded (goodReply c.slot s)))))))).exchanges
    exact ⟨(h1.but g).trans ((exchangesBut_modSeg _ g _).trans (h2.but g)), (congrArg Prod.snd (h2 g)).trans (hclear _)⟩
  · have h1 := h0.trans ((calm_endMove (l := False) c.slot .superseded (goodReply c.slot s)).exchanges.trans
      ((calm_writeEcho (d := False) (l := False) c.slot c.target c.outlet _).exchanges.trans
        (calm_endSentBalancing (d := False) (l := False) c _).exchanges))
    exact ⟨(h1.but g).trans (exchangesBut_modSeg _ g _), hclear _⟩

theorem books_overheardEcho (i : Slot) (target : Nat) (outlet : Line) {s : State} (h : Books s) :
    Books (overheardEcho i target outlet s) := (sameMoves_writeEcho _ _ _ _).books (books_endMove _ _ h)

theorem overheardEcho_exchanges (i : Slot) (target : Nat) (outlet : Line) (s : State) :
    SameExchanges s (overheardEcho i target outlet s) :=
  (calm_endMove (l := False) i .superseded s).exchanges.trans
    (calm_writeEcho (d := False) (l := False) i target outlet _).exchanges

theorem ledger_takeEcho (g : Seg) (c : SentCopy) {s : State} (hb : Books s) (hc : Copies s)
    (hserv : ∀ w, s.well c.slot = some w → w.cfg.inService = true) : Ledger (takeEcho g c s) := by
  refine ⟨?_, hc.of_but (takeEcho_exchanges g c s).1 (Segment.copyOk_of_none (takeEcho_exchanges g c s).2)⟩
  unfold takeEcho
  simp only
  have k := (sameMoves_goodReply c.slot s).books hb
  split
  · exact books_goodEcho g c k ((keeps_goodReply c.slot s).inService hserv)
  · refine (SameMoves.modSeg _ g _).books ?_
    exact ((inner_endSentBalancing c _).sameMoves (l := False) (calm_endSentBalancing c _)).books
      (books_overheardEcho _ _ _ k)

theorem addressedWell_some {s : State} {g : Seg} {t : Txn} {i : Slot} (h : s.addressedWell g t = some i) :
    t.slot = some i ∧ ∃ w, s.well i = some w ∧ w.cfg.inService = true ∧ w.cfg.seg = g ∧ w.cfg.address = t.dest := by
  unfold State.addressedWell at h
  split at h
  · exact absurd h (by simp)
  · rename_i j hj
    split at h
    · rename_i w hw
      split at h
      · rename_i hc
        cases h
        simp only [Bool.and_eq_true, decide_eq_true_eq] at hc
        exact ⟨hj, w, hw, hc.1.1, hc.1.2, hc.2⟩
      · exact absurd h (by simp)
    · exact absurd h (by simp)

theorem ledger_judgePoll (g : Seg) {t : Txn} (f : FieldFrame) {s : State} (h : Ledger s) (ht : (s.seg g).txn = some t)
    (hk : t.kind ≠ .set) : Ledger (judgePoll g t f s) := by
  have hcopy : (s.seg g).sentCopy = none := (h.2 g).copy_none fun u hu => by
    rw [ht] at hu
    cases hu
    exact hk
  unfold judgePoll
  split
  · split
    · rename_i i hi
      simp only
      have he := creditSample_exchanges g i f.payload s
      have hl := ledger_creditSample g i f.payload h
      split
      · exact ledger_endTxn g hl ((congrArg Prod.snd (he g)).trans hcopy)
      · rename_i hx
        refine ledger_missTxn g hl ?_
        unfold creditSample at hx ⊢
        simp only at hx ⊢
        split at hx
        · rename_i hm
          rw [if_pos hm]
          unfold State.modCounters
          rw [seg_modSeg_self]
          exact ht
        · exact absurd rfl hx
    · exact ledger_missTxn g h ht
  · exact ledger_missTxn g h ht

theorem ledger_judgeSet (g : Seg) {t : Txn} (f : FieldFrame) {s : State} (h : Ledger s) (ht : (s.seg g).txn = some t) :
    Ledger (judgeSet g t f s) := by
  unfold judgeSet
  split
  · rename_i i c hi hc
    split
    · obtain ⟨hslot, w, hw, hserv, -⟩ := addressedWell_some hi
      obtain ⟨t', ht', -, hcs⟩ := h.2 g c hc
      rw [ht] at ht'
      cases ht'
      have hic : i = c.slot := Option.some.inj (hslot.symm.trans hcs)
      have hb : Books (endTxn g s) := (SameMoves.modSeg s g _).books h.1
      refine ⟨?_, h.2.of_but ((exchangesBut_modSeg s g _).trans (takeEcho_exchanges g c _).1)
        (Segment.copyOk_of_none (takeEcho_exchanges g c _).2)⟩
      unfold takeEcho
      simp only
      have hs : ∀ w', (endTxn g s).well c.slot = some w' → w'.cfg.inService = true := fun w' hw' => by
        rw [← hic] at hw'
        cases hw.symm.trans hw'
        exact hserv
      have k := (sameMoves_goodReply c.slot (endTxn g s)).books hb
      split
      · exact books_goodEcho g c k ((keeps_goodReply c.slot _).inService hs)
      · refine (SameMoves.modSeg _ g _).books ?_
        exact ((inner_endSentBalancing c _).sameMoves (l := False) (calm_endSentBalancing c _)).books
          (books_overheardEcho _ _ _ k)
    · exact ledger_missTxn g h ht
  · exact ledger_missTxn g h ht

theorem ledger_judgeReply (g : Seg) {t : Txn} (f : FieldFrame) {s : State} (h : Ledger s) (ht : (s.seg g).txn = some t) :
    Ledger (judgeReply g t f s) := by
  unfold judgeReply
  split
  · split
    · exact ledger_judgeSet g f h ht
    · rename_i hk; exact ledger_judgePoll g f h ht (by rw [hk]; decide)
    · rename_i hk; exact ledger_judgePoll g f h ht (by rw [hk]; decide)
  · exact ledger_missTxn g (ledger_countForeign g h) ((countForeign_txn g s).trans ht)

theorem ledger_closeOverheard (g : Seg) {s : State} (h : Ledger s) : Ledger (closeOverheard g s) := h.modSeg g _

theorem ledger_judgeUnserved (g : Seg) (o : Overheard) (p : Bool) {s : State} (h : Ledger s) :
    Ledger (judgeUnserved g o p s) := by
  unfold judgeUnserved
  split
  · exact ledger_closeOverheard g (ledger_countForeign g h)
  · exact ledger_missOverheard g o (ledger_countForeign g h)

theorem ledger_judgeOverheard (g : Seg) (o : Overheard) (f : FieldFrame) {s : State} (h : Ledger s) :
    Ledger (judgeOverheard g o f s) := by
  have poll : Ledger (judgeOverheardPoll g o f s) := by
    unfold judgeOverheardPoll
    split
    · split
      · simp only
        split
        · exact ledger_closeOverheard g (ledger_creditSample _ _ _ h)
        · exact ledger_missOverheard g o (ledger_creditSample _ _ _ h)
      · exact ledger_missOverheard g o h
    · exact ledger_judgeUnserved g o _ h
  unfold judgeOverheard
  split
  · split
    · unfold judgeOverheardSet
      simp only
      split
      · rename_i i n hi hn
        split
        · have k := ledger_closeOverheard g h
          refine ⟨books_overheardEcho _ _ _ ((sameMoves_goodReply _ _).books k.1),
            (overheardEcho_exchanges _ _ _ _).copies
              ((calm_goodReply (d := False) (l := False) _ _).exchanges.copies k.2)⟩
        · exact ledger_missOverheard g o h
      · exact ledger_missOverheard g o h
      · exact ledger_judgeUnserved g o _ h
    · exact poll
    · exact poll
  · exact ledger_missOverheard g o (ledger_countForeign g h)

theorem ledger_receiveFrame (g : Seg) (f : FieldFrame) {s : State} (h : Ledger s) : Ledger (receiveFrame g f s) := by
  unfold receiveFrame
  refine ledger_runEvals ?_
  split
  · exact ledger_receptionError g h
  · split
    · exact ledger_endOpen g (ledger_lapseOverheard g) (ledger_countForeign g h)
    · split
      · exact ledger_otherFrame g f h
      · unfold wellheadFrame
        split
        · rename_i t ht
          exact ledger_judgeReply g f h (awaiting_txn ht)
        · split
          · exact ledger_judgeOverheard g _ f h
          · exact ledger_countForeign g h

/-! ## Timers and pins -/

theorem ledger_takeover {s : State} (h : Ledger s) : Ledger (takeover s) := by
  have duty : Ledger (becomeDuty s) := by
    refine h.same ⟨fun _ => rfl, fun g => ?_⟩ fun g => ?_
    all_goals
      unfold becomeDuty State.seg
      simp only
      rw [PerSeg.get_map]
      rfl
  have released : Ledger (releaseMoves .abandoned s.moving (becomeDuty s)) :=
    ⟨books_releaseMoves _ _ duty.1, (calm_releaseMoves (l := False) _ _ _).exchanges.copies duty.2⟩
  unfold takeover
  simp only
  refine ledger_offerUrgent _ ?_
  refine Ledger.inner ?_ (inner_evalTaking _) (calm_evalTaking (l := False) _)
  refine Ledger.inner ?_ (inner_examineAll _) (calm_examineAll (l := False) _)
  refine Ledger.inner ?_ (inner_takeoverSets _ _) (calm_takeoverSets (l := False) _ _)
  refine Ledger.inner ?_ (inner_outletRuleAll _ _) (calm_outletRuleAll (l := False) _ _)
  split
  · exact released.inner (inner_diversion _) (calm_diversion (l := False) _)
  · exact released

theorem ledger_tripsChanged (b : Bool) {s : State} (h : Ledger s) : Ledger (tripsChanged b s) :=
  h.inner (inner_tripsChanged b s) ((calm_tripsChanged b s))

/-- Every event keeps the law. -/
theorem Event.ledger {c : Instr} {f : State → State} (hf : Event c f) {s : State} (h : Ledger s) : Ledger (f s) := by
  have running : ∀ {f : State → State}, (∀ {s}, Ledger s → Ledger (f s)) → Ledger (whileRunning f s) := by
    intro f hf
    unfold whileRunning
    split
    · exact h
    · exact hf h
  cases hf with
  | plantFrameReceived f =>
    refine running fun {s} h => ?_
    unfold receivePlant
    split
    · exact h
    · split <;> exact h
  | plantFrameAbandoned => exact running (f := countLinkError) fun h => h
  | uplinkFrameSent => exact running (f := uplinkSent) fun h => h
  | poll g => exact running (ledger_takeTurn g _)
  | set g => exact running (ledger_takeTurn g _)
  | presenceTimerExpiry g => exact running (ledger_presenceExpiry g)
  | presence g => exact running (ledger_sendPresence g)
  | frameTransmitted g => exact running (ledger_frameSent g)
  | arbitrationLoss g w => exact running (ledger_loseArbitration g w)
  | fieldFrameAbandoned g => exact running fun h => ledger_runEvals (ledger_receptionError g h)
  | replyTimeout g =>
    refine running fun {s} h => ?_
    unfold windowCloses
    split
    · rename_i t ht
      exact ledger_runEvals (ledger_missTxn g (ledger_advanceTo _ h) (awaiting_txn ht))
    · exact h
  | overheardTimeout g =>
    refine running fun {s} h => ?_
    unfold overheardExpiry
    split
    · exact ledger_runEvals (ledger_lapseOverheard g _ (ledger_advanceTo _ h))
    · exact h
  | silenceTakeover =>
    refine running fun {s} h => ?_
    unfold silenceExpiry
    split
    · exact ledger_runEvals (ledger_takeover (ledger_advanceTo _ h))
    · exact h
  | moveTimeout i =>
    refine running fun {s} h => ?_
    unfold moveExpiry
    split
    · rename_i m w _ _
      have k := ledger_advanceTo (m.start + (s.seg w.cfg.seg).settings.moveTimeout * 1000) h
      exact ⟨books_timeOutMove i k.1, (calm_timeOutMove (l := False) i _).exchanges.copies k.2⟩
    · exact h
  | tripFilterExpiry t =>
    refine running fun {s} h => ?_
    unfold filterExpiry
    split
    · exact h
    · exact ledger_tripsChanged _ (h.quiet rfl rfl)
  | tripInputChange t high =>
    unfold inputChange
    simp only
    split
    · exact h.quiet rfl rfl
    · split
      · exact h.quiet rfl rfl
      · exact ledger_tripsChanged _ (h.quiet rfl rfl)
  | reportTimer =>
    refine running fun {s} h => ?_
    unfold reportExpiry
    refine ledger_offerLine ?_
    refine Ledger.inner ?_ (inner_evaluateLine _ _) (calm_evaluateLine (l := False) _ _)
    refine Ledger.inner ?_ (inner_evaluateLine _ _) (calm_evaluateLine (l := False) _ _)
    exact ledger_modBalancer _ (ledger_advanceTo _ h)
  | demandTimeout =>
    refine running fun {s} h => ?_
    unfold demandExpiry
    split
    · exact ledger_modBalancer _ (ledger_advanceTo _ h)
    · exact h
  | _ => exact running (ledger_receiveFrame _ _)

/-! ## The rows of the plant computer -/

theorem setInFlight_eq_false {s : State} {i : Slot} (h : s.setInFlight i = false) {g : Seg} {t : Txn}
    (ht : (s.seg g).txn = some t) (hk : t.kind = .set) : t.slot ≠ some i := by
  unfold State.setInFlight at h
  rw [List.any_eq_false] at h
  have := h g (by cases g <;> decide)
  simpa [ht, hk] using this

/-- Forgetting a POLL of a slot with no SET in flight leaves the copies their transactions. -/
theorem ledger_forgetPoll (i : Slot) {s : State} (h : Ledger s) (hf : s.setInFlight i = false) : Ledger (forgetPoll i s) := by
  have hseg : ∀ g, (forgetPoll i s).seg g = { s.seg g with txn := (s.seg g).txn.map fun t =>
      (if t.slot = some i then { t with slot := none } else t) } := fun g => by
    unfold forgetPoll State.seg
    exact PerSeg.get_map _ _ g
  refine ⟨SameMoves.books (s := s) ⟨fun _ => rfl, fun g => by rw [hseg]⟩ h.1, fun g c hc => ?_⟩
  rw [hseg] at hc ⊢
  obtain ⟨t, ht, hk, hs⟩ := h.2 g c hc
  have hne := setInFlight_eq_false hf ht hk
  exact ⟨t, by simp [ht, hne], hk, hs⟩

/-- A record without a move is replaced by another without one, wherever it stands. -/
theorem Ledger.putWithout {s : State} (h : Ledger s) (i : Slot) (w : Option Well)
    (hold : (s.well i).bind (·.move) = none) (hnew : w.bind (·.move) = none) : Ledger (putWell s i w) := by
  refine ⟨⟨fun g => ?_, fun j v hv hj => ?_⟩, (calm_putWell (d := False) (l := False) s i w).exchanges.copies h.2⟩
  · rw [putWell_seg, h.1.1]
    refine Finset.sum_congr rfl fun j _ => ?_
    rw [putWell_well]
    split
    · rename_i e
      rw [e]
      have zero : ∀ o : Option Well, o.bind (·.move) = none → travelOn g o = 0 := by
        intro o ho
        cases o with
        | none => rfl
        | some v =>
          have : v.move = none := ho
          simp [travelOn, this]
      rw [zero _ hold, zero _ hnew]
    · rfl
  · rw [putWell_well] at hv
    split at hv
    · rw [hv] at hnew; exact hnew
    · exact h.1.2 j v hv hj

theorem ledger_removeEntry (g : Seg) (i : Slot) {s : State} (h : Ledger s) : Ledger (removeEntry g i s) :=
  h.inner (inner_removeEntry g i s) (calm_removeEntry (l := False) g i s)

theorem ledger_withdrawSlot (i : Slot) {s : State} (h : Ledger s) : Ledger (withdrawSlot i s) :=
  h.inner (inner_withdrawSlot i s) (calm_withdrawSlot (l := False) i s)

theorem busy_eq_false {s : State} {i : Slot} (h : s.busy i = false) :
    (s.well i).bind (·.move) = none ∧ s.setInFlight i = false := by
  unfold State.busy at h
  rw [Bool.or_eq_false_iff] at h
  exact ⟨by simpa using h.1, h.2⟩

theorem wellState_parked {w : Well} (h : w.cfg.inService = false) : wellState (some w) = .parked := by
  unfold wellState
  simp [h]

/-- A record out of service is no working one, and the other way round (R13). -/
theorem working_some (w : Well) : (wellState (some w)).working = w.cfg.inService := by
  cases hs : w.cfg.inService with
  | false => rw [wellState_parked hs]; rfl
  | true =>
    unfold wellState
    simp only [hs, Bool.not_true, Bool.false_eq_true, if_false]
    repeat' split
    all_goals rfl

theorem ledger_loadSlot (x : WellLoad) {s : State} (h : Ledger s) (hin : s.loadInUse x = false) : Ledger (loadSlot x s) := by
  unfold loadSlot
  split
  · rename_i hno
    refine h.putWithout x.slot _ ?_ rfl
    cases hw : s.well x.slot with
    | none => rfl
    | some w =>
      rw [hw] at hno
      have hserv : w.cfg.inService = false := by simpa [working_some] using hno
      exact h.1.2 _ w hw hserv
  · rename_i w hfilter
    obtain ⟨hw, hwork⟩ := Option.filter_eq_some_iff.mp hfilter
    unfold State.loadInUse at hin
    rw [hw] at hin
    simp only [hwork, Bool.true_and, Bool.or_eq_false_iff, Bool.not_eq_false', decide_eq_true_eq] at hin
    obtain ⟨⟨-, hseg⟩, hbusy⟩ := hin
    split
    · rename_i hserv
      have written : Ledger (putWell s x.slot (some { w with cfg := x.cfg })) := by
        refine ⟨h.1.put hw (v := { w with cfg := x.cfg }) (fun j => putWell_well _ _ _ _) hseg.symm ?_
          (fun g _ => by rw [putWell_seg]) fun e => absurd hserv (by simp only at e; simp [e]), 
          (calm_putWell (d := False) (l := False) s x.slot _).exchanges.copies h.2⟩
        rw [putWell_seg]
      unfold liveChange
      simp only
      split
      · exact written
      · refine Ledger.inner ?_ (inner_rangeChangeSet _ _) (calm_rangeChangeSet (l := False) _ _)
        refine Ledger.inner ?_ (inner_clampPending _ _ _) (calm_clampPending (l := False) _ _ _)
        exact written.inner (inner_clampEntry _ _ _) (calm_clampEntry (l := False) _ _ _)
    · rename_i hserv
      obtain ⟨hmove, hset⟩ := busy_eq_false (by simpa [hserv] using hbusy)
      exact ledger_withdrawSlot _ (ledger_runEvals (ledger_removeEntry _ _
        ((ledger_forgetPoll _ h hset).putWithout _ _ hmove rfl)))

theorem ledger_runLoadWell (f : PlantFrame) {s : State} (h : Ledger s) : Ledger (runLoadWell f s).state := by
  unfold runLoadWell
  split
  · exact h
  · split
    · exact h
    · split
      · exact h
      · split
        · exact h
        · rename_i hin
          exact ledger_loadSlot _ h (by simpa using hin)

theorem ledger_runVacate (f : PlantFrame) {s : State} (h : Ledger s) : Ledger (runVacate f s).state := by
  unfold runVacate
  split
  · exact h
  · split
    · exact h
    · split
      · exact h
      · rename_i hbusy
        obtain ⟨hmove, hset⟩ := busy_eq_false (by simpa using hbusy)
        exact ledger_withdrawSlot _ (ledger_removeEntry _ _ ((ledger_forgetPoll _ h hset).putWithout _ none hmove rfl))

theorem ledger_loadSegment (g : Seg) (x : SegSettings) {s : State} (h : Ledger s) : Ledger (loadSegment g x s) := by
  have written : Ledger (writeSegment g x s) := by
    refine h.modSeg g _ (fun _ => rfl) fun q => ?_
    unfold Segment.exchange
    cases q.txn <;> rfl
  unfold loadSegment
  simp only
  split
  · exact ⟨books_timeOutAged _ _ written.1, (calm_timeOutAged (l := False) _ _ _).exchanges.copies written.2⟩
  · exact written

theorem ledger_silenceAtLoad {s : State} (h : Ledger s) : Ledger (silenceAtLoad s) := by
  unfold silenceAtLoad
  split
  · split
    · exact ledger_takeover h
    · exact h
  · exact h

theorem ledger_loadSite (x : SiteSettings) {s : State} (h : Ledger s) : Ledger (loadSite x s) := by
  have k : Ledger (tripsChanged s.combination (siteWritten x s)) := ledger_tripsChanged _ (h.quiet rfl rfl)
  rw [loadSite_eq]
  split
  · exact k
  · exact ledger_silenceAtLoad k

theorem ledger_runMode (f : PlantFrame) {s : State} (h : Ledger s) : Ledger (runMode f s).state := by
  unfold runMode
  split
  · exact h
  · show Ledger (changeMode _ s)
    unfold changeMode
    split
    · refine Ledger.inner ?_ (inner_examineAll _) (calm_examineAll (l := False) _)
      refine Ledger.inner ?_ (inner_foldSegs _ inner_holdQueue _ _) (calm_foldSegs (l := False) _ calm_holdQueue _ _)
      exact h.quiet rfl rfl
    · exact h.quiet rfl rfl
    · exact h
    · exact h

theorem ledger_runForce (f : PlantFrame) {s : State} (h : Ledger s) : Ledger (runForce f s).state := by
  have key : ∀ i t o, Ledger (forceWell i t o s) := fun i t o => by
    unfold forceWell
    refine Ledger.inner ?_ (inner_arriveOther i t o .forced _ (by decide)) (calm_arriveOther (l := False) _ _ _ _ _)
    exact h.same (.modWell s i _) (calm_modWell (d := False) (l := False) _ _ _).exchanges
  unfold runForce
  repeat' split
  all_goals first
    | exact h
    | exact key _ _ _

theorem ledger_runRelease (f : PlantFrame) {s : State} (h : Ledger s) : Ledger (runRelease f s).state := by
  have key : ∀ i, Ledger (modWell s i fun w => { w with forced := false }) := fun i =>
    h.same (.modWell s i _) (calm_modWell (d := False) (l := False) _ _ _).exchanges
  unfold runRelease
  repeat' split
  all_goals first
    | exact h
    | exact key _

theorem ledger_clearTop (r : CondRec) {s : State} (h : Ledger s) : Ledger (clearTop r s) :=
  Ledger.inner ((h.quiet (t := s.modConds _) rfl rfl).inner (inner_removalEffects r _) (calm_removalEffects r _))
    (inner_evalTaking _) (calm_evalTaking (l := False) _)

theorem ledger_dismissRec (r : CondRec) {s : State} (h : Ledger s) : Ledger (dismissRec r s) :=
  Ledger.inner ((h.quiet (t := s.modConds _) rfl rfl).inner (inner_removalEffects r _) (calm_removalEffects r _))
    (inner_evalTaking _) (calm_evalTaking (l := False) _)

theorem ledger_runRead (f : PlantFrame) {s : State} (h : Ledger s) : Ledger (runRead f s).state := by
  unfold runRead
  split
  · exact h
  · rename_i x hx
    show Ledger (if _ then _ else _)
    split
    · unfold clearTarget
      split
      · unfold clearSegment
        refine h.modSeg _ _ (fun _ => rfl) fun q => ?_
        unfold Segment.exchange
        cases q.txn <;> rfl
      · exact h.quiet rfl rfl
      all_goals exact h
    · exact h

/-- A command's own rules keep the law. -/
theorem Row.ledger {c : Instr} {run : PlantFrame → State → Answer} (hr : Row c run) (f : PlantFrame) {s : State}
    (h : Ledger s) : Ledger (run f s).state := by
  cases hr with
  | loadWell => exact ledger_runLoadWell f h
  | loadWellVacate => exact ledger_runVacate f h
  | loadSegment =>
    unfold runLoadSegment
    split
    · exact h
    · exact ledger_loadSegment _ _ h
  | loadSite =>
    unfold runLoadSite
    split
    · exact h
    · exact ledger_loadSite _ h
  | unlock => unfold runUnlock; split <;> exact h
  | loadLimits =>
    unfold runLoadLimits
    split
    · split
      · exact h
      · exact ledger_tripsChanged _ (h.quiet (t := limitsWritten _ s) rfl rfl)
    · exact h.quiet rfl rfl
  | loadCondition =>
    unfold runLoadCondition
    split
    · exact h
    · show Ledger (Machine.loadCondition _ _ s)
      unfold Machine.loadCondition
      split
      · exact h
      · exact (h.quiet (t := s.modConds _) rfl rfl).inner (inner_evalTaking _) (calm_evalTaking (l := False) _)
  | demand =>
    unfold runDemand
    split
    · exact h
    · exact h.quiet rfl rfl
  | modeRun => exact ledger_runMode f h
  | modeHold => exact ledger_runMode f h
  | force => exact ledger_runForce f h
  | release => exact ledger_runRelease f h
  | clear =>
    unfold runClear
    repeat' split
    all_goals first
      | exact h
      | exact ledger_clearTop _ h
  | dismiss =>
    unfold runDismiss
    repeat' split
    all_goals first
      | exact h
      | exact ledger_dismissRec _ h
  | budgetReset =>
    unfold runBudgetReset
    split
    · exact h
    · exact ⟨books_budgetReset _ h.1, (calm_budgetReset (l := False) _ s).exchanges.copies h.2⟩
  | malformed => exact h
  | _ => exact ledger_runRead f h

theorem ledger_finishExecution (f : PlantFrame) {a : Answer} (h : Ledger a.state) : Ledger (finishExecution f a) :=
  (ledger_runEvals h).quiet rfl rfl

/-- A state whose slots are without moves and whose segments are without travel and copies. -/
theorem ledger_of_rest {s : State} (hw : ∀ i w, s.well i = some w → w.move = none)
    (hs : ∀ g, (s.seg g).outstanding = 0 ∧ (s.seg g).sentCopy = none) : Ledger s := by
  refine ⟨⟨fun g => ?_, fun i w h _ => hw i w h⟩, fun g => Segment.copyOk_of_none (hs g).2⟩
  rw [(hs g).1]
  refine (Finset.sum_eq_zero fun i _ => ?_).symm
  cases h : s.well i with
  | none => rfl
  | some w => simp [travelOn, hw i w h]

theorem ledger_restarted (s : State) : Ledger (restarted s) := by
  refine ledger_of_rest (fun i w hw => ?_) fun g => ?_
  · rw [restarted_well] at hw
    obtain ⟨v, -, rfl⟩ := Option.map_eq_some_iff.mp hw
    rfl
  · have e : (restarted s).seg g = (s.seg g).restarted := PerSeg.get_map _ _ g
    rw [e]
    exact ⟨rfl, rfl⟩

theorem ledger_executeRestart {s : State} (h : Ledger s) : Ledger (executeRestart s) := by
  unfold executeRestart
  split
  · rename_i f _
    have k : Ledger (finishExecution f (accept (restarted (beginExecution s)))) := ledger_finishExecution f (ledger_restarted _)
    exact ledger_runEvals (ledger_tripsChanged _ (k.quiet (t := followOff _) rfl rfl))
  · exact h

/-- Settles O53: the two halves of the law go through every event and every row. -/
theorem outstandingTravelIsTheSumOfTheMoves : Obligations.OutstandingTravelIsTheSumOfTheMoves := by
  unfold Obligations.OutstandingTravelIsTheSumOfTheMoves
  refine ⟨reset_travelLaw, fun s t hs h => ?_⟩
  rw [travelLaw_iff] at hs ⊢
  refine step_keeps (P := Ledger) (fun _ _ h => h) (fun _ _ h => h) (fun held strap s _ => ?_) (fun _ _ _ hf h => hf.ledger h)
    (fun c run s hr h => ?_) (fun s h => ledger_executeRestart h) hs h
  · have k : Ledger State.reset := (travelLaw_iff _).mp reset_travelLaw
    exact k.quiet (t := powerOn held strap s) rfl rfl
  · unfold executeFrame
    split
    · rename_i f _
      exact ledger_finishExecution f (hr.ledger f (s := beginExecution s) (h.quiet rfl rfl))
    · exact h

end Sys2Proof.Machine
end

section
/-! The rows of the plant computer on a frame that stands ready, and the commands whose rules are short: reception (R189, R190),
UNLOCK (R193), DEMAND (R83), the transmitter (R206). -/

set_option Elab.async false

namespace Sys2Proof.Machine

/-! ## Executing a ready frame -/

/-- A row executes the ready frame it takes. -/
theorem Row.exec_ready {c : Instr} {run : PlantFrame → State → Answer} (hr : Row c run) {s : State} {f : PlantFrame}
    {rest : List PlantFrame} (h : Ready s f rest) (ht : takes c f = true) :
    exec c s = .next (finishExecution f (run f (beginExecution s))) := by
  rw [hr.exec_eq, whileRunning_free _ h.1, executeFrame_ready _ run h ht]

/-- A row whose rules leave the state as the beginning of the execution of `u` has it leaves `u` with the RESPONSE (R192). -/
theorem Row.exec_answer {c : Instr} {run : PlantFrame → State → Answer} (hr : Row c run) {s u : State} {f : PlantFrame}
    {rest : List PlantFrame} (h : Ready s f rest) (ht : takes c f = true) (hu : Ready u f rest) {o : RespOutcome}
    {d : Option ReadData} (he : run f (beginExecution s) = ⟨beginExecution u, o, d⟩)
    (ho : o ≠ .accepted ∨ f.isKind 4 = false) : exec c s = .next (u.answer f rest o d) := by
  rw [hr.exec_ready h ht, he, finishExecution_answer hu ho]

/-- A refused command leaves the state with its RESPONSE alone. -/
theorem Row.exec_refuse {c : Instr} {run : PlantFrame → State → Answer} (hr : Row c run) {s : State} {f : PlantFrame}
    {rest : List PlantFrame} (h : Ready s f rest) (ht : takes c f = true) {o : RespOutcome}
    (he : run f (beginExecution s) = refuse o (beginExecution s)) (ho : o ≠ .accepted) :
    exec c s = .next (s.answer f rest o none) :=
  hr.exec_answer h ht h he (.inl ho)

/-- A frame is of one kind. -/
theorem PlantFrame.isKind_eq_false {f : PlantFrame} {m : Nat} (h : f.isKind m = true) {n : Nat} (hn : m ≠ n) :
    f.isKind n = false := by
  unfold PlantFrame.isKind at *
  simp only [Bool.and_eq_true, beq_iff_eq] at h
  simp [h.2, hn]

/-! ## Operands -/

theorem within_eq_some {lo hi x : Nat} (hlo : lo ≤ x) (hhi : x ≤ hi) : within lo hi x = some x := if_pos ⟨hlo, hhi⟩

theorem within_eq_none {lo hi x : Nat} (h : x < lo ∨ hi < x) : within lo hi x = none := if_neg (by omega)

theorem slotOfCode_val (i : Slot) : slotOfCode i.val = some i := by
  unfold slotOfCode slotOfSource
  rw [dif_pos i.isLt]

theorem slotOfCode_eq_none {n : Nat} (h : 95 < n) : slotOfCode n = none := by
  unfold slotOfCode slotOfSource
  rw [dif_neg (by omega)]

theorem lineOfCode_lineCode (l : Line) : lineOfCode (lineCode l) = some l := by cases l <;> rfl

theorem lineOfCode_eq_none {n : Nat} (h1 : n ≠ 1) (h2 : n ≠ 2) : lineOfCode n = none := by
  unfold lineOfCode
  split <;> simp_all

theorem segOfCode_segCode (g : Seg) : segOfCode (segCode g) = some g := by cases g <;> rfl

theorem segOfCode_eq_none {n : Nat} (h : n = 0 ∨ 4 < n) : segOfCode n = none := by
  unfold segOfCode
  split <;> first | omega | rfl

/-! ## The statements -/

/-- Settles O5: reception by the length and the check of the frame and the fill of the buffer. -/
theorem plantFramesAreBuffered : Obligations.PlantFramesAreBuffered := by
  unfold Obligations.PlantFramesAreBuffered
  intro s f h
  have run (g : PlantFrame) : exec (.plantFrameReceived g) s = .next (receivePlant g s) :=
    congrArg _ (whileRunning_free _ h)
  refine ⟨fun hl hc hb => ?joins, fun hl hc hb => ?overrun, fun hbad => ?error, congrArg _ (whileRunning_free _ h)⟩
  case joins =>
    have hgood : ¬ (decide (Config.maxPlantPayload < f.payload.length) || !f.checkGood) = true := by
      rw [hc, Bool.not_true, Bool.or_false, decide_eq_true_eq]
      exact Nat.not_lt.mpr hl
    rw [run, receivePlant, if_neg hgood]
    exact congrArg _ (if_pos hb)
  case overrun =>
    have hgood : ¬ (decide (Config.maxPlantPayload < f.payload.length) || !f.checkGood) = true := by
      rw [hc, Bool.not_true, Bool.or_false, decide_eq_true_eq]
      exact Nat.not_lt.mpr hl
    rw [run, receivePlant, if_neg hgood]
    exact congrArg _ (if_neg (Nat.not_lt.mpr hb))
  case error =>
    have hfails : (decide (Config.maxPlantPayload < f.payload.length) || !f.checkGood) = true := by
      rw [Bool.or_eq_true, decide_eq_true_eq, Bool.not_eq_true']
      exact hbad
    rw [run, receivePlant, if_pos hfails]
    rfl

/-- Settles O7: the unlock state is set where the execution ends (R193). -/
theorem unlockNamesGroupOne : Obligations.UnlockNamesGroupOne := by
  unfold Obligations.UnlockNamesGroupOne
  refine fun s f rest h hk => ⟨fun h1 => ?_, fun h1 => Row.unlock.exec_refuse h hk (if_neg h1) (by decide)⟩
  rw [Row.unlock.exec_ready h hk, show runUnlock f (beginExecution s) = accept (beginExecution s) from if_pos h1, accept,
    finishExecution_plain h, hk]
  rfl

theorem parseDemand_eq_none {p : List Byte} (h : 60000 < wordAt p 0 ∨ 8 < byteAt p 2) : parseDemand p = none := by
  unfold parseDemand
  rcases h with h | h
  · rw [within_eq_none (.inr h)]; rfl
  · rw [within_eq_none (x := byteAt p 2) (.inr h)]
    cases within 0 60000 (wordAt p 0) <;> rfl

theorem parseDemand_eq_some {p : List Byte} (hf : wordAt p 0 ≤ 60000) (he : byteAt p 2 ≤ 8) :
    parseDemand p = some (wordAt p 0, byteAt p 2) := by
  unfold parseDemand
  rw [within_eq_some (Nat.zero_le _) hf, within_eq_some (Nat.zero_le _) he]
  rfl

/-- Settles O18. -/
theorem demandReplacesTheHeldDemand : Obligations.DemandReplacesTheHeldDemand := by
  unfold Obligations.DemandReplacesTheHeldDemand
  refine fun s f rest h hk => ⟨fun hbad => ?_, fun hf he => ?_⟩
  · exact Row.demand.exec_refuse h hk (by unfold runDemand; rw [parseDemand_eq_none hbad]) (by decide)
  · exact Row.demand.exec_answer (u := { s with balancer := { s.balancer with
      demand := some (wordAt f.payload 0, byteAt f.payload 2), demandArrival := some s.timeBase } }) h hk h
      (by unfold runDemand; rw [parseDemand_eq_some hf he]; rfl) (.inr (PlantFrame.isKind_eq_false hk (by decide)))

/-- Settles O25: the freed transmitter is pumped (R206). -/
theorem transmitterTakesUrgentFramesFirst : Obligations.TransmitterTakesUrgentFramesFirst := by
  unfold Obligations.TransmitterTakesUrgentFramesFirst
  intro s h
  have run : exec .uplinkFrameSent s = .next (uplinkSent s) := congrArg _ (whileRunning_free _ h)
  refine ⟨fun u r hu => ?_, fun u r hu hr => ?_, fun hu hr => ?_⟩
  · rw [run]; simp [uplinkSent, State.modLink, Link.pump, hu]
  · rw [run]; simp [uplinkSent, State.modLink, Link.pump, hu, hr]
  · rw [run]; simp [uplinkSent, State.modLink, Link.pump, hu, hr]

/-- Settles O28: the end of a transmission by the kind of its transaction (R133, R137). -/
theorem transmissionOpensTheReplyWindow : Obligations.TransmissionOpensTheReplyWindow := by
  unfold Obligations.TransmissionOpensTheReplyWindow
  intro s g f t h hs ht after
  have run : exec (.frameTransmitted g) s = .next (frameSent g s) := congrArg _ (whileRunning_free _ h)
  rw [run]
  have ha : frameSent g s = { s with segs := s.segs.put g after } := by
    unfold frameSent
    rw [hs]
    unfold State.modSeg
    refine congrArg (fun q => { s with segs := s.segs.put g q }) ?_
    have hq : s.segs.get g = s.seg g := rfl
    have hd : s.isDuty = decide (s.unit.role = .duty) := rfl
    simp only [hq, ht, after]
    cases hk : t.kind <;> simp [Txn.transmitted, hk, hd]
  rw [ha]

end Sys2Proof.Machine
end

section
/-! FORCE and RELEASE (R28, R29), CLEAR and DISMISS (R117, R119): their checks in order, and what an accepted FORCE or RELEASE
writes. -/

set_option Elab.async false

namespace Sys2Proof.Machine

/-! ## The states of a slot -/

/-- A slot is VACANT or PARKED where it has no record or one out of service (R13). -/
theorem stateOf_idle {s : State} {i : Slot} (h : s.stateOf i = .vacant ∨ s.stateOf i = .parked) :
    s.well i = none ∨ ∃ w, s.well i = some w ∧ w.cfg.inService = false := by
  cases hw : s.well i with
  | none => exact .inl rfl
  | some w =>
    refine .inr ⟨w, rfl, ?_⟩
    rw [← working_some, ← hw]
    show (s.stateOf i).working = false
    rcases h with h | h
    · rw [h]; rfl
    · rw [h]; rfl

/-- Records alike in service, sample, answering and outlet stand on one roster. -/
theorem rosterLine_congr {v w : Well} (hs : v.cfg.inService = w.cfg.inService) (hl : v.last.isSome = w.last.isSome)
    (ha : v.answering = w.answering) (ho : v.outlet = w.outlet) : rosterLine (some v) = rosterLine (some w) := by
  rw [rosterLine_some, rosterLine_some, hs, hl, ha, ho]

/-- A record that keeps its slot's roster line is written without an evaluation asked for (R19). -/
theorem putWell_of_line {s : State} {i : Slot} {w : Option Well} (h : rosterLine (s.well i) = rosterLine w) :
    putWell s i w =
      { s with
        wells := s.wells.set i.val w i.isLt
        rosters := ⟨placeRoster (s.wells.set i.val w i.isLt) i .engine s.rosters.engine,
          placeRoster (s.wells.set i.val w i.isLt) i .flare s.rosters.flare⟩ } := if_pos h

theorem modWell_some {s : State} {i : Slot} {w : Well} (h : s.well i = some w) (f : Well → Well) :
    modWell s i f = putWell s i (some (f w)) := by
  unfold modWell
  rw [h]

/-! ## FORCE -/

theorem parseForce_eq_none {p : List Byte}
    (h : 95 < byteAt p 0 ∨ (byteAt p 3 ≠ 1 ∧ byteAt p 3 ≠ 2) ∨ 1000 < wordAt p 1) : parseForce p = none := by
  unfold parseForce
  rcases h with h | h | h
  · rw [slotOfCode_eq_none h]; rfl
  · rw [lineOfCode_eq_none h.1 h.2]
    cases slotOfCode (byteAt p 0) <;> cases within 0 1000 (wordAt p 1) <;> rfl
  · rw [within_eq_none (x := wordAt p 1) (.inr h)]
    cases slotOfCode (byteAt p 0) <;> rfl

theorem parseForce_eq_some {p : List Byte} {i : Slot} {o : Line} (hi : byteAt p 0 = i.val) (ho : byteAt p 3 = lineCode o)
    (ht : wordAt p 1 ≤ 1000) : parseForce p = some (i, wordAt p 1, o) := by
  unfold parseForce
  rw [hi, ho, slotOfCode_val, within_eq_some (Nat.zero_le _) ht, lineOfCode_lineCode]
  rfl

/-- The checks of FORCE past its operands, on the record found (R28). -/
theorem runForce_some {f : PlantFrame} {s : State} {i : Slot} {o : Line} {w : Well} (hduty : s.unit.role = .duty)
    (hp : parseForce f.payload = some (i, wordAt f.payload 1, o)) (hw : s.well i = some w) (hs : w.cfg.inService = true) :
    runForce f s =
      if wordAt f.payload 1 < w.cfg.pmin ∨ w.cfg.pmax < wordAt f.payload 1 then refuse .range s
      else if !w.cfg.permitted.allows o then refuse .notPermitted s
      else if !s.isOpen o then refuse .closed s
      else if wellState (some w) = .shut then refuse .shut s
      else if s.forceCollides i w then refuse .collision s
      else accept (forceWell i (wordAt f.payload 1) o s) := by
  unfold runForce
  simp only [show s.isDuty = true from decide_eq_true hduty, hp, hw, hs, Bool.not_true, Bool.false_eq_true, if_false]

/-- Settles O15: the checks one by one. -/
theorem forceRefusesInOrder : Obligations.ForceRefusesInOrder := by
  unfold Obligations.ForceRefusesInOrder
  intro s f rest h hk
  have refused {o : RespOutcome} (he : runForce f (beginExecution s) = refuse o (beginExecution s)) (ho : o ≠ .accepted) :
      exec .force s = .next (s.answer f rest o none) := Row.force.exec_refuse h hk he ho
  refine ⟨fun hr => refused ?_ (by decide), fun hr => ⟨fun hbad => refused ?_ (by decide), fun i o hi ho ht =>
    ⟨fun hidle => refused ?_ (by decide), fun w hw hs => ?_⟩⟩⟩
  · have hd : (beginExecution s).isDuty = false := decide_eq_false (by show s.unit.role ≠ _; rw [hr]; decide)
    unfold runForce
    simp [hd]
  · have hd : (beginExecution s).isDuty = true := decide_eq_true hr
    unfold runForce
    simp [hd, parseForce_eq_none hbad]
  · have hd : (beginExecution s).isDuty = true := decide_eq_true hr
    unfold runForce
    rcases stateOf_idle hidle with hn | ⟨w, hw, hs⟩
    · simp [hd, parseForce_eq_some hi ho ht, show (beginExecution s).well i = none from hn]
    · simp [hd, parseForce_eq_some hi ho ht, show (beginExecution s).well i = some w from hw, hs]
  · have hrun := runForce_some (s := beginExecution s) hr (parseForce_eq_some hi ho ht) hw hs
    refine ⟨fun hrange => refused (hrun.trans (if_pos hrange)) (by decide), fun hlo hhi => ?_⟩
    rw [if_neg (by omega)] at hrun
    refine ⟨fun hperm => refused (hrun.trans (by rw [hperm]; rfl)) (by decide), fun hperm hopen => refused (hrun.trans ?_) (by decide),
      fun hperm hopen hshut => refused (hrun.trans ?_) (by decide), fun hperm hopen hshut hcol => refused (hrun.trans ?_) (by decide)⟩
    all_goals rw [hperm, show (beginExecution s).isOpen o = s.isOpen o from rfl, hopen]
    · rfl
    · have hsh : wellState (some w) = .shut := hw ▸ hshut
      simp [hsh]
    · have hsh : wellState (some w) ≠ .shut := fun e => hshut (by unfold State.stateOf; rw [hw, e])
      have hc : (beginExecution s).forceCollides i w = true := by
        show s.forceCollides i w = true
        unfold State.forceCollides
        rcases hcol with hm | hm | hm | hm <;> simp [hm]
      simp [hsh, hc]

/-! ## What FORCE and RELEASE write -/

/-- The forced flag written on a record changes the record and its place on the rosters alone: the roster line is the same. -/
theorem putForced_eq {s : State} {i : Slot} {w : Well} (hw : s.well i = some w) (b : Bool) :
    putWell s i (some { w with forced := b }) =
      { s with wells := (putWell s i (some { w with forced := b })).wells
               rosters := (putWell s i (some { w with forced := b })).rosters } := by
  rw [putWell_of_line (hw ▸ rosterLine_congr (v := w) (w := { w with forced := b }) rfl rfl rfl rfl)]

theorem entryOf_of_well {s : State} {i : Slot} {w : Well} (hw : s.well i = some w) :
    s.entryOf i = (s.seg w.cfg.seg).entryOf i := by
  unfold State.entryOf
  rw [hw]
  rfl

/-- A SET that finds no entry of its well and room in the queue joins the end of the queue (R155). -/
theorem arriveOther_joins {s : State} {i : Slot} {w : Well} {n : Nat} {o : Line} {c : Cls} (hw : s.well i = some w)
    (he : (s.seg w.cfg.seg).entryOf i = none) (hroom : (s.seg w.cfg.seg).queue.length < 16) :
    arriveOther i n o c s = s.modSeg w.cfg.seg fun q => { q with queue := q.queue ++ [⟨i, n, o, c, false⟩] } := by
  unfold arriveOther
  simp only [hw, he]
  exact if_pos hroom

/-- Settles O16: FORCE writes the flag and appends its entry, RELEASE writes the flag. -/
theorem forceAndReleaseSetTheForcedFlag : Obligations.ForceAndReleaseSetTheForcedFlag := by
  unfold Obligations.ForceAndReleaseSetTheForcedFlag
  refine ⟨fun s f rest i o w h hk hr hi ho hw hs hlo hhi hmax hperm hopen hshut hmove hset hentry hpend hroom => ?force,
    fun s f rest h hk => ⟨fun hbad => ?range, fun i hi => ⟨fun hidle => ?idle, fun w hw hs => ⟨fun hf => ?nothing, fun hf => ?release⟩⟩⟩⟩
  case force =>
    have hsh : wellState (some w) ≠ .shut := fun e => hshut (by unfold State.stateOf; rw [hw, e])
    have hcol : (beginExecution s).forceCollides i w = false := by
      show s.forceCollides i w = false
      unfold State.forceCollides State.protEntryOf
      simp [hmove, hset, hentry, hpend]
    have hrun := runForce_some (s := beginExecution s) hr (parseForce_eq_some hi ho (hhi.trans hmax)) hw hs
    rw [if_neg (by omega), hperm, show (beginExecution s).isOpen o = s.isOpen o from rfl, hopen, if_neg hsh, hcol] at hrun
    let p := putWell (beginExecution s) i (some { w with forced := true })
    let e : Entry := ⟨i, wordAt f.payload 1, o, .forced, false⟩
    let u : State := { s with
      wells := p.wells
      rosters := p.rosters
      segs := s.segs.put w.cfg.seg { s.seg w.cfg.seg with queue := (s.seg w.cfg.seg).queue ++ [e] } }
    have hp : p.well i = some { w with forced := true } := by rw [putWell_well, if_pos rfl]
    have hseg : ∀ g, p.seg g = s.seg g := fun g => putWell_seg _ _ _ g
    have hforce : forceWell i (wordAt f.payload 1) o (beginExecution s) = beginExecution u := by
      unfold forceWell
      rw [modWell_some (s := beginExecution s) hw]
      rw [arriveOther_joins (s := p) hp (by rw [hseg, ← entryOf_of_well hw]; exact hentry) (by rw [hseg]; exact hroom)]
      rw [show p = _ from putForced_eq (s := beginExecution s) hw true]
      rfl
    refine ⟨_, Row.force.exec_answer (u := u) h hk h (hrun.trans (congrArg accept hforce))
      (.inr (PlantFrame.isKind_eq_false hk (by decide))), rfl, hp, fun j hj => ?_, PerSeg.get_put_same _ _ _, fun g hg => ?_⟩
    · exact (putWell_well _ _ _ _).trans (if_neg hj)
    · exact (PerSeg.get_put _ _ _ _).trans (if_neg hg)
  case range =>
    refine Row.release.exec_refuse h hk ?_ (by decide)
    unfold runRelease
    rw [slotOfCode_eq_none hbad]
  case idle =>
    refine Row.release.exec_refuse h hk ?_ (by decide)
    unfold runRelease
    rw [hi, slotOfCode_val]
    rcases stateOf_idle hidle with hn | ⟨w, hw, hs⟩
    · simp [show (beginExecution s).well i = none from hn]
    · simp [show (beginExecution s).well i = some w from hw, hs]
  case nothing =>
    refine Row.release.exec_refuse h hk ?_ (by decide)
    unfold runRelease
    rw [hi, slotOfCode_val]
    simp [show (beginExecution s).well i = some w from hw, hs, hf]
  case release =>
    let p := putWell (beginExecution s) i (some { w with forced := false })
    let u : State := { s with wells := p.wells, rosters := p.rosters }
    have hrun : runRelease f (beginExecution s) = accept (beginExecution u) := by
      unfold runRelease
      rw [hi, slotOfCode_val]
      simp only [show (beginExecution s).well i = some w from hw, hs, hf, Bool.not_true, Bool.false_eq_true, if_false]
      rw [modWell_some (s := beginExecution s) hw]
      exact congrArg accept (putForced_eq (s := beginExecution s) hw false)
    refine ⟨_, Row.release.exec_answer (u := u) h hk h hrun (.inr (PlantFrame.isKind_eq_false hk (by decide))), rfl,
      (putWell_well _ _ _ _).trans (if_pos rfl), fun j hj => (putWell_well _ _ _ _).trans (if_neg hj)⟩

/-! ## CLEAR and DISMISS -/

/-- A record is of the pair where kind and source are its. -/
theorem isPair_iff_and (r : CondRec) (k : CondKind) (src : Nat) :
    r.isPair k src = true ↔ r.kind = k ∧ r.source = src := by
  unfold CondRec.isPair
  rw [Bool.and_eq_true, decide_eq_true_eq, decide_eq_true_eq]

/-- The pairs still active (R98, R101, R117). -/
theorem stillActive_of {s : State} {k : CondKind} (h : (k = .engineLineLost ∧ s.combination = true) ∨
    (k = .noOutlet ∧ s.balancer.lineLost = true ∧ s.balancer.flareFault = true)) : s.stillActive k = true := by
  rcases h with ⟨rfl, h⟩ | ⟨rfl, hl, hf⟩
  · exact h
  · simp [State.stillActive, State.isOpen, hl, hf]

/-- Settles O20: the checks one by one. -/
theorem clearAndDismissRefuseInOrder : Obligations.ClearAndDismissRefuseInOrder := by
  unfold Obligations.ClearAndDismissRefuseInOrder
  refine ⟨fun s f rest h hk => ?clear, fun s f rest h hk => ?dismiss⟩
  case clear =>
    have refused {o : RespOutcome} (he : runClear f (beginExecution s) = refuse o (beginExecution s)) (ho : o ≠ .accepted) :
        exec .clear s = .next (s.answer f rest o none) := Row.clear.exec_refuse h hk he ho
    refine ⟨fun hp => refused (by unfold runClear; rw [hp]) (by decide), fun k src hp => ⟨fun hempty => refused ?_ (by decide),
      fun r below hstack => ⟨fun hne => refused ?_ (by decide), fun hkind hsrc hactive => refused ?_ (by decide)⟩⟩⟩
    · unfold runClear
      simp [hp, show (beginExecution s).conds.stack = [] from hempty]
    · have hpair : r.isPair k src = false := by
        rw [Bool.eq_false_iff]; exact fun e => hne ((isPair_iff_and r k src).mp e)
      unfold runClear
      simp [hp, show (beginExecution s).conds.stack = r :: below from hstack, hpair]
    · have hpair : r.isPair k src = true := (isPair_iff_and r k src).mpr ⟨hkind, hsrc⟩
      have hstill : (beginExecution s).stillActive k = true := stillActive_of hactive
      unfold runClear
      simp [hp, show (beginExecution s).conds.stack = r :: below from hstack, hpair, hstill]
  case dismiss =>
    have refused {o : RespOutcome} (he : runDismiss f (beginExecution s) = refuse o (beginExecution s)) (ho : o ≠ .accepted) :
        exec .dismiss s = .next (s.answer f rest o none) := Row.dismiss.exec_refuse h hk he ho
    refine ⟨fun hp => refused (by unfold runDismiss; rw [hp]) (by decide), fun k src hp =>
      ⟨fun hno => refused ?_ (by decide), fun hsome hactive => refused ?_ (by decide)⟩⟩
    · have hfind : (beginExecution s).conds.waiting.find? (·.isPair k src) = none :=
        List.find?_eq_none.mpr fun r hr e => hno r hr ((isPair_iff_and r k src).mp e)
      unfold runDismiss
      simp [hp, hfind]
    · obtain ⟨r, hr, hpair⟩ := hsome
      have hfind : ((beginExecution s).conds.waiting.find? (·.isPair k src)).isSome = true :=
        List.find?_isSome.mpr ⟨r, hr, (isPair_iff_and r k src).mpr hpair⟩
      obtain ⟨x, hx⟩ := Option.isSome_iff_exists.mp hfind
      have hstill : (beginExecution s).stillActive k = true := stillActive_of hactive
      unfold runDismiss
      simp [hp, hx, hstill]

end Sys2Proof.Machine
end

section
/-! Reception (R129): what a frame is judged as, and the misses (R139): a stray frame, the close of a window, a failed check, a foreign
reply, the timeout of an overheard exchange. -/

set_option Elab.async false

namespace Sys2Proof.Machine

/-! ## A segment written, and the time base -/

@[simp] theorem PerSeg.put_put {α : Type} (p : PerSeg α) (g : Seg) (x y : α) : (p.put g x).put g y = p.put g y := by
  cases g <;> rfl

theorem PerSeg.put_get {α : Type} (p : PerSeg α) (g : Seg) : p.put g (p.get g) = p := by cases g <;> rfl

/-- Segment `g` written as `q`. -/
def State.setSeg (s : State) (g : Seg) (q : Segment) : State := { s with segs := s.segs.put g q }

theorem State.modSeg_eq (s : State) (g : Seg) (f : Segment → Segment) : s.modSeg g f = s.setSeg g (f (s.seg g)) := rfl

@[simp] theorem State.seg_setSeg_self (s : State) (g : Seg) (q : Segment) : (s.setSeg g q).seg g = q :=
  PerSeg.get_put_same _ _ _

theorem State.seg_setSeg (s : State) (g k : Seg) (q : Segment) : (s.setSeg g q).seg k = if k = g then q else s.seg k :=
  PerSeg.get_put _ _ _ _

@[simp] theorem State.setSeg_setSeg (s : State) (g : Seg) (q r : Segment) : (s.setSeg g q).setSeg g r = s.setSeg g r := by
  unfold State.setSeg
  simp only [PerSeg.put_put]

/-- A state is itself with a segment written as it stands. -/
@[simp] theorem State.setSeg_self (s : State) (g : Seg) : s.setSeg g (s.seg g) = s := by
  unfold State.setSeg
  rw [show s.segs.put g (s.seg g) = s.segs from PerSeg.put_get _ _]

@[simp] theorem State.well_setSeg (s : State) (g : Seg) (q : Segment) (i : Slot) : (s.setSeg g q).well i = s.well i := rfl

/-- The expiry of a timer brings the time base to its due time (assumption 4). -/
theorem State.advanceTo_eq (s : State) (t : Nat) : s.advanceTo t = { s with timeBase := max s.timeBase t } := by
  unfold State.advanceTo
  refine congrArg (fun x => ({ s with timeBase := x } : State)) ?_
  split <;> omega

/-! ## What a frame is judged as (R129) -/

theorem Event.exec_free {c : Instr} {f : State → State} (hf : Event c (whileRunning f)) {s : State} (h : s.held = false) :
    exec c s = .next (f s) := by
  rw [hf.exec_eq, whileRunning_free f h]

theorem FieldFrame.complete_iff (f : FieldFrame) :
    f.complete = true ↔ (decide (Config.maxFieldPayload < f.payload.length) || !f.checkGood) = false := by
  unfold FieldFrame.complete FieldFrame.fits
  rw [Bool.and_eq_true, Bool.or_eq_false_iff, decide_eq_true_eq, decide_eq_false_iff_not, Bool.not_eq_false', Nat.not_lt]

theorem receiveFrame_bad {g : Seg} {f : FieldFrame} (h : f.checkGood = false) (s : State) :
    receiveFrame g f s = runEvals (receptionError g s) := by
  unfold receiveFrame
  rw [h]
  simp

theorem receiveFrame_own {g : Seg} {f : FieldFrame} {s : State} (h : f.complete = true) (hs : f.source = s.ownAddress) :
    receiveFrame g f s = runEvals (ownFrame g s) := by
  unfold receiveFrame
  rw [(FieldFrame.complete_iff f).mp h]
  simp [hs]

theorem otherAddress_ne (s : State) : s.otherAddress ≠ s.ownAddress := by
  unfold State.otherAddress State.ownAddress
  cases s.unit.strapHigh <;> decide

theorem receiveFrame_other {g : Seg} {f : FieldFrame} {s : State} (h : FromOther s f) :
    receiveFrame g f s = runEvals (otherFrame g f s) := by
  obtain ⟨hcomplete, hs⟩ := h
  unfold receiveFrame
  rw [(FieldFrame.complete_iff f).mp hcomplete]
  simp [hs, otherAddress_ne s]

/-- A wellhead's source is no controller address. -/
theorem FieldFrame.fromWellhead_source {f : FieldFrame} (h : f.fromWellhead = true) (s : State) :
    f.source ≠ s.ownAddress ∧ f.source ≠ s.otherAddress := by
  unfold FieldFrame.fromWellhead FieldFrame.fromController at h
  simp only [Bool.and_eq_true, Bool.not_eq_true', Bool.or_eq_false_iff, beq_eq_false_iff_ne] at h
  unfold State.ownAddress State.otherAddress
  cases s.unit.strapHigh
  · exact h.2
  · exact h.2.symm

theorem FieldFrame.fromWellhead_complete {f : FieldFrame} (h : f.fromWellhead = true) : f.complete = true := by
  unfold FieldFrame.fromWellhead at h
  exact (Bool.and_eq_true_iff.mp h).1

theorem receiveFrame_wellhead {g : Seg} {f : FieldFrame} (h : f.fromWellhead = true) (s : State) :
    receiveFrame g f s = runEvals (wellheadFrame g f s) := by
  obtain ⟨hown, hother⟩ := FieldFrame.fromWellhead_source h s
  unfold receiveFrame
  rw [(FieldFrame.complete_iff f).mp (FieldFrame.fromWellhead_complete h)]
  simp [hown, hother]

theorem awaiting_eq_none {s : State} {g : Seg} (h : (s.seg g).txn = none) : s.awaiting g = none := by
  unfold State.awaiting
  rw [h]
  rfl

theorem awaiting_eq_some {s : State} {g : Seg} {x : Txn} (h : (s.seg g).txn = some x) (hw : x.window.isSome = true) :
    s.awaiting g = some x := by
  unfold State.awaiting
  rw [h]
  exact Option.filter_some_pos hw

/-! ## No exchange is open -/

/-- Settles O38: with nothing open, a frame is counted and no more. -/
theorem strayFramesChangeOneCounter : Obligations.StrayFramesChangeOneCounter := by
  unfold Obligations.StrayFramesChangeOneCounter
  intro s g hheld hset hq q oneForeign oneError foreign errors
  obtain ⟨htxn, -, hover⟩ := hq
  have hopen : ∀ f : SegCounters → SegCounters, ∀ finish, endOpen g finish (s.modCounters g f) = s.modCounters g f := by
    intro f finish
    have ht : ((s.modCounters g f).seg g).txn = none := by unfold State.modCounters; rw [seg_modSeg_self]; exact htxn
    have ho : ((s.modCounters g f).seg g).overheard = none := by unfold State.modCounters; rw [seg_modSeg_self]; exact hover
    unfold endOpen
    rw [awaiting_eq_none ht, ho]
  refine ⟨fun f hf => ?_, fun f hc hown => ?_, fun f hbad => ?_, ?_⟩
  · rw [(Event.strayFrame g f).exec_free hheld, receiveFrame_wellhead hf]
    unfold wellheadFrame
    rw [awaiting_eq_none htxn, hover]
    exact congrArg _ (runEvals_settled (s := countForeign g s) hset)
  · rw [(Event.ownAddressFrame g f).exec_free hheld, receiveFrame_own hc hown]
    unfold ownFrame
    unfold countForeign
    rw [hopen]
    exact congrArg _ (runEvals_settled (s := countForeign g s) hset)
  · rw [(Event.fieldCheckFailure g f).exec_free hheld, receiveFrame_bad hbad]
    unfold receptionError
    rw [hopen]
    exact congrArg _ (runEvals_settled (s := s.modCounters g _) hset)
  · rw [(Event.fieldFrameAbandoned g).exec_free (f := fun s => runEvals (receptionError g s)) hheld]
    unfold receptionError
    rw [hopen]
    exact congrArg _ (runEvals_settled (s := s.modCounters g _) hset)

/-- Settles O30: the silence timer restarts, and the frame opens an overheard exchange by its kind (R146, R176). -/
theorem standbyHearsTheOtherController : Obligations.StandbyHearsTheOtherController := by
  unfold Obligations.StandbyHearsTheOtherController
  intro s g f hheld hrole hset hf hq heard q counted poll set
  obtain ⟨htxn, -, hover⟩ := hq
  have hduty : s.isDuty = false := decide_eq_false (by rw [hrole]; decide)
  have run : exec (.otherControllerFrame g f) s = .next (runEvals (openOverheard g f heard)) := by
    rw [(Event.otherControllerFrame g f).exec_free hheld, receiveFrame_other hf]
    unfold otherFrame hearOther
    rw [awaiting_eq_none htxn, hover]
    simp only [show (s.modUnit fun u => { u with lastOther := some (s.timeBase, g) }).isDuty = false from hduty,
      Bool.false_eq_true, if_false]
    rfl
  have hkind : f.isPoll = true → f.isSet = false := fun hp => by
    unfold FieldFrame.isPoll at hp
    unfold FieldFrame.isSet
    simp only [Bool.and_eq_true, beq_iff_eq] at hp
    simp [hp.1]
  refine ⟨fun hp hs => ?_, fun hp => ?_, fun hs => ?_⟩
  · rw [run]
    unfold openOverheard
    rw [hp, hs]
    exact congrArg _ (runEvals_settled (s := heard) hset)
  · have he : openOverheard g f heard =
        { heard with segs := s.segs.put g { q with overheard := some poll, counters := counted } } := by
      unfold openOverheard
      rw [hp, hkind hp]
      rfl
    rw [run, he]
    exact congrArg _ (runEvals_settled hset)
  · have he : openOverheard g f heard =
        { heard with segs := s.segs.put g { q with overheard := some set, counters := counted } } := by
      unfold openOverheard
      rw [hs, Bool.or_true]
      rfl
    rw [run, he]
    exact congrArg _ (runEvals_settled hset)

/-! ## One miss (R139) -/

/-- A further miss of a well it does not make silent writes the miss count alone. -/
theorem missWell_below {s : State} {i : Slot} {w : Well} (hw : s.well i = some w) (hb : BelowMissLimit s w) :
    missWell i s = putWell s i (some { w with missCount := satInc Config.countCap w.missCount }) := by
  unfold missWell
  simp only [hw]
  rw [putWell_seg]
  refine if_neg ?_
  rw [Bool.and_eq_true, decide_eq_true_eq]
  rintro ⟨ha, hl⟩
  rcases hb with hb | hb
  · rw [hb] at ha; exact absurd ha (by decide)
  · omega

/-- One miss more of slot `i`, segment `g` being written as `q` meanwhile, by an event that leaves no evaluation. -/
theorem oneMiss_missWell {s : State} {g : Seg} {q : Segment} {i : Slot} {w : Well} (hw : s.well i = some w)
    (hb : BelowMissLimit (s.setSeg g q) w) (hset : Settled s) :
    OneMiss s (runEvals (missWell i (s.setSeg g q))) g q i w := by
  have hline : rosterLine ((s.setSeg g q).well i) = rosterLine (some { w with missCount := satInc Config.countCap w.missCount }) :=
    (congrArg rosterLine hw).trans (rosterLine_congr (v := w) rfl rfl rfl rfl)
  have e := (missWell_below (s := s.setSeg g q) hw hb).trans (putWell_of_line hline)
  have hwell := fun j => putWell_well (s.setSeg g q) i j (some { w with missCount := satInc Config.countCap w.missCount })
  rw [putWell_of_line hline] at hwell
  have hs : Settled (missWell i (s.setSeg g q)) := by rw [e]; exact hset
  rw [runEvals_settled hs, e]
  exact ⟨rfl, (hwell i).trans (if_pos rfl), fun j hj => (hwell j).trans (if_neg hj)⟩

/-- The miss limit is a setting: it stands when the segment is written with its settings. -/
theorem BelowMissLimit.setSeg {s : State} {w : Well} (h : BelowMissLimit s w) (g : Seg) {q : Segment}
    (hq : q.settings = (s.seg g).settings) : BelowMissLimit (s.setSeg g q) w := by
  refine h.imp_right fun h => ?_
  rw [State.seg_setSeg]
  split
  · rename_i hg; rw [hq, ← hg]; exact h
  · exact h

/-- A POLL that ends as a miss charges its addressed well (R134). -/
theorem missTxn_poll {s : State} {g : Seg} {t : Txn} {i : Slot} (hk : t.kind = .poll) (hi : s.addressedWell g t = some i) :
    missTxn g t s = missWell i (s.setSeg g
      { s.seg g with
        txn := none
        counters := { (s.seg g).counters with misses := satInc 65535 (s.seg g).counters.misses } }) := by
  unfold missTxn
  simp only [hi, hk]
  unfold countMiss endTxn State.modCounters
  simp only [State.modSeg_eq, State.setSeg_setSeg, State.seg_setSeg_self]
  rfl

/-- One without an addressed well charges the segment alone (R54, R134). -/
theorem missTxn_poll_none {s : State} {g : Seg} {t : Txn} (hk : t.kind = .poll) (hi : s.addressedWell g t = none) :
    missTxn g t s = s.setSeg g
      { s.seg g with
        txn := none
        counters := { (s.seg g).counters with misses := satInc 65535 (s.seg g).counters.misses } } := by
  unfold missTxn
  simp only [hi, hk]
  unfold countMiss endTxn State.modCounters
  simp only [State.modSeg_eq, State.setSeg_setSeg, State.seg_setSeg_self]
  rfl

/-- A transaction that awaits a loaded well's reply is addressed to it. -/
theorem Awaits.addressed {s : State} {g : Seg} {t : Txn} {i : Slot} {w : Well} (h : Awaits s g t i w) :
    s.addressedWell g t = some i := by
  obtain ⟨-, -, hslot, hw, hserv, hseg, haddr⟩ := h
  unfold State.addressedWell
  simp [hslot, hw, hserv, hseg, haddr]

theorem Awaits.awaiting {s : State} {g : Seg} {t : Txn} {i : Slot} {w : Well} (h : Awaits s g t i w) :
    s.awaiting g = some t := awaiting_eq_some h.1 h.2.1

/-- The transaction awaited stays where the segment is written with its transaction. -/
theorem awaiting_setSeg {s : State} {g : Seg} {q : Segment} (hq : q.txn = (s.seg g).txn) :
    (s.setSeg g q).awaiting g = s.awaiting g := by
  unfold State.awaiting
  rw [State.seg_setSeg_self, hq]

theorem addressedWell_setSeg (s : State) (g k : Seg) (q : Segment) (t : Txn) :
    (s.setSeg g q).addressedWell k t = s.addressedWell k t := rfl

theorem endOpen_awaiting {s : State} {g : Seg} {t : Txn} (h : s.awaiting g = some t)
    (finish : Seg → Overheard → State → State) : endOpen g finish s = missTxn g t s := by
  unfold endOpen
  rw [h]

/-- Segment `g` with one check error more. -/
def Segment.withError (q : Segment) : Segment :=
  { q with counters := { q.counters with checkErrors := satInc 65535 q.counters.checkErrors } }

/-- Segment `g` with one foreign reply more. -/
def Segment.withForeign (q : Segment) : Segment :=
  { q with counters := { q.counters with foreignReplies := satInc 65535 q.counters.foreignReplies } }

theorem receptionError_eq (g : Seg) (s : State) :
    receptionError g s = endOpen g missOverheard (s.setSeg g (s.seg g).withError) := rfl

/-- A reception error while a transaction awaits its reply (R129, R134). -/
theorem receptionError_awaiting {s : State} {g : Seg} {t : Txn} (h : s.awaiting g = some t) :
    receptionError g s = missTxn g t (s.setSeg g (s.seg g).withError) := by
  rw [receptionError_eq]
  exact endOpen_awaiting ((awaiting_setSeg (q := (s.seg g).withError) rfl).trans h) _

theorem countForeign_eq (g : Seg) (s : State) : countForeign g s = s.setSeg g (s.seg g).withForeign := rfl

/-- Every way a POLL ends as a miss of its addressed well: the segment's counters and transaction, and one miss. -/
theorem oneMiss_poll {s : State} {g : Seg} {x : Txn} {i : Slot} {w : Well} (q : Segment) (hw : s.well i = some w)
    (hi : s.addressedWell g x = some i) (hset : Settled s) (hb : BelowMissLimit s w) (hk : x.kind = .poll)
    (hq : q.settings = (s.seg g).settings) :
    OneMiss s (runEvals (missTxn g x (s.setSeg g q))) g
      { q with txn := none, counters := { q.counters with misses := satInc 65535 q.counters.misses } } i w := by
  rw [missTxn_poll hk (by rw [addressedWell_setSeg]; exact hi), State.seg_setSeg_self, State.setSeg_setSeg]
  exact oneMiss_missWell hw (hb.setSeg g hq) hset

end Sys2Proof.Machine
end

section
/-! The ways an exchange ends as a miss (R33, R54, R129, R133 to R135, R145 to R150). -/

set_option Elab.async false

namespace Sys2Proof.Machine

/-! ## What follows a frame of the other controller leaves the exchange ended -/

/-- What the role's answer to a frame of the other controller leaves: an ended transaction, the counters of misses and foreign
replies, who was heard, and every record but for what the shared operations write. -/
structure Unheard (s t : State) : Prop where
  txn : ∀ k, (s.seg k).txn = none → (t.seg k).txn = none
  misses : ∀ k, (t.seg k).counters.misses = (s.seg k).counters.misses
  foreign : ∀ k, (t.seg k).counters.foreignReplies = (s.seg k).counters.foreignReplies
  lastOther : t.unit.lastOther = s.unit.lastOther
  key : ∀ j, (t.well j).map Well.key = (s.well j).map Well.key

theorem Unheard.refl (s : State) : Unheard s s := ⟨fun _ h => h, fun _ => rfl, fun _ => rfl, rfl, fun _ => rfl⟩

theorem Unheard.trans {s t u : State} (a : Unheard s t) (b : Unheard t u) : Unheard s u :=
  ⟨fun k h => b.txn k (a.txn k h), fun k => (b.misses k).trans (a.misses k), fun k => (b.foreign k).trans (a.foreign k),
    b.lastOther.trans a.lastOther, fun j => (b.key j).trans (a.key j)⟩

theorem Calm.txn {d l : Prop} {s t : State} (c : Calm d l s t) (k : Seg) : (t.seg k).txn = (s.seg k).txn := by
  have e := congrArg Segment.txn (c.seg k)
  exact e

theorem Calm.misses {d l : Prop} {s t : State} (c : Calm d l s t) (k : Seg) :
    (t.seg k).counters.misses = (s.seg k).counters.misses := by
  have e := congrArg (fun q : Segment => q.counters.misses) (c.seg k)
  exact e

theorem Calm.foreign {d l : Prop} {s t : State} (c : Calm d l s t) (k : Seg) :
    (t.seg k).counters.foreignReplies = (s.seg k).counters.foreignReplies := by
  have e := congrArg (fun q : Segment => q.counters.foreignReplies) (c.seg k)
  exact e

theorem Calm.unheard {d l : Prop} {s t : State} (c : Calm d l s t) (unit : t.unit = s.unit)
    (key : ∀ j, (t.well j).map Well.key = (s.well j).map Well.key) : Unheard s t :=
  ⟨fun k h => (c.txn k).trans h, c.misses, c.foreign, congrArg RoleUnit.lastOther unit, key⟩

theorem Inner.unheard {d e l : Prop} {s t : State} (a : Inner d s t) (c : Calm e l s t) : Unheard s t := c.unheard a.unit a.key

theorem Unheard.modSeg (s : State) (g : Seg) (f : Segment → Segment)
    (ht : ∀ q, q.txn = none → (f q).txn = none) (hm : ∀ q, (f q).counters.misses = q.counters.misses)
    (hf : ∀ q, (f q).counters.foreignReplies = q.counters.foreignReplies) : Unheard s (s.modSeg g f) where
  txn := fun k h => by
    rw [State.seg_modSeg]
    split
    · rename_i e; exact ht _ (e ▸ h)
    · exact h
  misses := fun k => by
    rw [State.seg_modSeg]
    split
    · rename_i e; rw [hm, e]
    · rfl
  foreign := fun k => by
    rw [State.seg_modSeg]
    split
    · rename_i e; rw [hf, e]
    · rfl
  lastOther := rfl
  key := fun _ => rfl

theorem unheard_cutOff (s : State) (g : Seg) : Unheard s (cutOff s g) := by
  unfold cutOff
  simp only
  have a := Unheard.modSeg s g (fun q => { q with presenceTimer := none, presenceDue := false }) (fun _ h => h) (fun _ => rfl)
    fun _ => rfl
  split
  · exact a
  · have b := a.trans (Unheard.modSeg _ g (fun q => { q with sending := none, txn := none, sentCopy := none }) (fun _ _ => rfl)
      (fun _ => rfl) fun _ => rfl)
    split
    · exact b
    · split
      · exact b.trans ((inner_setPending (d := False) _ _ _).unheard (calm_setPending (d := False) (l := False) _ _ _))
      · split
        · exact b.trans ((inner_endBalancing (d := False) _ _).unheard (calm_endBalancing (d := False) (l := False) _ _))
        · exact b

theorem unheard_foldSegs {f : State → Seg → State} (hf : ∀ s g, Unheard s (f s g)) (segs : List Seg) (s : State) :
    Unheard s (segs.foldl f s) := by
  induction segs generalizing s with
  | nil => exact .refl s
  | cons g rest ih => exact (hf s g).trans (ih _)

theorem unheard_raiseConflict (s : State) : Unheard s (raiseConflict s) :=
  (inner_raiseConflict (d := False) s).unheard (calm_raiseConflict (d := False) (l := False) s)

theorem unheard_yieldTo (c : RoleCause) (g : Seg) (s : State) : Unheard s (yieldTo c g s) := by
  have hstandby : Unheard s (s.modUnit fun u => { u with role := .standby, silenceStart := some s.timeBase }) :=
    ⟨fun _ h => h, fun _ => rfl, fun _ => rfl, rfl, fun _ => rfl⟩
  have hempty := unheard_foldSegs (f := emptyQueue) (fun s g =>
    (inner_emptyQueue (d := False) s g).unheard (calm_emptyQueue (d := False) (l := False) s g)) Seg.all
  have hyield : Unheard s (yieldRole s) := (hstandby.trans (unheard_foldSegs unheard_cutOff _ _)).trans (hempty _)
  have hraise := hyield.trans (unheard_raiseConflict _)
  have hoffer : ∀ (x : Uplink) (u : State), Unheard u (offerUrgent x u) := fun _ _ =>
    ⟨fun _ h => h, fun _ => rfl, fun _ => rfl, rfl, fun _ => rfl⟩
  exact hraise.trans (hoffer _ _)

theorem unheard_openOverheard (g : Seg) (f : FieldFrame) (s : State) : Unheard s (openOverheard g f s) := by
  unfold openOverheard
  split
  · exact Unheard.modSeg s g _ (fun _ h => h) (fun _ => rfl) fun _ => rfl
  · exact .refl s

/-- The role's answer to a frame of the other controller (R176, R183). -/
theorem unheard_hearOther (g : Seg) (f : FieldFrame) (s : State) :
    Unheard (s.modUnit fun u => { u with lastOther := some (s.timeBase, g) }) (hearOther g f s) := by
  unfold hearOther
  simp only
  split
  · split
    · exact unheard_yieldTo _ _ _
    · exact unheard_raiseConflict _
  · refine Unheard.trans ?_ (unheard_openOverheard _ _ _)
    exact ⟨fun _ h => h, fun _ => rfl, fun _ => rfl, rfl, fun _ => rfl⟩

/-- The evaluations of an event are shared operations on the state with none asked for. -/
theorem inner_runEvals {d : Prop} (s : State) : Inner d { s with evalAsked := .all false } (runEvals s) := by
  have hflare : ∀ (b : Bool) (u : State), Inner d u (if b then evaluateLine .flare u else u) := fun b u => by
    split
    · exact inner_evaluateLine _ _
    · exact .refl _
  unfold runEvals
  simp only
  refine Inner.trans ?_ (hflare _ _)
  split
  · exact inner_evaluateLine _ _
  · exact .refl _

theorem unheard_runEvals (s : State) : Unheard s (runEvals s) :=
  (calm_runEvals (d := False) (l := False) s).unheard (inner_runEvals (d := False) s).unit (inner_runEvals (d := False) s).key

/-! ## The statements -/

/-- A transaction whose slot holds no well it was begun for has no addressed well (R54, R134). -/
theorem addressedWell_eq_none {s : State} {g : Seg} {x : Txn} (h : ∀ (i : Slot) (w : Well), x.slot = some i → s.well i = some w →
    ¬ (w.cfg.inService = true ∧ w.cfg.seg = g ∧ w.cfg.address = x.dest)) : s.addressedWell g x = none := by
  cases he : s.addressedWell g x with
  | none => rfl
  | some i =>
    obtain ⟨hslot, w, hw, hrest⟩ := addressedWell_some he
    exact absurd hrest (h i w hslot hw)

theorem windowCloses_awaiting {s : State} {g : Seg} {x : Txn} {opened : Nat} (h : s.awaiting g = some x)
    (ho : x.window = some opened) :
    windowCloses g s = runEvals (missTxn g x { s with timeBase := max s.timeBase (opened + x.timeout) }) := by
  unfold windowCloses
  rw [h]
  simp only [ho, Option.getD_some, State.advanceTo_eq]

theorem wellheadFrame_awaiting {s : State} {g : Seg} {x : Txn} (h : s.awaiting g = some x) (f : FieldFrame) :
    wellheadFrame g f s = judgeReply g x f s := by
  unfold wellheadFrame
  rw [h]

/-- A reply of another source or destination is foreign (R134). -/
theorem judgeReply_foreign {g : Seg} {x : Txn} {f : FieldFrame} {s : State}
    (h : f.source ≠ x.dest ∨ f.destination ≠ s.ownAddress) : judgeReply g x f s = missTxn g x (countForeign g s) := by
  unfold judgeReply
  refine if_neg ?_
  rw [Bool.and_eq_true, decide_eq_true_eq, decide_eq_true_eq]
  rintro ⟨h1, h2⟩
  exact h.elim (· h1) (· h2)

theorem judgeReply_poll {g : Seg} {x : Txn} {f : FieldFrame} {s : State} (hk : x.kind = .poll) (hs : f.source = x.dest)
    (hd : f.destination = s.ownAddress) : judgeReply g x f s = judgePoll g x f s := by
  unfold judgeReply
  rw [hk]
  exact if_pos (by rw [hs, hd]; simp)

theorem judgeReply_set {g : Seg} {x : Txn} {f : FieldFrame} {s : State} (hk : x.kind = .set) (hs : f.source = x.dest)
    (hd : f.destination = s.ownAddress) : judgeReply g x f s = judgeSet g x f s := by
  unfold judgeReply
  rw [hk]
  exact if_pos (by rw [hs, hd]; simp)

/-- A malformed sample is rejected and counted (R33). -/
theorem creditSample_malformed {p : List Byte} (h : (RawSample.parse p).malformed = true) (g : Seg) (i : Slot) (s : State) :
    creditSample g i p s = (s.setSeg g
      { s.seg g with counters := { (s.seg g).counters with rejected := satInc 65535 (s.seg g).counters.rejected } }, false) := by
  unfold creditSample
  simp only [h, if_true]
  rfl

/-- Settles O34: one counter and one miss for each way (R33, R54, R129, R133 to R135, R139, R145). -/
theorem everyMissIsChargedOnce : Obligations.EveryMissIsChargedOnce := by
  unfold Obligations.EveryMissIsChargedOnce
  refine ⟨?polled, ?malformed, ?controllers, ?unaddressed⟩
  case polled =>
    intro s g x opened i w hheld hset ha hopen hk hb q missed
    have hw := ha.2.2.2.1
    have once := fun r hr => oneMiss_poll r hw ha.addressed hset hb hk hr
    refine ⟨⟨_, (Event.replyTimeout g).exec_free hheld, ?_⟩,
      fun f _ hbad => ⟨_, (Event.fieldCheckFailure g f).exec_free hheld, ?_⟩,
      ⟨_, (Event.fieldFrameAbandoned g).exec_free hheld, ?_⟩,
      fun f hf hforeign => ⟨_, (Event.strayFrame g f).exec_free hheld, ?_⟩,
      fun f hf hsample => ⟨_, (Event.replyOfWrongKind g f).exec_free hheld, ?_⟩⟩
    · rw [windowCloses_awaiting ha.awaiting hopen]
      have late := oneMiss_poll (s := { s with timeBase := max s.timeBase (opened + x.timeout) }) (g := g) (s.seg g) hw
        ha.addressed hset hb hk rfl
      rwa [show State.setSeg _ g (s.seg g) = { s with timeBase := max s.timeBase (opened + x.timeout) } from
        State.setSeg_self { s with timeBase := max s.timeBase (opened + x.timeout) } g] at late
    · rw [receiveFrame_bad hbad, receptionError_awaiting ha.awaiting]
      exact once _ rfl
    · rw [receptionError_awaiting ha.awaiting]
      exact once _ rfl
    · rw [receiveFrame_wellhead hf, wellheadFrame_awaiting ha.awaiting, judgeReply_foreign hforeign, countForeign_eq]
      exact once _ rfl
    · obtain ⟨hwell, hs, hd⟩ := hf
      rw [receiveFrame_wellhead hwell, wellheadFrame_awaiting ha.awaiting, judgeReply_poll hk hs hd]
      unfold judgePoll
      rw [hsample]
      have self := once (s.seg g) rfl
      rwa [State.setSeg_self] at self
  case malformed =>
    intro s g f x i w hheld hset ha hk hf hsample hmal hb q
    obtain ⟨hwell, hs, hd⟩ := hf
    refine ⟨_, (Event.sample g f).exec_free hheld, ?_⟩
    rw [receiveFrame_wellhead hwell, wellheadFrame_awaiting ha.awaiting, judgeReply_poll hk hs hd]
    have rejected := oneMiss_poll { s.seg g with counters := { (s.seg g).counters with
      rejected := satInc 65535 (s.seg g).counters.rejected } } ha.2.2.2.1 ha.addressed hset hb hk rfl
    unfold judgePoll
    rw [hsample, ha.addressed]
    simp only [creditSample_malformed hmal, if_true, Bool.false_eq_true, if_false]
    exact rejected
  case controllers =>
    intro s g x i w hheld hset ha hk hb q
    refine ⟨fun f hc hown => ?own, fun f hf => ?other⟩
    case own =>
      refine ⟨_, (Event.ownAddressFrame g f).exec_free hheld, ?_⟩
      rw [receiveFrame_own hc hown]
      unfold ownFrame
      rw [countForeign_eq, endOpen_awaiting ((awaiting_setSeg (q := (s.seg g).withForeign) rfl).trans ha.awaiting)]
      exact oneMiss_poll _ ha.2.2.2.1 ha.addressed hset hb hk rfl
    case other =>
      refine ⟨_, (Event.otherControllerFrame g f).exec_free hheld, ?_⟩
      rw [receiveFrame_other hf]
      have hm : missTxn g x (countForeign g s) = putWell (s.setSeg g
          { (s.seg g).withForeign with
            txn := none
            counters := { (s.seg g).withForeign.counters with misses := satInc 65535 (s.seg g).counters.misses } }) i
          (some { w with missCount := satInc Config.countCap w.missCount }) := by
        rw [countForeign_eq, missTxn_poll hk (by rw [addressedWell_setSeg]; exact ha.addressed), State.seg_setSeg_self,
          State.setSeg_setSeg]
        exact missWell_below ha.2.2.2.1 (hb.setSeg g rfl)
      have hother : otherFrame g f s = hearOther g f (missTxn g x (countForeign g s)) := by
        unfold otherFrame
        rw [ha.awaiting]
      rw [hother]
      have k := (unheard_hearOther g f (missTxn g x (countForeign g s))).trans (unheard_runEvals _)
      have hseg : ((missTxn g x (countForeign g s)).seg g) = _ := (congrArg (·.seg g) hm).trans
        ((putWell_seg _ _ _ _).trans (State.seg_setSeg_self _ _ _))
      have htime : (missTxn g x (countForeign g s)).timeBase = s.timeBase := by
        rw [hm, putWell_frame]
        rfl
      have hwell : (missTxn g x (countForeign g s)).well i = some { w with missCount := satInc Config.countCap w.missCount } := by
        rw [hm, putWell_well, if_pos rfl]
      refine ⟨k.txn g ?_, (k.misses g).trans ?_, (k.foreign g).trans ?_, k.lastOther.trans ?_, (k.key i).trans ?_⟩
      · exact congrArg Segment.txn hseg
      · exact congrArg (fun q : Segment => q.counters.misses) hseg
      · exact congrArg (fun q : Segment => q.counters.foreignReplies) hseg
      · exact congrArg (fun n => some (n, g)) htime
      · exact congrArg (Option.map Well.key) hwell
  case unaddressed =>
    intro s g x opened hheld hset htxn hopen hk hno q missed
    have hnone := addressedWell_eq_none hno
    have haw : s.awaiting g = some x := awaiting_eq_some htxn (by rw [hopen]; rfl)
    refine ⟨?_, fun f hf hsample => ?_⟩
    · rw [(Event.replyTimeout g).exec_free hheld, windowCloses_awaiting haw hopen,
        missTxn_poll_none (s := { s with timeBase := max s.timeBase (opened + x.timeout) }) hk hnone]
      exact congrArg _ (runEvals_settled hset)
    · obtain ⟨hwell, hs, hd⟩ := hf
      rw [(Event.sample g f).exec_free hheld, receiveFrame_wellhead hwell, wellheadFrame_awaiting haw, judgeReply_poll hk hs hd]
      unfold judgePoll
      rw [hsample, hnone, if_pos rfl]
      simp only
      rw [missTxn_poll_none hk hnone]
      exact congrArg _ (runEvals_settled hset)

end Sys2Proof.Machine
end

section
/-! The timeout of an overheard exchange (R146) and the trip inputs (R92, R93). -/

set_option Elab.async false

namespace Sys2Proof.Machine

/-! ## Overheard exchanges -/

/-- A segment whose overheard exchange has ended as a miss. -/
def Segment.overheardMissed (q : Segment) : Segment :=
  { q with overheard := none, counters := { q.counters with misses := satInc 65535 q.counters.misses } }

theorem missOverheard_none {s : State} {g : Seg} {o : Overheard} (h : s.wellAt g o.dest = none) :
    missOverheard g o s = s.setSeg g (s.seg g).overheardMissed := by
  have hu : (countMiss g (closeOverheard g s)) = s.setSeg g (s.seg g).overheardMissed := by
    unfold countMiss closeOverheard State.modCounters
    simp only [State.modSeg_eq, State.setSeg_setSeg, State.seg_setSeg_self]
    rfl
  unfold missOverheard
  simp only [hu, show (s.setSeg g (s.seg g).overheardMissed).wellAt g o.dest = none from h]

theorem missOverheard_some {s : State} {g : Seg} {o : Overheard} {i : Slot} (h : s.wellAt g o.dest = some i) :
    missOverheard g o s = missWell i (s.setSeg g (s.seg g).overheardMissed) := by
  have hu : (countMiss g (closeOverheard g s)) = s.setSeg g (s.seg g).overheardMissed := by
    unfold countMiss closeOverheard State.modCounters
    simp only [State.modSeg_eq, State.setSeg_setSeg, State.seg_setSeg_self]
    rfl
  unfold missOverheard
  simp only [hu, show (s.setSeg g (s.seg g).overheardMissed).wellAt g o.dest = some i from h]

theorem endOpen_overheard {s : State} {g : Seg} {o : Overheard} (ht : (s.seg g).txn = none)
    (ho : (s.seg g).overheard = some o) (finish : Seg → Overheard → State → State) :
    endOpen g finish s = finish g o s := by
  unfold endOpen
  rw [awaiting_eq_none ht, ho]

theorem receptionError_overheard {s : State} {g : Seg} {o : Overheard} (ht : (s.seg g).txn = none)
    (ho : (s.seg g).overheard = some o) :
    receptionError g s = missOverheard g o (s.setSeg g (s.seg g).withError) := by
  rw [receptionError_eq]
  exact endOpen_overheard (by rw [State.seg_setSeg_self]; exact ht) (by rw [State.seg_setSeg_self]; exact ho) _

theorem overheardExpiry_some {s : State} {g : Seg} {o : Overheard} (ho : (s.seg g).overheard = some o) :
    overheardExpiry g s = runEvals (lapseOverheard g o { s with timeBase := max s.timeBase (o.ended + o.timeout) }) := by
  unfold overheardExpiry
  rw [ho]
  simp only [State.advanceTo_eq]

/-- Settles O39: the exchange closes, with a miss where its destination is served (R146 to R148, R150). -/
theorem overheardTimeoutClosesTheExchange : Obligations.OverheardTimeoutClosesTheExchange := by
  unfold Obligations.OverheardTimeoutClosesTheExchange
  intro s g o hheld hset ho q late
  refine ⟨fun hno => ⟨?_, fun f htxn _ hbad => ?_⟩, fun i w hat hw hb => ⟨⟨_, (Event.overheardTimeout g).exec_free hheld, ?_⟩,
    fun f htxn _ hbad => ⟨_, (Event.fieldCheckFailure g f).exec_free hheld, ?_⟩⟩⟩
  · have hl : lapseOverheard g o late = closeOverheard g late := by
      unfold lapseOverheard
      rw [show late.wellAt g o.dest = none from hno]
    rw [(Event.overheardTimeout g).exec_free hheld, overheardExpiry_some ho, hl]
    exact congrArg _ (runEvals_settled (s := closeOverheard g late) hset)
  · rw [(Event.fieldCheckFailure g f).exec_free hheld, receiveFrame_bad hbad, receptionError_overheard htxn ho,
      missOverheard_none (s := s.setSeg g (s.seg g).withError) hno, State.seg_setSeg_self, State.setSeg_setSeg]
    exact congrArg _ (runEvals_settled (s := s.setSeg g _) hset)
  · have hl : lapseOverheard g o late = missOverheard g o late := by
      unfold lapseOverheard
      rw [show late.wellAt g o.dest = some i from hat]
    rw [overheardExpiry_some ho, hl, missOverheard_some (s := late) hat]
    exact oneMiss_missWell hw (BelowMissLimit.setSeg (s := late) hb g rfl) hset
  · rw [receiveFrame_bad hbad, receptionError_overheard htxn ho, missOverheard_some (s := s.setSeg g (s.seg g).withError) hat,
      State.seg_setSeg_self, State.setSeg_setSeg]
    exact oneMiss_missWell hw (hb.setSeg g rfl) hset

/-! ## Trip inputs -/

theorem ms_eq_none_iff (x : TripInterval) : x.ms = none ↔ x = .off := by cases x <;> simp [TripInterval.ms]

/-- What follows a change of an input touches no filter (R94 to R99). -/
theorem tripsChanged_trips (b : Bool) (s : State) : (tripsChanged b s).trips = s.trips := (inner_tripsChanged (d := False) b s).trips

theorem trips_modTrip (s : State) (t k : Trip) (f : TripFilter → TripFilter) :
    (s.modTrip t f).trips.get k = if k = t then f (s.trips.get t) else s.trips.get k := PerTrip.get_put _ _ _ _

/-- The expiry of an input's verification timer, its interval on (R92). -/
theorem filterExpiry_some {s : State} {t : Trip} {ms : Nat} (h : (s.site.intervals.get t).ms = some ms) :
    filterExpiry t s = tripsChanged s.combination ((s.advanceTo ((s.trips.get t).timer + ms)).modTrip t fun f =>
      ({ f with timer := (s.trips.get t).timer + ms }).expire (s.sampledState t)) := by
  unfold filterExpiry
  rw [h]
  rfl

/-- A change of the level of an input whose interval is off (R93). -/
theorem inputChange_off {s : State} {t : Trip} {high : Bool} (hheld : s.held = false) (h : s.site.intervals.get t = .off) :
    inputChange t high s = tripsChanged s.combination ((s.modTrip t fun f => { f with rawHigh := high }).modTrip t
      (·.follow (s.limits.activeLow.get t))) := by
  unfold inputChange
  simp only [show (s.modTrip t fun f => { f with rawHigh := high }).held = false from hheld, Bool.false_eq_true, if_false]
  rw [show ((s.modTrip t fun f => { f with rawHigh := high }).site.intervals.get t).ms = none from by
    rw [show (s.modTrip t fun f => { f with rawHigh := high }).site = s.site from rfl, h]; rfl]
  rfl

/-- Settles O42: one filter acts by its sampled state, and no other. -/
theorem tripInputsAreVerifiedOrFollowed : Obligations.TripInputsAreVerifiedOrFollowed := by
  unfold Obligations.TripInputsAreVerifiedOrFollowed
  refine ⟨fun s t ms hheld hms => ?_, fun s t high hheld => ⟨fun hon => ?_, fun hoff => ?_⟩⟩
  · have hrun := (Event.tripFilterExpiry t).exec_free hheld
    rw [filterExpiry_some hms] at hrun
    let f : TripFilter := { s.trips.get t with timer := (s.trips.get t).timer + ms }
    have htrip : ∀ k, (tripsChanged s.combination ((s.advanceTo ((s.trips.get t).timer + ms)).modTrip t fun f =>
        ({ f with timer := (s.trips.get t).timer + ms }).expire (s.sampledState t))).trips.get k =
          if k = t then f.expire (s.sampledState t) else s.trips.get k := fun k => by
      rw [tripsChanged_trips, trips_modTrip]
      rfl
    refine ⟨_, hrun, ((keeps_advanceTo _ _).trans ((keeps_modTrip _ _ _).trans
      (inner_tripsChanged (d := False) _ _).keeps)).undisturbed, (inner_tripsChanged (d := False) _ _).unit,
      fun k hk => (htrip k).trans (if_neg hk), ?_⟩
    intro old sampled new
    have hnew : new = f.expire sampled := (htrip t).trans (if_pos rfl)
    rw [hnew]
    unfold TripFilter.expire
    by_cases hw : old.awaitingFirst = true
    · have hf : f.awaitingFirst = true := hw
      rw [if_pos hf]
      refine ⟨rfl, rfl, rfl, fun _ => ⟨rfl, rfl⟩, ?_, ?_, ?_⟩
      all_goals intro h; rw [hw] at h; exact absurd h (by decide)
    · have hf : f.awaitingFirst = false := by simpa using hw
      rw [if_neg (by rw [hf]; decide)]
      by_cases ha : sampled = old.accepted
      · rw [if_pos (show sampled = f.accepted from ha)]
        exact ⟨rfl, rfl, hf, fun h => absurd h hw, fun _ _ => ⟨rfl, rfl⟩, fun _ h => absurd ha h, fun _ h => absurd ha h⟩
      · rw [if_neg (show ¬ sampled = f.accepted from ha)]
        by_cases hc : old.candidate = some sampled
        · rw [if_pos (show f.candidate = some sampled from hc)]
          exact ⟨rfl, rfl, hf, fun h => absurd h hw, fun _ h => absurd h ha, fun _ _ h => absurd hc h, fun _ _ _ => ⟨rfl, rfl⟩⟩
        · rw [if_neg (show ¬ f.candidate = some sampled from hc)]
          exact ⟨rfl, rfl, hf, fun h => absurd h hw, fun _ h => absurd h ha, fun _ _ _ => ⟨rfl, rfl⟩, fun _ _ h => absurd h hc⟩
  · rw [(Event.tripInputChange t high).exec_eq]
    unfold inputChange
    simp only [show (s.modTrip t fun f => { f with rawHigh := high }).held = false from hheld, Bool.false_eq_true, if_false]
    cases hms : (s.site.intervals.get t).ms with
    | none => exact absurd ((ms_eq_none_iff _).mp hms) hon
    | some ms =>
      rw [show ((s.modTrip t fun f => { f with rawHigh := high }).site.intervals.get t).ms = some ms from hms]
      rfl
  · refine ⟨_, (Event.tripInputChange t high).exec_eq s, (keeps_inputChange t high s).undisturbed, ?_⟩
    rw [inputChange_off hheld hoff, tripsChanged_trips]
    unfold State.modTrip TripFilter.follow readLevel
    simp only [PerTrip.get_put_same]
    cases t <;> rfl

end Sys2Proof.Machine
end

section
/-! READ (R126, R197 to R199): the payload, the row, the answer. -/

set_option Elab.async false

namespace Sys2Proof.Machine

/-! ## The payload -/

theorem byteAt_lt (p : List Byte) (n : Nat) : byteAt p n < 256 := BitVec.isLt _

theorem wordAt_mod (p : List Byte) (n : Nat) : wordAt p n % 256 = byteAt p n := by
  unfold wordAt
  have := byteAt_lt p n
  omega

theorem wordAt_div (p : List Byte) (n : Nat) : wordAt p n / 256 = byteAt p (n + 1) := by
  unfold wordAt
  have := byteAt_lt p n
  omega

theorem condKindOfCode_code (k : CondKind) : condKindOfCode (k.idx.val + 1) = some k := by cases k <;> rfl

theorem condKindOfCode_eq_none {n : Nat} (h : n = 0 ∨ 11 < n) : condKindOfCode n = none := by
  unfold condKindOfCode
  split <;> first | omega | rfl

theorem lineOfCode_eq_none' {n : Nat} (h : n = 0 ∨ 2 < n) : lineOfCode n = none :=
  lineOfCode_eq_none (by omega) (by omega)

/-- The payload of a READ of a known target, its flag read (R197). -/
theorem parseRead_eq_some {p : List Byte} {t : ReadTarget} {c : Bool} (ht : readTargetOf (byteAt p 0) (wordAt p 1) = some t)
    (hc : flagOfCode (byteAt p 3) = some c) (hok : (c && !t.counted) = false) : parseRead p = some (t, c) := by
  unfold parseRead
  rw [ht, hc]
  simp only [Option.bind_eq_bind, Option.bind_some, hok, Bool.false_eq_true, if_false]

theorem parseRead_of_target_none {p : List Byte} (ht : readTargetOf (byteAt p 0) (wordAt p 1) = none) : parseRead p = none := by
  unfold parseRead
  rw [ht]
  rfl

/-- A target without counters is read without the clear flag alone. -/
theorem parseRead_of_flag {p : List Byte} (hf : byteAt p 3 ≠ 0)
    (ht : ∀ t, readTargetOf (byteAt p 0) (wordAt p 1) = some t → t.counted = false) : parseRead p = none := by
  unfold parseRead
  cases h : readTargetOf (byteAt p 0) (wordAt p 1) with
  | none => rfl
  | some t =>
    simp only [Option.bind_eq_bind, Option.bind_some, ht t h]
    unfold flagOfCode
    split
    · exact absurd ‹_› hf
    · rfl
    · rfl

theorem plainTarget_counted {n : Nat} {t x : ReadTarget} (hc : t.counted = false) (h : plainTarget n t = some x) :
    x.counted = false := by
  unfold plainTarget at h
  split at h
  · exact Option.some.inj h ▸ hc
  · exact absurd h (by simp)

/-- Segments and the link alone hold counters that a READ may clear. -/
theorem readTargetOf_counted {n m : Nat} {t : ReadTarget} (h : readTargetOf n m = some t) (h3 : n ≠ 3) (h11 : n ≠ 11) :
    t.counted = false := by
  unfold readTargetOf at h
  split at h
  case h_1 => obtain ⟨i, -, rfl⟩ := Option.map_eq_some_iff.mp h; rfl
  case h_2 => obtain ⟨i, -, rfl⟩ := Option.map_eq_some_iff.mp h; rfl
  case h_3 => exact absurd rfl h3
  case h_6 => obtain ⟨i, -, rfl⟩ := Option.map_eq_some_iff.mp h; rfl
  case h_7 =>
    split at h
    · exact Option.some.inj h ▸ rfl
    · exact absurd h (by simp)
  case h_11 => exact absurd rfl h11
  case h_13 => exact absurd h (by simp)
  all_goals exact plainTarget_counted rfl h

theorem readTargetOf_well (i : Slot) : readTargetOf 1 i.val = some (.well i) := congrArg (Option.map ReadTarget.well) (slotOfCode_val i)

theorem readTargetOf_line (l : Line) : readTargetOf 2 (lineCode l) = some (.line l) :=
  congrArg (Option.map ReadTarget.line) (lineOfCode_lineCode l)

theorem readTargetOf_segment (g : Seg) : readTargetOf 3 (segCode g) = some (.segment g) :=
  congrArg (Option.map ReadTarget.segment) (segOfCode_segCode g)

theorem readTargetOf_waiting {n : Nat} (h : n ≤ 485) : readTargetOf 6 n = some (.waiting n) :=
  congrArg (Option.map ReadTarget.waiting) (within_eq_some (Nat.zero_le _) h)

theorem readTargetOf_unknown {n : Nat} (h : n = 0 ∨ 12 < n) (m : Nat) : readTargetOf n m = none := by
  unfold readTargetOf
  split <;> first | omega | rfl

theorem readTargetOf_plain {n m : Nat} (h : n = 4 ∨ n = 5 ∨ n = 8 ∨ n = 9 ∨ n = 10 ∨ n = 11 ∨ n = 12) (hm : m ≠ 0) :
    readTargetOf n m = none := by
  rcases h with rfl | rfl | rfl | rfl | rfl | rfl | rfl <;> exact if_neg hm

/-! ## The rows -/

/-- A row of READ on the ready frame it takes: the content as the execution finds it (R192, R197). -/
theorem read_answer {c : Instr} (hr : Row c runRead) {s : State} {f : PlantFrame} {rest : List PlantFrame} (h : Ready s f rest)
    (hk : f.isKind 7 = true) (ht : takes c f = true) {t : ReadTarget}
    (hp : readTargetOf (byteAt f.payload 0) (wordAt f.payload 1) = some t) (hc : byteAt f.payload 3 = 0) :
    exec c s = .next (s.answer f rest .reply (some (readTarget (beginExecution s) t))) := by
  refine hr.exec_answer h ht h ?_ (.inr (PlantFrame.isKind_eq_false hk (by decide)))
  unfold runRead
  rw [parseRead_eq_some hp (by rw [hc]; rfl) (by simp)]
  rfl

theorem read_refuse {c : Instr} (hr : Row c runRead) {s : State} {f : PlantFrame} {rest : List PlantFrame} (h : Ready s f rest)
    (ht : takes c f = true) (hp : parseRead f.payload = none) : exec c s = .next (s.answer f rest .range none) := by
  refine hr.exec_refuse h ht ?_ (by decide)
  unfold runRead
  rw [hp]

/-- A READ is taken by the row of its target. -/
theorem readsTarget_of {n : Nat} {f : PlantFrame} (hk : f.isKind 7 = true) (h : byteAt f.payload 0 = n) :
    readsTarget n f = true := by
  unfold readsTarget
  simp [hk, h]

theorem readsPlain_of {n : Nat} {f : PlantFrame} (hk : f.isKind 7 = true) (h : byteAt f.payload 0 = n)
    (hc : byteAt f.payload 3 = 0) : readsPlain n f = true := by
  unfold readsPlain readClears
  rw [readsTarget_of hk h, hc]
  simp

theorem readsClear_of {n : Nat} {f : PlantFrame} (hk : f.isKind 7 = true) (h : byteAt f.payload 0 = n)
    (hc : byteAt f.payload 3 = 1) : readsClear n f = true := by
  unfold readsClear readClears
  rw [readsTarget_of hk h, hc]
  simp

/-- An execution that leaves no evaluation: the RESPONSE joins (R191). -/
theorem finishExecution_settled (f : PlantFrame) {a : Answer} (h : Settled a.state) :
    finishExecution f a = a.state.modLink fun k =>
      Link.joinResponse { k with unlocked := f.isKind 4 && decide (a.outcome = .accepted) }
        (responseTo f a.state a.outcome a.data) := by
  unfold finishExecution
  rw [runEvals_settled h]

/-- The number of frames left in the buffer when an execution has begun. -/
theorem beginExecution_buffer {s : State} {f : PlantFrame} {rest : List PlantFrame} (h : Ready s f rest) :
    (beginExecution s).link.buffer = rest := by
  show s.link.buffer.tail = rest
  rw [h.2.1]
  rfl

theorem readLink_begin {s : State} {f : PlantFrame} {rest : List PlantFrame} (h : Ready s f rest) :
    readTarget (beginExecution s) .link = .link s.link.mode s.link.unlocked rest.length
      s.link.urgent.length s.link.routine.length true
      { s.link.counters with executed := satInc 65535 s.link.counters.executed } := by
  show readLink (beginExecution s) = _
  unfold readLink
  rw [beginExecution_buffer h]
  rfl

theorem readPair_eq (s : State) (src : Nat) (k : CondKind) :
    (∀ r, s.conds.waiting.find? (·.isPair k src) = some r → readPair s src k = .pair (some (r, .pending))) ∧
    (∀ r, s.conds.waiting.find? (·.isPair k src) = none → s.conds.stack.find? (·.isPair k src) = some r →
      readPair s src k = .pair (some (r, .inService))) ∧
    (s.conds.find k src = none → readPair s src k = .pair none) := by
  unfold readPair
  refine ⟨fun r h => by rw [h], fun r h h' => by rw [h, h'], fun h => ?_⟩
  unfold Conditions.find at h
  split at h
  · exact absurd h (by simp)
  · rename_i hw
    rw [hw, h]

/-- Settles O17: every target's content, the clearing of the two counted ones, and the refusals of R197. -/
theorem readReturnsAndClearsItsTargets : Obligations.ReadReturnsAndClearsItsTargets := by
  unfold Obligations.ReadReturnsAndClearsItsTargets
  refine ⟨?tables, ?conditions, ?site, ?clears, ?refusals⟩
  case tables =>
    intro s f rest h hk hc
    refine ⟨fun i h0 h1 => ?_, fun l h0 h1 => ?_, fun g h0 h1 => ?_⟩
    · exact read_answer .readWell h hk (readsTarget_of hk h0) (t := .well i) (by rw [h0, h1, readTargetOf_well]) hc
    · rw [read_answer .readLine h hk (readsTarget_of hk h0) (t := .line l)
        (by rw [h0, h1, readTargetOf_line]) hc]
      cases l <;> rfl
    · exact read_answer .readSegment h hk (readsPlain_of hk h0 hc) (t := .segment g)
        (by rw [h0, h1, readTargetOf_segment]) hc
  case conditions =>
    intro s f rest h hk hc
    refine ⟨fun h0 h1 => ?_, fun h0 h1 => ?_, fun h0 h1 => ?_, fun k h0 h1 h2 => ?_⟩
    · exact read_answer .readConditionLevels h hk (readsTarget_of hk h0) (t := .levels) (by rw [h0, h1]; rfl) hc
    · exact read_answer .readInServiceStack h hk (readsTarget_of hk h0) (t := .stack) (by rw [h0, h1]; rfl) hc
    · exact read_answer .readPendingSet h hk (readsTarget_of hk h0) (t := .waiting (wordAt f.payload 1))
        (by rw [h0, readTargetOf_waiting h1]) hc
    · have hp : readTargetOf (byteAt f.payload 0) (wordAt f.payload 1) = some (.pair (byteAt f.payload 1) k) := by
        rw [h0]
        unfold readTargetOf
        simp only [wordAt_mod, wordAt_div, within_eq_some (Nat.zero_le _) h1, h2, condKindOfCode_code]
      obtain ⟨hpending, hservice, hnone⟩ := readPair_eq (beginExecution s) (byteAt f.payload 1) k
      have run := read_answer .readConditionPair h hk (readsTarget_of hk h0) hp hc
      refine ⟨fun r _ hr => ?_, fun r _ hw hr => ?_, fun hr => ?_⟩
      · rw [run]; exact congrArg (fun d => Host.Outcome.next (s.answer f rest .reply (some d))) (hpending r hr)
      · rw [run]; exact congrArg (fun d => Host.Outcome.next (s.answer f rest .reply (some d))) (hservice r hw hr)
      · rw [run]; exact congrArg (fun d => Host.Outcome.next (s.answer f rest .reply (some d))) (hnone hr)
  case site =>
    intro s f rest h hk hc h1
    refine ⟨fun h0 => ?_, fun h0 => ?_, fun h0 => ?_, fun h0 => ?_, fun h0 => ?_⟩
    · exact read_answer .readRole h hk (readsTarget_of hk h0) (t := .role) (by rw [h0, h1]; rfl) hc
    · exact read_answer .readSite h hk (readsTarget_of hk h0) (t := .site) (by rw [h0, h1]; rfl) hc
    · exact read_answer .readLimits h hk (readsTarget_of hk h0) (t := .limits) (by rw [h0, h1]; rfl) hc
    · rw [read_answer .readLink h hk (readsPlain_of hk h0 hc) (t := .link) (by rw [h0, h1]; rfl) hc, readLink_begin h]
    · exact read_answer .readLineState h hk (readsTarget_of hk h0) (t := .lineState) (by rw [h0, h1]; rfl) hc
  case clears =>
    intro s f rest h hk hc
    have hfour : f.isKind 4 = false := PlantFrame.isKind_eq_false hk (by decide)
    refine ⟨fun g h0 h1 htxn => ?_, fun h0 h1 => ?_⟩
    · have hp : parseRead f.payload = some (.segment g, true) :=
        parseRead_eq_some (by rw [h0, h1, readTargetOf_segment]) (by rw [hc]; rfl) rfl
      refine Row.readSegmentClear.exec_answer h (readsClear_of hk h0 hc)
        (u := s.setSeg g { s.seg g with counters := ⟨0, 0, 0, 0, 0, 0, 0, 0, 0⟩ }) h ?_ (.inr hfour)
      have hseg : clearSegment g (beginExecution s) =
          beginExecution (s.setSeg g { s.seg g with counters := ⟨0, 0, 0, 0, 0, 0, 0, 0, 0⟩ }) := by
        have hq : (s.seg g).txn.map (fun t => { t with undo := { t.undo with counted := false } }) = (s.seg g).txn := by
          rw [htxn]
          rfl
        exact congrArg (fun x => beginExecution (s.setSeg g { s.seg g with counters := .zero, txn := x })) hq
      unfold runRead
      rw [hp]
      show Answer.mk (clearSegment g (beginExecution s)) _ _ = _
      rw [hseg]
      have hread : readTarget (beginExecution s) (.segment g) = .segment g
          { settings := (s.seg g).settings
            pointer := (s.seg g).pointer
            position := (s.seg g).position
            round := (s.seg g).round
            txn := (s.seg g).txn.map fun t => (t.kind, t.dest, t.began)
            queue := (s.seg g).queue
            outstanding := (s.seg g).outstanding
            budgetInForce := (s.seg g).budgetInForce
            sentCopy := (s.seg g).sentCopy
            moves := s.movesOf g
            counters := (s.seg g).counters } := rfl
      rw [hread, htxn]
      rfl
    · have hp : parseRead f.payload = some (.link, true) :=
        parseRead_eq_some (by rw [h0, h1]; rfl) (by rw [hc]; rfl) rfl
      have hrun : runRead f (beginExecution s) =
          ⟨(beginExecution s).modLinkCounters fun _ => .zero, .reply, some (readTarget (beginExecution s) .link)⟩ := by
        unfold runRead
        rw [hp]
        rfl
      have hset : Settled ((beginExecution s).modLinkCounters fun _ => .zero) := h.2.2.2
      let joined : Link :=
        { ((beginExecution s).modLinkCounters fun _ => .zero).link with
          unlocked := f.isKind 4 && decide (RespOutcome.reply = .accepted)
          reserved := false
          routine := s.link.routine ++ [.response (responseTo f ((beginExecution s).modLinkCounters fun _ => .zero) .reply
            (some (readTarget (beginExecution s) .link)))] }
      obtain ⟨hbuffer, -, hunlocked, -, hcounters⟩ := Link.pump_frame joined
      refine ⟨_, (Row.readLinkClear.exec_ready h (readsClear_of hk h0 hc)).trans (by rw [hrun, finishExecution_settled f hset]),
        rfl, hcounters, hbuffer.trans (beginExecution_buffer h), hunlocked.trans ?_, fun hsend => ?_⟩
      · show (f.isKind 4 && _) = false
        rw [hfour]
        rfl
      · rw [← readLink_begin h]
        exact congrArg Link.routine (Link.pump_sending (k := joined) hsend)
  case refusals =>
    intro s f rest h hk
    have target {c : Instr} (hr : Row c runRead) (n : Nat) (hn : takes c f = readsTarget n f) (h0 : byteAt f.payload 0 = n)
        (hp : parseRead f.payload = none) : exec c s = .next (s.answer f rest .range none) :=
      read_refuse hr h (hn.trans (readsTarget_of hk h0)) hp
    have flag (n : Nat) (h0 : byteAt f.payload 0 = n) (h3 : n ≠ 3) (h11 : n ≠ 11) (hf : byteAt f.payload 3 ≠ 0) :
        parseRead f.payload = none :=
      parseRead_of_flag hf fun t ht => readTargetOf_counted ht (h0 ▸ h3) (h0 ▸ h11)
    have plain (n : Nat) (hn : n = 4 ∨ n = 5 ∨ n = 8 ∨ n = 9 ∨ n = 10 ∨ n = 11 ∨ n = 12) (h0 : byteAt f.payload 0 = n)
        (hm : wordAt f.payload 1 ≠ 0) : parseRead f.payload = none :=
      parseRead_of_target_none (readTargetOf_plain (h0 ▸ hn) hm)
    refine ⟨fun hbad h0 => target .readWell 1 rfl h0 ?_, fun hbad h0 => target .readPendingSet 6 rfl h0 ?_, fun hbad => ?_,
      fun hbad h0 => target .readLine 2 rfl h0 ?_, fun hbad h0 => target .readConditionPair 7 rfl h0 ?_, fun hbad h0 => ?_,
      fun hbad h0 => ?_, fun hbad => ?_⟩
    · rcases hbad with hbad | hbad
      · exact parseRead_of_target_none (by rw [h0]; exact congrArg (Option.map ReadTarget.well) (slotOfCode_eq_none hbad))
      · exact flag 1 h0 (by decide) (by decide) hbad
    · rcases hbad with hbad | hbad
      · exact parseRead_of_target_none (by rw [h0]; exact congrArg (Option.map ReadTarget.waiting) (within_eq_none (.inr hbad)))
      · exact flag 6 h0 (by decide) (by decide) hbad
    · have both (n : Nat) (hn : n = 4 ∨ n = 5 ∨ n = 8 ∨ n = 9 ∨ n = 10 ∨ n = 12) (h0 : byteAt f.payload 0 = n) :
          parseRead f.payload = none := by
        rcases hbad with hbad | hbad
        · exact plain n (by omega) h0 hbad
        · exact flag n h0 (by omega) (by omega) hbad
      exact ⟨fun h0 => target .readConditionLevels 4 rfl h0 (both 4 (by omega) h0),
        fun h0 => target .readInServiceStack 5 rfl h0 (both 5 (by omega) h0),
        fun h0 => target .readRole 8 rfl h0 (both 8 (by omega) h0), fun h0 => target .readSite 9 rfl h0 (both 9 (by omega) h0),
        fun h0 => target .readLimits 10 rfl h0 (both 10 (by omega) h0),
        fun h0 => target .readLineState 12 rfl h0 (both 12 (by omega) h0)⟩
    · rcases hbad with hbad | hbad | hbad
      · exact parseRead_of_target_none (by rw [h0]; exact congrArg (Option.map ReadTarget.line) (lineOfCode_eq_none' (.inl hbad)))
      · exact parseRead_of_target_none (by rw [h0]; exact congrArg (Option.map ReadTarget.line) (lineOfCode_eq_none' (.inr hbad)))
      · exact flag 2 h0 (by decide) (by decide) hbad
    · rcases hbad with hbad | hbad | hbad | hbad
      · refine parseRead_of_target_none ?_
        rw [h0]
        unfold readTargetOf
        simp only [wordAt_mod, within_eq_none (.inr hbad)]
      · refine parseRead_of_target_none ?_
        rw [h0]
        unfold readTargetOf
        simp only [wordAt_div, condKindOfCode_eq_none (.inl hbad)]
        cases within 0 98 (wordAt f.payload 1 % 256) <;> rfl
      · refine parseRead_of_target_none ?_
        rw [h0]
        unfold readTargetOf
        simp only [wordAt_div, condKindOfCode_eq_none (.inr hbad)]
        cases within 0 98 (wordAt f.payload 1 % 256) <;> rfl
      · exact flag 7 h0 (by decide) (by decide) hbad
    · have hp : parseRead f.payload = none := parseRead_of_target_none (by
        rw [h0]
        exact congrArg (Option.map ReadTarget.segment) (segOfCode_eq_none hbad))
      exact ⟨fun hc => read_refuse .readSegment h (readsPlain_of hk h0 hc) hp,
        fun hc => read_refuse .readSegmentClear h (readsClear_of hk h0 hc) hp⟩
    · have hp := plain 11 (by omega) h0 hbad
      exact ⟨fun hc => read_refuse .readLink h (readsPlain_of hk h0 hc) hp,
        fun hc => read_refuse .readLinkClear h (readsClear_of hk h0 hc) hp⟩
    · refine read_refuse .readWell h ?_ (parseRead_of_target_none (readTargetOf_unknown hbad _))
      show readsTarget 1 f = true
      unfold readsTarget readsUnknown
      rcases hbad with hbad | hbad <;> simp [hk, hbad]

end Sys2Proof.Machine
end

section
/-! What an evaluation of taking and of a line touch, the operations in STANDBY, RESTART (R201) and LOAD CONDITION (R105). -/

set_option Elab.async false

namespace Sys2Proof.Machine

/-! ## Conditions and uplink alone -/

/-- From `s` to `t` the conditions, the uplink and the line counts alone have changed. -/
def Reports (s t : State) : Prop :=
  t = { s with conds := t.conds, link := t.link, balancer := { s.balancer with counts := t.balancer.counts } }

theorem Reports.refl (s : State) : Reports s s := rfl

theorem Reports.trans {s t u : State} (a : Reports s t) (b : Reports t u) : Reports s u := by
  unfold Reports at *
  rw [a] at b
  exact b

theorem reports_modConds (s : State) (f : Conditions → Conditions) : Reports s (s.modConds f) := rfl

theorem reports_modLink (s : State) (f : Link → Link) : Reports s (s.modLink f) := rfl

theorem reports_evalTaking (s : State) : Reports s (evalTaking s) := by
  unfold evalTaking
  split
  · split
    · rfl
    · rfl
  · rfl

theorem reports_bumpRec (k : CondKind) (src : Nat) (s : State) : Reports s (bumpRec k src s) := rfl

theorem reports_raiseCond (k : CondKind) (src : Nat) (m n : Option Int) (s : State) : Reports s (raiseCond k src m n s) := by
  unfold raiseCond
  split
  · rfl
  · exact (reports_modConds s _).trans (reports_evalTaking _)

theorem reports_withdraw (k : CondKind) (src : Nat) (s : State) : Reports s (withdraw k src s) := by
  unfold withdraw
  split
  · exact (reports_modConds s _).trans (reports_evalTaking _)
  · rfl

theorem reports_withdrawSlot (i : Slot) (s : State) : Reports s (withdrawSlot i s) := by
  unfold withdrawSlot
  simp only
  split
  · exact (reports_modConds s _).trans (reports_evalTaking _)
  · rfl

theorem reports_setLineCount (k : CondKind) (n : Nat) (s : State) : Reports s (setLineCount k n s) := rfl

theorem reports_treatLineKind (k : CondKind) (b : Bool) (m : Option Nat) (n : Nat) (s : State) :
    Reports s (treatLineKind k b m n s) := by
  unfold treatLineKind
  simp only
  split
  · split
    · exact (reports_setLineCount k 0 s).trans (reports_bumpRec _ _ _)
    · split
      · exact (reports_setLineCount k 0 s).trans (reports_raiseCond _ _ _ _ _)
      · exact reports_setLineCount _ _ _
  · exact (reports_setLineCount k 0 s).trans (reports_withdraw _ _ _)

theorem reports_treatLine (n : Line) (r : LineRecord) (s : State) : Reports s (treatLine n r s) := by
  cases n with
  | engine => exact (reports_treatLineKind _ _ _ _ _).trans (reports_treatLineKind _ _ _ _ _)
  | flare => exact reports_treatLineKind _ _ _ _ _

theorem reports_offerLine (s : State) : Reports s (offerLine s) := rfl

theorem reports_examineSite (b : Bool) (s : State) : Reports s (examineSite b s) := by
  unfold examineSite
  split
  · split
    · split
      · exact reports_bumpRec _ _ _
      · rfl
    · exact reports_raiseCond _ _ _ _ _
  · rfl

/-- With no pass to make, an evaluation writes its line and reports (R77, R85). -/
theorem evaluateLine_no_pass {n : Line} {s : State}
    (h : (treatLine n (s.lineRecordOf n) (s.setLine n (s.lineRecordOf n))).passDue = false) :
    Reports (s.setLine n (s.lineRecordOf n)) (evaluateLine n s) := by
  unfold evaluateLine
  simp only [h, Bool.false_eq_true, if_false]
  exact reports_treatLine _ _ _

theorem evalTaking_standby {s : State} (h : s.isDuty = false) : evalTaking s = s := by
  unfold evalTaking
  rw [h]
  rfl

theorem Reports.isDuty {s t : State} (h : Reports s t) : t.isDuty = s.isDuty := by
  unfold State.isDuty
  rw [h]

theorem passDue_standby {s : State} (h : s.isDuty = false) : s.passDue = false := by
  unfold State.passDue
  rw [h]
  rfl

/-! ## The operations in STANDBY -/

/-- In STANDBY no entry enters a queue and no protective SET is made (R156); where `p` does not say otherwise the pending protective
fields stand. -/
structure Dormant (p : Prop) (s t : State) : Prop where
  unit : t.unit = s.unit
  protMade : t.protMade = s.protMade
  empty : ∀ g, (s.seg g).queue = [] → (t.seg g).queue = []
  pending : p ∨ ∀ j, (t.well j).bind (·.pendingProt) = (s.well j).bind (·.pendingProt)

variable {p : Prop}

theorem Dormant.refl (s : State) : Dormant p s s := ⟨rfl, rfl, fun _ h => h, .inr fun _ => rfl⟩

theorem Dormant.trans {s t u : State} (a : Dormant p s t) (b : Dormant p t u) : Dormant p s u where
  unit := b.unit.trans a.unit
  protMade := b.protMade.trans a.protMade
  empty := fun g h => b.empty g (a.empty g h)
  pending := by
    rcases a.pending with h | h
    · exact .inl h
    · exact b.pending.imp_right fun k j => (k j).trans (h j)

theorem Dormant.isDuty {s t : State} (a : Dormant p s t) (h : s.isDuty = false) : t.isDuty = false := by
  unfold State.isDuty at *
  rw [a.unit]
  exact h

/-- Where neither role, nor records, nor queues are touched. -/
theorem Dormant.quiet {s t : State} (unit : t.unit = s.unit) (made : t.protMade = s.protMade) (segs : t.segs = s.segs)
    (wells : t.wells = s.wells) : Dormant p s t :=
  ⟨unit, made, fun g h => by unfold State.seg at *; rw [segs]; exact h, .inr fun j => by unfold State.well; rw [wells]⟩

theorem Reports.dormant {s t : State} (h : Reports s t) : Dormant p s t := by
  rw [h]
  exact .quiet rfl rfl rfl rfl

theorem dormant_modBalancer (s : State) (f : Balancer → Balancer) : Dormant p s (s.modBalancer f) := .quiet rfl rfl rfl rfl

theorem dormant_putWell {s : State} {i : Slot} (w : Option Well)
    (h : p ∨ w.bind (·.pendingProt) = (s.well i).bind (·.pendingProt)) : Dormant p s (putWell s i w) := by
  refine ⟨?_, ?_, fun g hg => by rw [putWell_seg]; exact hg, h.imp_right fun h j => ?_⟩
  · rw [putWell_frame]
  · rw [putWell_frame]
  · rw [putWell_well]
    split
    · rename_i e; rw [e, h]
    · rfl

theorem dormant_modWell (s : State) (i : Slot) (f : Well → Well)
    (h : p ∨ ∀ w, (f w).pendingProt = w.pendingProt := by exact Or.inr fun _ => rfl) : Dormant p s (modWell s i f) := by
  unfold modWell
  split
  · rename_i w hw
    refine dormant_putWell _ (h.imp_right fun h => ?_)
    rw [hw]
    exact h w
  · exact .refl s

theorem dormant_applyOutletRule (i : Slot) {s : State} (h : s.isDuty = false) : Dormant p s (applyOutletRule i s) := by
  have reason : ∀ b, Dormant p s (setReason i .noOutlet b s) := fun b => dormant_modWell s i _
  unfold applyOutletRule
  split
  · split
    · split
      · split
        · exact reason _
        · exact .refl s
      · split
        · exact .refl s
        · simp only [(reason true).isDuty h, Bool.false_eq_true, if_false]
          exact reason _
    · exact .refl s
  · exact .refl s

theorem dormant_outletRuleAt (i : Slot) {s : State} (h : s.isDuty = false) : Dormant p s (outletRuleAt i s) :=
  (dormant_applyOutletRule i h).trans (reports_examineSite _ _).dormant

theorem dormant_applyOutletRules (slots : List Slot) {s : State} (h : s.isDuty = false) :
    Dormant p s (applyOutletRules slots s) := by
  induction slots generalizing s with
  | nil => exact .refl s
  | cons i rest ih =>
    have a : Dormant p s (applyOutletRule i s) := dormant_applyOutletRule i h
    exact a.trans (ih (a.isDuty h))

theorem dormant_outletRuleAll (b : Bool) {s : State} (h : s.isDuty = false) : Dormant p s (outletRuleAll b s) :=
  (dormant_applyOutletRules _ h).trans (reports_examineSite _ _).dormant

theorem examinePending_standby (g : Seg) {s : State} (h : s.isDuty = false) : examinePending g s = s := by
  unfold examinePending
  rw [h]
  rfl

theorem examineAll_standby {s : State} (h : s.isDuty = false) : examineAll s = s := by
  unfold examineAll
  simp only [examinePending_standby _ h]

theorem dormant_evaluateLine (n : Line) {s : State} (h : s.isDuty = false) : Dormant p s (evaluateLine n s) := by
  have hline : (s.setLine n (s.lineRecordOf n)).isDuty = false := h
  have htreat := reports_treatLine n (s.lineRecordOf n) (s.setLine n (s.lineRecordOf n))
  have a : Dormant p s (s.setLine n (s.lineRecordOf n)) := .quiet rfl rfl rfl rfl
  exact a.trans (evaluateLine_no_pass (passDue_standby (htreat.isDuty.trans hline))).dormant

theorem dormant_runEvals {s : State} (h : s.isDuty = false) : Dormant p s (runEvals s) := by
  have a : Dormant p s { s with evalAsked := .all false } := .quiet rfl rfl rfl rfl
  have line : ∀ (b : Bool) (n : Line) {u : State}, u.isDuty = false → Dormant p u (if b then evaluateLine n u else u) := by
    intro b n u hu
    split
    · exact dormant_evaluateLine n hu
    · exact .refl u
  have e := line s.evalAsked.engine .engine (a.isDuty h)
  unfold runEvals
  exact (a.trans e).trans (line _ _ ((a.trans e).isDuty h))

theorem dormant_endBalancing (r : Ending) (s : State) : Dormant p s (endBalancing r s) := by
  unfold endBalancing
  split
  · exact dormant_modBalancer s _
  · exact .refl s

theorem dormant_leaveEffects (e : Entry) (s : State) : Dormant p s (leaveEffects e s) := by
  unfold leaveEffects
  split
  · exact dormant_endBalancing _ _
  · exact .refl s

theorem dormant_leaveAll (entries : List Entry) (s : State) : Dormant p s (leaveAll entries s) := by
  induction entries generalizing s with
  | nil => exact .refl s
  | cons e rest ih => exact (dormant_leaveEffects e s).trans (ih _)

theorem dormant_modSeg (s : State) (g : Seg) (f : Segment → Segment) (h : ∀ q, q.queue = [] → (f q).queue = []) :
    Dormant p s (s.modSeg g f) := by
  refine ⟨rfl, rfl, fun k hk => ?_, .inr fun _ => rfl⟩
  rw [State.seg_modSeg]
  split
  · rename_i e; exact h _ (e ▸ hk)
  · exact hk

theorem dormant_turnQueue (s : State) (g : Seg) : Dormant p s (turnQueue s g) :=
  (dormant_modSeg s g (fun q => { q with queue := q.queue.filterMap s.turnEntry }) fun q h => by simp [h]).trans
    (dormant_leaveAll _ _)

theorem dormant_foldSegs {f : State → Seg → State} (hf : ∀ s g, Dormant p s (f s g)) (segs : List Seg) (s : State) :
    Dormant p s (segs.foldl f s) := by
  induction segs generalizing s with
  | nil => exact .refl s
  | cons g rest ih => exact (hf s g).trans (ih _)

theorem dormant_turnPending (slots : List Slot) (s : State) (hp : p) : Dormant p s (turnPending slots s) := by
  induction slots generalizing s with
  | nil => exact .refl s
  | cons i rest ih =>
    refine Dormant.trans ?_ (ih _)
    split
    · exact .refl s
    · split
      · exact .refl s
      · split
        · exact dormant_modWell s i _ (.inl hp)
        · exact .refl s

/-- Line-lost status set and ENGINE LINE LOST raised: the first two steps of line-lost onset (R95). -/
def lostRaised (s : State) : State :=
  raiseCond .engineLineLost Config.engineSource (some (maskValue s.limits.mask)) none (s.modBalancer fun b => { b with lineLost := true })

/-- The third step: the diversion, in DUTY with FLARE open (R95, R96). -/
def lostDiverted (s : State) : State := if s.isDuty && s.isOpen .flare then diversion s else s

/-- The fourth: the queues and the pending fields turned to FLARE (R95). -/
def lostTurned (s : State) : State := turnPending allSlots (Seg.all.foldl turnQueue s)

theorem lineLostOnset_eq (s : State) :
    lineLostOnset s =
      offerLine (evaluateLine .engine (outletRuleAll true (examineAll (lostTurned (lostDiverted (lostRaised s)))))) := rfl

theorem lostDiverted_standby {s : State} (h : s.isDuty = false) : lostDiverted s = s := by
  unfold lostDiverted
  rw [h]
  rfl

theorem dormant_lostRaised (s : State) : Dormant p s (lostRaised s) :=
  (dormant_modBalancer s fun b => { b with lineLost := true }).trans (reports_raiseCond _ _ _ _ _).dormant

theorem dormant_lostTurned (s : State) (hp : p) : Dormant p s (lostTurned s) :=
  (dormant_foldSegs dormant_turnQueue Seg.all s).trans (dormant_turnPending allSlots _ hp)

theorem dormant_lineLostOnset {s : State} (h : s.isDuty = false) (hp : p) : Dormant p s (lineLostOnset s) := by
  have a : Dormant p s (lostRaised s) := dormant_lostRaised s
  have b := a.trans (dormant_lostTurned _ hp)
  have c := b.trans (dormant_outletRuleAll true (b.isDuty h))
  have e := c.trans (dormant_evaluateLine .engine (c.isDuty h))
  rw [lineLostOnset_eq, lostDiverted_standby (a.isDuty h), examineAll_standby (b.isDuty h)]
  exact e.trans (reports_offerLine _).dormant

theorem dormant_lineLostEnd {s : State} (h : s.isDuty = false) : Dormant p s (lineLostEnd s) := by
  have a : Dormant p s (s.modBalancer fun b => { b with lineLost := false }) := dormant_modBalancer s _
  have c := a.trans (dormant_outletRuleAll true (a.isDuty h))
  have e := c.trans (dormant_evaluateLine .engine (c.isDuty h))
  exact e.trans (reports_offerLine _).dormant

theorem dormant_combinationChanged (b : Bool) {s : State} (h : s.isDuty = false) (hp : p) :
    Dormant p s (combinationChanged b s) := by
  unfold combinationChanged
  split
  · split
    · exact .refl s
    · split
      · exact (reports_bumpRec _ _ _).dormant
      · exact dormant_lineLostOnset h hp
  · split
    · exact dormant_lineLostEnd h
    · exact .refl s

theorem dormant_flareFaultChanged {s : State} (h : s.isDuty = false) : Dormant p s (flareFaultChanged s) := by
  have a : Dormant p s (s.modBalancer fun b => { b with flareFault := s.trips.flareFault.accepted }) := dormant_modBalancer s _
  have c := a.trans (dormant_outletRuleAll true (a.isDuty h))
  have e := c.trans (dormant_evaluateLine .flare (c.isDuty h))
  unfold flareFaultChanged
  simp only
  split
  · exact .refl s
  · simp only [c.isDuty h, Bool.and_false, Bool.false_eq_true, if_false]
    exact e.trans (reports_offerLine _).dormant

theorem dormant_tripsChanged (b : Bool) {s : State} (h : s.isDuty = false) (hp : p) : Dormant p s (tripsChanged b s) := by
  have a : Dormant p s (combinationChanged b s) := dormant_combinationChanged b h hp
  exact a.trans (dormant_flareFaultChanged (a.isDuty h))

/-! ## Events of the trip inputs that change nothing -/

/-- Where neither the combination nor the flare fault has changed, nothing follows (R94, R99). -/
theorem tripsChanged_unchanged {b : Bool} {s : State} (hc : s.combination = b) (hl : s.balancer.lineLost = b)
    (hf : s.balancer.flareFault = s.trips.flareFault.accepted) : tripsChanged b s = s := by
  have hcomb : combinationChanged b s = s := by
    unfold combinationChanged
    rw [hc, hl]
    cases b <;> rfl
  unfold tripsChanged
  rw [hcomb]
  unfold flareFaultChanged
  exact if_pos hf.symm

/-! ## RESTART -/

/-- RESTART on the ready frame it takes. -/
theorem exec_restart_ready {s : State} {f : PlantFrame} {rest : List PlantFrame} (h : Ready s f rest) (hk : f.isKind 15 = true) :
    exec .restart s = .next (offInputsAtRestart (finishExecution f (accept (restarted (beginExecution s))))) := by
  have hn : s.nextFrame (·.isKind 15) = some f := by
    unfold State.nextFrame
    rw [h.2.1]
    simp [hk, h.2.2.1]
  show Host.Outcome.next (whileRunning executeRestart s) = _
  rw [whileRunning_free _ h.1]
  unfold executeRestart
  rw [hn]

theorem finishExecution_restarted (f : PlantFrame) (s : State) :
    finishExecution f (accept (restarted s)) = (restarted s).modLink fun k =>
      Link.joinResponse { k with unlocked := f.isKind 4 && decide (RespOutcome.accepted = .accepted) }
        (responseTo f (restarted s) .accepted none) :=
  finishExecution_settled f (a := accept (restarted s)) rfl

/-- With every input verified, nothing follows RESTART's RESPONSE. -/
theorem offInputsAtRestart_on {s : State} (h : ∀ k : Trip, s.site.intervals.get k ≠ .off) (hset : Settled s)
    (hc : s.balancer.lineLost = s.combination) (hf : s.balancer.flareFault = s.trips.flareFault.accepted) :
    offInputsAtRestart s = s := by
  have hfollow : followOff s = s := by
    unfold followOff
    refine congrArg (fun x => ({ s with trips := x } : State)) ?_
    have e : (fun t => match (s.site.intervals.get t).ms with
        | none => (s.trips.get t).follow (s.limits.activeLow.get t)
        | some _ => s.trips.get t) = s.trips.get := by
      funext t
      split
      · exact absurd ((ms_eq_none_iff _).mp ‹_›) (h t)
      · rfl
    exact (congrArg PerTrip.ofFn e).trans (PerTrip.ofFn_get _)
  unfold offInputsAtRestart
  rw [hfollow, tripsChanged_unchanged rfl hc hf, runEvals_settled hset]

/-- With every accepted state false the combination is not satisfied (R94). -/
theorem combinationOf_restarted {m : PerTrip Bool} {x : PerTrip TripFilter} (h : ∀ k : Trip, (x.get k).accepted = false) :
    combinationOf m x = false := by
  have h0 : x.trip0.accepted = false := h .trip0
  have h1 : x.trip1.accepted = false := h .trip1
  have h2 : x.trip2.accepted = false := h .trip2
  have h3 : x.trip3.accepted = false := h .trip3
  unfold combinationOf
  rw [h0, h1, h2, h3]
  cases m.trip0 <;> cases m.trip1 <;> cases m.trip2 <;> cases m.trip3 <;> rfl

/-- Settles O24: the values of the restarted state, and what the inputs of interval off leave of them. -/
theorem restartTakesItsValues : Obligations.RestartTakesItsValues := by
  unfold Obligations.RestartTakesItsValues
  refine ⟨fun s f rest h hk hon => ?_, fun s f rest h hk => ?_⟩
  · let u := finishExecution f (accept (restarted (beginExecution s)))
    have hu : u = _ := finishExecution_restarted f (beginExecution s)
    have hfour : f.isKind 4 = false := PlantFrame.isKind_eq_false hk (by decide)
    have htrips : ∀ k : Trip, u.trips.get k = ⟨(s.trips.get k).rawHigh, false, none, s.timeBase, true⟩ := fun k => by
      rw [hu]
      exact PerTrip.get_ofFn _ k
    have hcomb : u.combination = false := combinationOf_restarted fun k => by rw [htrips k]
    have hset : Settled u := by rw [hu]; rfl
    have hsite : u.site = s.site := by rw [hu]; rfl
    have hlost : u.balancer = Balancer.start s.timeBase := by rw [hu]; rfl
    have hoff : offInputsAtRestart u = u := offInputsAtRestart_on (by rw [hsite]; exact hon) hset
      (by rw [hlost, hcomb]; rfl) (by rw [hlost, show u.trips.flareFault.accepted = false from
        congrArg TripFilter.accepted (htrips .flareFault)]; rfl)
    refine ⟨u, (exec_restart_ready h hk).trans (congrArg _ hoff), ?_, fun j => ?_, fun g => ?_, htrips, ?_⟩
    · have hheld : u.held = false := by rw [hu]; exact h.1
      have e : u = { u with held := false } := by rw [← hheld]
      refine e.trans ?_
      rw [hu]
      rfl
    · rw [hu]
      exact restarted_well (beginExecution s) j
    · rw [hu]
      exact PerSeg.get_map _ _ g
    · rw [hu]
      show Link.pump _ = _
      rw [hfour]
      cases ht : s.link.transmitter with
      | none =>
        simp [Link.pump, restarted, Link.restarted, Link.reset, beginExecution, State.modLink, ht, responseTo]
        rfl
      | some v =>
        simp [Link.pump, restarted, Link.restarted, Link.reset, beginExecution, State.modLink, ht, responseTo]
        rfl
  · let u := finishExecution f (accept (restarted (beginExecution s)))
    have hu : u = _ := finishExecution_restarted f (beginExecution s)
    have keeps := keeps_offInputsAtRestart u
    have hduty : u.isDuty = false := by rw [hu]; rfl
    have hfollow : Dormant True u (followOff u) := .quiet rfl rfl rfl rfl
    have htrips := hfollow.trans (dormant_tripsChanged (p := True) u.combination (hfollow.isDuty hduty) trivial)
    have dormant : Dormant True u (offInputsAtRestart u) := htrips.trans (dormant_runEvals (htrips.isDuty hduty))
    obtain ⟨hbuffer, -, hunlocked, hmode, -⟩ := Link.pump_frame
      { (restarted (beginExecution s)).link with
        unlocked := f.isKind 4 && decide (RespOutcome.accepted = .accepted)
        reserved := false
        routine := [.response (responseTo f (restarted (beginExecution s)) .accepted none)] }
    have hseg : ∀ g, u.seg g = (s.seg g).restarted := fun g => by
      rw [hu]
      exact PerSeg.get_map _ _ g
    refine ⟨_, exec_restart_ready h hk, keeps.site.trans ?_, keeps.limits.trans ?_, keeps.kinds.trans ?_, dormant.unit.trans ?_,
      keeps.mode.trans ?_, keeps.unlocked.trans ?_, keeps.buffer.trans ?_, fun g => ⟨(keeps.settings g).trans ?_,
        dormant.empty g ?_⟩, fun j => (keeps.cfg j).trans ?_⟩
    · show u.site = _; rw [hu]; rfl
    · show u.limits = _; rw [hu]; rfl
    · show u.conds.kinds = _; rw [hu]; rfl
    · show u.unit = _; rw [hu]; rfl
    · show u.link.mode = _; rw [hu]; exact hmode
    · show u.link.unlocked = _
      rw [hu]
      refine hunlocked.trans ?_
      show (f.isKind 4 && _) = false
      rw [PlantFrame.isKind_eq_false hk (by decide : 15 ≠ 4)]
      rfl
    · show u.link.buffer = _; rw [hu]; exact hbuffer
    · show (u.seg g).settings = _; rw [hseg]; rfl
    · show (u.seg g).queue = _; rw [hseg]; rfl
    · have hw : u.well j = (s.well j).map Well.restarted := by
        rw [hu]
        exact restarted_well (beginExecution s) j
      show (u.well j).map _ = _
      rw [hw, Option.map_map]
      rfl

end Sys2Proof.Machine
end

section
/-! PROOF. The payloads of R215 read back: a number of one or two bytes is recovered from its little-endian bytes, so a load form, a
condition and a field in range parse to themselves (O10, O11); and the frames the part sends carry their check and their addresses
(O50). -/

-- One theorem at a time: the one-text build of the package runs out of threads otherwise.
set_option Elab.async false

namespace Sys2Proof.Machine

/-! ## Bytes and codes -/

theorem byte_toNat {n : Nat} (h : n < 256) : (BitVec.ofNat 8 n).toNat = n := BitVec.toNat_ofNat n 8 ▸ Nat.mod_eq_of_lt h

theorem word_toNat {n : Nat} (h : n < 65536) : (BitVec.ofNat 8 n).toNat + 256 * (BitVec.ofNat 8 (n / 256)).toNat = n := by
  rw [BitVec.toNat_ofNat, BitVec.toNat_ofNat]
  omega

theorem within_eq_some_iff {lo hi x y : Nat} : within lo hi x = some y ↔ (lo ≤ x ∧ x ≤ hi) ∧ x = y := by
  unfold within
  split <;> simp_all

theorem flagOfCode_flag (b : Bool) : flagOfCode (if b then 1 else 0) = some b := by cases b <;> rfl

theorem permitOfCode_code (p : Permit) : permitOfCode p.code = some p := by cases p <;> rfl

theorem Permit.code_lt (p : Permit) : p.code < 256 := by cases p <;> decide

theorem lineCode_lt (l : Line) : lineCode l < 256 := by cases l <;> decide

theorem segCode_lt (g : Seg) : segCode g < 256 := by cases g <;> decide

theorem flagCode_lt (b : Bool) : (if b then 1 else 0) < 256 := by cases b <;> decide

/-! ## LOAD WELL -/

theorem WellLoad.parse_inRange {p : List Byte} {x : WellLoad} (h : WellLoad.parse p = some x) : x.cfg.InRange := by
  obtain ⟨slot, -, h⟩ := Option.bind_eq_some_iff.mp h
  obtain ⟨address, haddress, h⟩ := Option.bind_eq_some_iff.mp h
  obtain ⟨seg, -, h⟩ := Option.bind_eq_some_iff.mp h
  obtain ⟨inService, -, h⟩ := Option.bind_eq_some_iff.mp h
  obtain ⟨permitted, -, h⟩ := Option.bind_eq_some_iff.mp h
  obtain ⟨initial, -, h⟩ := Option.bind_eq_some_iff.mp h
  obtain ⟨pmax, hpmax, h⟩ := Option.bind_eq_some_iff.mp h
  obtain ⟨pmin, hpmin, h⟩ := Option.bind_eq_some_iff.mp h
  obtain ⟨step, hstep, h⟩ := Option.bind_eq_some_iff.mp h
  obtain ⟨ch4, hch4, h⟩ := Option.bind_eq_some_iff.mp h
  obtain ⟨deadband, hdeadband, h⟩ := Option.bind_eq_some_iff.mp h
  obtain ⟨o2, ho2, h⟩ := Option.bind_eq_some_iff.mp h
  obtain ⟨balance, hbalance, h⟩ := Option.bind_eq_some_iff.mp h
  obtain ⟨flow, hflow, h⟩ := Option.bind_eq_some_iff.mp h
  obtain rfl := Option.some.inj h
  rw [within_eq_some_iff] at haddress hpmax hpmin hstep hch4 hdeadband ho2 hbalance hflow
  have hgain := byteAt_lt p 11
  refine ⟨?_, ?_, ?_, ?_, ?_, ?_, ?_, ?_, ?_, ?_⟩ <;> dsimp only <;> omega

theorem leBytes_one (n : Nat) : leBytes 1 n = [BitVec.ofNat 8 n] := rfl

theorem leBytes_two (n : Nat) : leBytes 2 n = [BitVec.ofNat 8 n, BitVec.ofNat 8 (n / 256)] := rfl

theorem WellLoad.payload_eq (x : WellLoad) :
    x.payload = [BitVec.ofNat 8 x.slot.val, BitVec.ofNat 8 x.cfg.address, BitVec.ofNat 8 (segCode x.cfg.seg),
      BitVec.ofNat 8 (if x.cfg.inService then 1 else 0), BitVec.ofNat 8 x.cfg.permitted.code,
      BitVec.ofNat 8 (lineCode x.initial), BitVec.ofNat 8 x.cfg.pmin, BitVec.ofNat 8 (x.cfg.pmin / 256),
      BitVec.ofNat 8 x.cfg.pmax, BitVec.ofNat 8 (x.cfg.pmax / 256), BitVec.ofNat 8 x.cfg.step, BitVec.ofNat 8 x.cfg.gain,
      BitVec.ofNat 8 x.cfg.ch4Target, BitVec.ofNat 8 (x.cfg.ch4Target / 256), BitVec.ofNat 8 x.cfg.deadband,
      BitVec.ofNat 8 x.cfg.o2Soft, BitVec.ofNat 8 x.cfg.balanceCeiling, BitVec.ofNat 8 (x.cfg.balanceCeiling / 256),
      BitVec.ofNat 8 x.cfg.assumedFlow, BitVec.ofNat 8 (x.cfg.assumedFlow / 256)] := by
  simp only [WellLoad.payload, leBytes_one, leBytes_two, List.cons_append, List.nil_append]

theorem WellLoad.parse_payload {x : WellLoad} (h : x.cfg.InRange) : WellLoad.parse x.payload = some x := by
  obtain ⟨haddress, hrange, hpmax, hstep, hgain, hch4, hdeadband, ho2, hbalance, hflow⟩ := h
  rw [WellLoad.payload_eq]
  generalize hp : ([_, _, _, _, _, _, _, _, _, _, _, _, _, _, _, _, _, _, _, _] : List Byte) = p
  have hslot : slotOfCode (byteAt p 0) = some x.slot := hp ▸
    (congrArg slotOfCode (byte_toNat (by omega))).trans (slotOfCode_val _)
  have address : byteAt p 1 = x.cfg.address := hp ▸ byte_toNat (n := x.cfg.address) (by omega)
  have seg : segOfCode (byteAt p 2) = some x.cfg.seg := hp ▸
    (congrArg segOfCode (byte_toNat (segCode_lt _))).trans (segOfCode_segCode _)
  have service : flagOfCode (byteAt p 3) = some x.cfg.inService := hp ▸
    (congrArg flagOfCode (byte_toNat (flagCode_lt _))).trans (flagOfCode_flag _)
  have permitted : permitOfCode (byteAt p 4) = some x.cfg.permitted := hp ▸
    (congrArg permitOfCode (byte_toNat (Permit.code_lt _))).trans (permitOfCode_code _)
  have initial : lineOfCode (byteAt p 5) = some x.initial := hp ▸
    (congrArg lineOfCode (byte_toNat (lineCode_lt _))).trans (lineOfCode_lineCode _)
  have pmin : wordAt p 6 = x.cfg.pmin := hp ▸ word_toNat (n := x.cfg.pmin) (by omega)
  have pmax : wordAt p 8 = x.cfg.pmax := hp ▸ word_toNat (n := x.cfg.pmax) (by omega)
  have step : byteAt p 10 = x.cfg.step := hp ▸ byte_toNat (n := x.cfg.step) (by omega)
  have gain : byteAt p 11 = x.cfg.gain := hp ▸ byte_toNat (n := x.cfg.gain) (by omega)
  have ch4 : wordAt p 12 = x.cfg.ch4Target := hp ▸ word_toNat (n := x.cfg.ch4Target) (by omega)
  have deadband : byteAt p 14 = x.cfg.deadband := hp ▸ byte_toNat (n := x.cfg.deadband) (by omega)
  have o2 : byteAt p 15 = x.cfg.o2Soft := hp ▸ byte_toNat (n := x.cfg.o2Soft) (by omega)
  have balance : wordAt p 16 = x.cfg.balanceCeiling := hp ▸ word_toNat (n := x.cfg.balanceCeiling) (by omega)
  have flow : wordAt p 18 = x.cfg.assumedFlow := hp ▸ word_toNat (n := x.cfg.assumedFlow) (by omega)
  unfold WellLoad.parse
  rw [hslot, address, seg, service, permitted, initial, pmin, pmax, step, gain, ch4, deadband, o2, balance, flow,
    within_eq_some haddress.1 haddress.2, within_eq_some (Nat.zero_le _) hpmax, within_eq_some hstep.1 hstep.2,
    within_eq_some (Nat.zero_le _) hch4, within_eq_some (Nat.zero_le _) hdeadband, within_eq_some (Nat.zero_le _) ho2,
    within_eq_some (Nat.zero_le _) hbalance, within_eq_some (Nat.zero_le _) hflow]
  show (within 0 x.cfg.pmax x.cfg.pmin).bind _ = _
  rw [within_eq_some (Nat.zero_le _) hrange]
  rfl

/-! ## LOAD CONDITION -/

theorem CondKind.code_lt (k : CondKind) : k.code < 256 := by cases k <;> decide

theorem parseCondition_payload {k : CondKind} {x : KindSetting} (h : x.level ≤ 7) :
    parseCondition (leBytes 1 k.code ++ leBytes 1 x.level ++ leBytes 1 (if x.masked then 1 else 0)) = some (k, x) := by
  let p := leBytes 1 k.code ++ leBytes 1 x.level ++ leBytes 1 (if x.masked then 1 else 0)
  have kind : condKindOfCode (byteAt p 0) = some k :=
    (congrArg condKindOfCode (byte_toNat (CondKind.code_lt _))).trans (condKindOfCode_code _)
  have level : byteAt p 1 = x.level := byte_toNat (by omega)
  have masked : flagOfCode (byteAt p 2) = some x.masked :=
    (congrArg flagOfCode (byte_toNat (flagCode_lt _))).trans (flagOfCode_flag _)
  show parseCondition p = _
  unfold parseCondition
  rw [kind, level, masked, within_eq_some (Nat.zero_le _) h]
  rfl

theorem setting_set (c : Conditions) (k j : CondKind) (x : KindSetting) (w u : List CondRec) :
    (Conditions.mk (c.kinds.set k.idx.val x k.idx.isLt) w u).setting j = if j = k then x else c.setting j := by
  unfold Conditions.setting
  by_cases hj : j = k
  · subst hj
    rw [if_pos rfl]
    exact Vector.getElem_set_self _
  · have hne : k.idx.val ≠ j.idx.val := fun e => hj (CondKind.idx_inj _ _ (Fin.ext e.symm))
    rw [if_neg hj]
    exact Vector.getElem_set_ne k.idx.isLt j.idx.isLt hne

/-- Settles O10: a load in STANDBY writes the setting and sorts the relevelled records, and nothing is taken. -/
theorem loadConditionRelevelsPendingRecords : Obligations.LoadConditionRelevelsPendingRecords := by
  unfold Obligations.LoadConditionRelevelsPendingRecords
  refine ⟨⟨fun p k x hp => parseCondition_level hp, fun k x => parseCondition_payload⟩, fun s f rest h hk => ?_⟩
  have hfour : f.isKind 4 = false := PlantFrame.isKind_eq_false hk (by decide)
  refine ⟨fun hp => Row.loadCondition.exec_refuse h hk (by unfold runLoadCondition; rw [hp]) (by decide),
    fun k x hp => ⟨fun hsame => ?same, fun hstandby => ?changed⟩⟩
  case same =>
    refine Row.loadCondition.exec_answer h hk h ?_ (.inr hfour)
    unfold runLoadCondition
    rw [hp]
    exact congrArg accept (if_pos hsame)
  case changed =>
    by_cases hsame : s.conds.setting k = x
    · refine ⟨_, Row.loadCondition.exec_answer h hk h (o := .accepted) (d := none) ?_ (.inr hfour), rfl, hsame, fun _ _ => rfl, rfl,
        fun hne => absurd hsame hne⟩
      unfold runLoadCondition
      rw [hp]
      exact congrArg accept (if_pos hsame)
    · let u : State := s.modConds fun c =>
        { c with
          kinds := c.kinds.set k.idx.val x k.idx.isLt
          waiting := sortRecs (c.waiting.map fun r => if r.kind = k then { r with level := x.level } else r) }
      have hu : Ready u f rest := h
      refine ⟨_, Row.loadCondition.exec_answer h hk hu (o := .accepted) (d := none) ?_ (.inr hfour), rfl, ?_, fun j hj => ?_, rfl,
        fun _ => perm_sortRecs _⟩
      · unfold runLoadCondition
        rw [hp]
        refine congrArg accept ((if_neg hsame).trans ?_)
        exact evalTaking_standby (s := beginExecution u) (decide_eq_false (by show s.unit.role ≠ _; rw [hstandby]; decide))
      · exact (setting_set s.conds k k x _ _).trans (if_pos rfl)
      · exact (setting_set s.conds k j x _ _).trans (if_neg hj)

/-! ## The checks of LOAD WELL (R20) -/

theorem addressHeld_iff (s : State) (i : Slot) (a : Nat) :
    s.addressHeld i a = true ↔ ∃ (j : Slot) (v : Well), j ≠ i ∧ s.well j = some v ∧ v.cfg.address = a := by
  unfold State.addressHeld
  rw [List.any_eq_true]
  constructor
  · rintro ⟨j, -, hj⟩
    cases hw : s.well j with
    | none => simp [hw] at hj
    | some v => exact ⟨j, v, by simpa [hw] using hj⟩
  · rintro ⟨j, v, hne, hw, ha⟩
    exact ⟨j, allSlots_mem j, by simp [hne, hw, ha]⟩

theorem addressHeld_free {s : State} {i : Slot} {a : Nat}
    (h : ∀ (j : Slot) (v : Well), j ≠ i → s.well j = some v → v.cfg.address ≠ a) : s.addressHeld i a = false :=
  Bool.eq_false_iff.mpr fun e => by
    obtain ⟨j, v, hj, hv, ha⟩ := (addressHeld_iff s i a).mp e
    exact h j v hj hv ha

/-- An outlet is missing from the permitted outlets a load carries. -/
def WellLoad.lacks (x : WellLoad) (l : Line) : Bool := !x.cfg.permitted.allows l

theorem notPermitted_vacant {s : State} {x : WellLoad} (h : s.well x.slot = none) : s.notPermitted x = x.lacks x.initial := by
  unfold State.notPermitted
  rw [h]
  rfl

theorem notPermitted_loaded {s : State} {x : WellLoad} {w : Well} (h : s.well x.slot = some w) :
    s.notPermitted x = ((if w.cfg.inService then x.lacks w.outlet else x.lacks x.initial) ||
      (s.entryOf x.slot).any (fun e => x.lacks e.outlet) || w.pendingProt.any (fun p => x.lacks p.outlet) ||
      w.move.any (fun m => x.lacks m.outlet)) := by
  unfold State.notPermitted
  rw [h]
  dsimp only
  rw [working_some]
  cases s.entryOf x.slot <;> cases w.pendingProt <;> cases w.move <;> rfl

theorem keepsOutlets_iff (s : State) (x : WellLoad) (w : Well) :
    KeepsOutlets s x w ↔ x.lacks w.outlet = false ∧ (s.entryOf x.slot).any (fun e => x.lacks e.outlet) = false ∧
      w.pendingProt.any (fun p => x.lacks p.outlet) = false ∧ w.move.any (fun m => x.lacks m.outlet) = false := by
  unfold KeepsOutlets WellLoad.lacks
  cases s.entryOf x.slot <;> cases w.pendingProt <;> cases w.move <;> simp

theorem notPermitted_parked {s : State} {x : WellLoad} {w : Well} (h : s.well x.slot = some w) (hs : w.cfg.inService = false)
    (hk : KeepsOutlets s x { w with outlet := x.initial }) : s.notPermitted x = false := by
  obtain ⟨hout, hentry, hpending, hmove⟩ := (keepsOutlets_iff _ _ _).mp hk
  rw [notPermitted_loaded h, hs, hentry, hpending, hmove, if_neg Bool.false_ne_true, hout]
  rfl

theorem notPermitted_working {s : State} {x : WellLoad} {w : Well} (h : s.well x.slot = some w) (hs : w.cfg.inService = true)
    (hk : KeepsOutlets s x w) : s.notPermitted x = false := by
  obtain ⟨hout, hentry, hpending, hmove⟩ := (keepsOutlets_iff _ _ _).mp hk
  rw [notPermitted_loaded h, hs, hentry, hpending, hmove, if_pos rfl, hout]
  rfl

theorem stateOf_working {s : State} {i : Slot} {w : Well} (h : s.well i = some w) : (s.stateOf i).working = w.cfg.inService := by
  unfold State.stateOf
  rw [h, working_some]

theorem loadInUse_some {s : State} {x : WellLoad} {w : Well} (h : s.well x.slot = some w) :
    s.loadInUse x = (w.cfg.inService && (!decide (w.cfg.address = x.cfg.address) || !decide (w.cfg.seg = x.cfg.seg) ||
      (!x.cfg.inService && s.busy x.slot))) := by
  unfold State.loadInUse
  rw [h]
  dsimp only
  rw [working_some]

theorem busy_of {s : State} {i : Slot} {w : Well} (h : s.well i = some w) (hb : w.move.isSome = true ∨ s.setInFlight i = true) :
    s.busy i = true := by
  unfold State.busy
  rw [h]
  exact Bool.or_eq_true_iff.mpr hb

theorem not_busy {s : State} {i : Slot} {w : Well} (h : s.well i = some w) (hm : w.move = none) (hf : s.setInFlight i = false) :
    s.busy i = false := by
  unfold State.busy
  rw [h, hf]
  simp [hm]

theorem runLoadWell_some {f : PlantFrame} {x : WellLoad} (hp : WellLoad.parse f.payload = some x) (s : State) :
    runLoadWell f s =
      if s.addressHeld x.slot x.cfg.address then refuse .duplicate s
      else if s.notPermitted x then refuse .notPermitted s
      else if s.loadInUse x then refuse .inUse s
      else accept (loadSlot x s) := by
  unfold runLoadWell
  rw [hp]

theorem takes_loadWell {f : PlantFrame} (hk : f.isKind 1 = true) (hl : f.payload.length = 20) : takes .loadWell f = true := by
  show (f.isKind 1 && f.payload.length == 20) = true
  rw [hk, hl]
  rfl

/-- Settles O11: the checks of `runLoadWell` in their order, on the state the execution begins with. -/
theorem loadWellRefusesInOrder : Obligations.LoadWellRefusesInOrder := by
  unfold Obligations.LoadWellRefusesInOrder
  refine ⟨⟨fun p x => WellLoad.parse_inRange, fun x => WellLoad.parse_payload⟩, fun s f rest h hk hl => ?_⟩
  have refused {o : RespOutcome} (he : runLoadWell f (beginExecution s) = refuse o (beginExecution s)) (ho : o ≠ .accepted) :
      exec .loadWell s = .next (s.answer f rest o none) := Row.loadWell.exec_refuse h (takes_loadWell hk hl) he ho
  refine ⟨fun hp => refused (by unfold runLoadWell; rw [hp]) (by decide), fun x hp => ?_⟩
  have run := runLoadWell_some hp (beginExecution s)
  refine ⟨fun hdup => refused (run.trans (if_pos ((addressHeld_iff s _ _).mpr hdup))) (by decide), fun hfree => ?_⟩
  have hheld : (beginExecution s).addressHeld x.slot x.cfg.address = false := addressHeld_free (s := s) hfree
  rw [hheld, if_neg Bool.false_ne_true] at run
  have missing (he : s.notPermitted x = true) : exec .loadWell s = .next (s.answer f rest .notPermitted none) :=
    refused (run.trans (if_pos he)) (by decide)
  refine ⟨fun hwork hlack => missing ?_, fun w hw hwork => ⟨fun hlack => missing ?_, fun hboth huse => refused (run.trans ?_) (by decide)⟩⟩
  · have hx : x.lacks x.initial = true := by simp [WellLoad.lacks, hlack]
    cases hw : s.well x.slot with
    | none => exact (notPermitted_vacant hw).trans hx
    | some w =>
      have hs : w.cfg.inService = false := (stateOf_working hw).symm.trans hwork
      simp [notPermitted_loaded hw, hs, hx]
  · have hs : w.cfg.inService = true := (stateOf_working hw).symm.trans hwork
    rw [notPermitted_loaded hw, hs]
    rcases hlack with ho | ⟨e, he, ho⟩ | ⟨p, hpend, ho⟩ | ⟨m, hm, ho⟩
    · simp [WellLoad.lacks, ho]
    · simp [WellLoad.lacks, he, ho]
    · simp [WellLoad.lacks, hpend, ho]
    · simp [WellLoad.lacks, hm, ho]
  · have hs : w.cfg.inService = true := (stateOf_working hw).symm.trans hwork
    have hallows : ∀ l, x.cfg.permitted.allows l = true := fun l => by rw [hboth]; rfl
    have hperm : (beginExecution s).notPermitted x = false :=
      notPermitted_working (s := s) hw hs ⟨hallows _, fun _ _ => hallows _, fun _ _ => hallows _, fun _ _ => hallows _⟩
    have hin : (beginExecution s).loadInUse x = true := by
      refine (loadInUse_some (s := beginExecution s) hw).trans ?_
      rw [hs]
      rcases huse with ha | hg | ⟨hp, hb⟩
      · simp [Ne.symm ha]
      · simp [Ne.symm hg]
      · simp [hp, show (beginExecution s).busy x.slot = true from busy_of (s := s) hw hb]
    rw [hperm, hin]
    rfl

/-! ## Vacant and parked slots -/

/-- A slot off a roster is not placed on it. -/
theorem placeRoster_off {wells : Vector (Option Well) 96} {i : Slot} {l : Line} {roster : List Slot}
    (h : rosterLine wells[i.val] = none) (hi : i ∉ roster) : placeRoster wells i l roster = roster := by
  have hf : roster.filter (fun j => !decide (j = i)) = roster :=
    List.filter_eq_self.mpr fun j hj => by
      have : j ≠ i := fun e => hi (e ▸ hj)
      simp [this]
  unfold placeRoster
  simp [h, hf]

theorem RosterLaw.off {s : State} (h : RosterLaw s) {i : Slot} (hi : rosterLine (s.well i) = none) (l : Line) :
    i ∉ s.rosters.get l := fun hm => by
  have e := ((h l).2.1 i).mp hm
  rw [hi] at e
  exact nomatch e

/-- A record that stands on no roster, written where none stood on one, changes the Well Table alone. -/
theorem putWell_off {s : State} {i : Slot} {w : Option Well} (h : RosterLaw s) (hold : rosterLine (s.well i) = none)
    (hnew : rosterLine w = none) : putWell s i w = { s with wells := s.wells.set i.val w i.isLt } := by
  have hget : rosterLine (s.wells.set i.val w i.isLt)[i.val] = none := by rw [Vector.getElem_set_self]; exact hnew
  rw [putWell_of_line (hold.trans hnew.symm), placeRoster_off (roster := s.rosters.engine) hget (h.off hold .engine),
    placeRoster_off (roster := s.rosters.flare) hget (h.off hold .flare)]

theorem rosterLine_parked {w : Well} (h : w.cfg.inService = false) : rosterLine (some w) = none := by
  rw [rosterLine_some, h]
  rfl

theorem wellState_fresh (c : WellCfg) (l : Line) :
    wellState (some (Well.fresh c l)) = if c.inService then .listed else .parked := by
  cases hc : c.inService <;> simp [wellState, Well.fresh, hc]

theorem loadSlot_idle {s : State} {x : WellLoad} (h : ∀ w, s.well x.slot = some w → w.cfg.inService = false) :
    loadSlot x s = putWell s x.slot (some (Well.fresh x.cfg x.initial)) := by
  have hf : (s.well x.slot).filter (fun w => (wellState (some w)).working) = none := by
    cases hw : s.well x.slot with
    | none => rfl
    | some w => rw [Option.filter_some, working_some, h w hw]; rfl
  unfold loadSlot
  rw [hf]

theorem loadSlot_working {s : State} {x : WellLoad} {w : Well} (hw : s.well x.slot = some w) (hs : w.cfg.inService = true) :
    loadSlot x s = if x.cfg.inService then liveChange x.slot w x.cfg s else park x.slot w x.cfg s := by
  have hf : (s.well x.slot).filter (fun w => (wellState (some w)).working) = some w := by
    rw [hw, Option.filter_some, working_some, hs]
    rfl
  unfold loadSlot
  rw [hf]

/-- Settles O12: an idle slot stands on no roster before and after its load, so that its record alone is written. -/
theorem loadWellFillsVacantAndParkedSlots : Obligations.LoadWellFillsVacantAndParkedSlots := by
  unfold Obligations.LoadWellFillsVacantAndParkedSlots
  intro s f rest x h hroster hk hl hp hfree hinitial hidle
  have hfour : f.isKind 4 = false := PlantFrame.isKind_eq_false hk (by decide)
  have hlack : x.lacks x.initial = false := by simp [WellLoad.lacks, hinitial]
  have hpark : ∀ w, s.well x.slot = some w → w.cfg.inService = false := fun w hw => by
    rcases hidle with hn | ⟨v, hv, hs, -⟩
    · rw [hn] at hw
      exact nomatch hw
    · rw [hv] at hw
      exact Option.some.inj hw ▸ hs
  have hperm : s.notPermitted x = false := by
    rcases hidle with hn | ⟨v, hv, hs, hkeep⟩
    · rw [notPermitted_vacant hn, hlack]
    · exact notPermitted_parked hv hs hkeep
  have hin : s.loadInUse x = false := by
    cases hw : s.well x.slot with
    | none => unfold State.loadInUse; rw [hw]
    | some w => rw [loadInUse_some hw, hpark w hw]; rfl
  have hold : rosterLine (s.well x.slot) = none := by
    cases hw : s.well x.slot with
    | none => rfl
    | some w => exact rosterLine_parked (hpark w hw)
  let u : State := { s with wells := s.wells.set x.slot.val (some (Well.fresh x.cfg x.initial)) x.slot.isLt }
  have hput : putWell s x.slot (some (Well.fresh x.cfg x.initial)) = u := putWell_off hroster hold (rosterLine_fresh _ _)
  have hwell : ∀ j, u.well j = if j = x.slot then some (Well.fresh x.cfg x.initial) else s.well j := fun j =>
    (congrArg (State.well · j) hput).symm.trans (putWell_well _ _ _ _)
  have hu : Ready u f rest := h
  refine ⟨_, Row.loadWell.exec_answer h (takes_loadWell hk hl) hu (o := .accepted) (d := none) ?_ (.inr hfour), rfl, ?_, fun j hj => ?_, ?_⟩
  · have hload : loadSlot x (beginExecution s) = beginExecution u :=
      (loadSlot_idle (s := beginExecution s) hpark).trans (putWell_off (s := beginExecution s) hroster hold (rosterLine_fresh _ _))
    rw [runLoadWell_some hp, show (beginExecution s).addressHeld x.slot x.cfg.address = false from addressHeld_free (s := s) hfree,
      show (beginExecution s).notPermitted x = false from hperm, show (beginExecution s).loadInUse x = false from hin, hload]
    rfl
  · exact (hwell x.slot).trans (if_pos rfl)
  · exact (hwell j).trans (if_neg hj)
  · exact (congrArg wellState ((hwell x.slot).trans (if_pos rfl))).trans (wellState_fresh _ _)

/-! ## Vacating (R27) -/

theorem forgetPoll_well (i j : Slot) (s : State) : (forgetPoll i s).well j = s.well j := rfl

theorem vacate_key (i : Slot) (w : Well) (s : State) {j : Slot} (hj : j ≠ i) :
    ((vacate i w s).well j).map Well.key = (s.well j).map Well.key := by
  refine ((inner_withdrawSlot (d := False) i _).key j).trans (((inner_removeEntry (d := False) w.cfg.seg i _).key j).trans ?_)
  rw [putWell_well, if_neg hj, forgetPoll_well]

theorem vacate_vacant (i : Slot) (w : Well) (s : State) : (vacate i w s).well i = none := by
  have h := vacate_cfg i w s i
  rw [if_pos rfl] at h
  exact Option.map_eq_none_iff.mp h

theorem finishExecution_key (f : PlantFrame) (a : Answer) (j : Slot) :
    ((finishExecution f a).well j).map Well.key = (a.state.well j).map Well.key := (inner_runEvals (d := False) a.state).key j

theorem runVacate_some {f : PlantFrame} {s : State} {i : Slot} {w : Well} (hi : byteAt f.payload 0 = i.val) (hw : s.well i = some w) :
    runVacate f s = if s.busy i then refuse .inUse s else accept (vacate i w s) := by
  unfold runVacate
  rw [hi, slotOfCode_val]
  dsimp only
  rw [hw]

/-- Settles O14: the checks of `runVacate`, and the keys that vacating leaves. -/
theorem vacateFreesTheSlot : Obligations.VacateFreesTheSlot := by
  unfold Obligations.VacateFreesTheSlot
  intro s f rest h hk hl
  have htake : takes .loadWellVacate f = true := by
    show (f.isKind 1 && f.payload.length == 1) = true
    rw [hk, hl]
    rfl
  have refused {o : RespOutcome} (he : runVacate f (beginExecution s) = refuse o (beginExecution s)) (ho : o ≠ .accepted) :
      exec .loadWellVacate s = .next (s.answer f rest o none) := Row.loadWellVacate.exec_refuse h htake he ho
  refine ⟨fun hbad => refused ?_ (by decide), fun i hi => ⟨fun hn => refused ?_ (by decide), fun w hw =>
    ⟨fun hb => refused ?_ (by decide), fun hm hf => ?_⟩⟩⟩
  · unfold runVacate
    rw [slotOfCode_eq_none hbad]
  · unfold runVacate
    rw [hi, slotOfCode_val]
    dsimp only
    rw [show (beginExecution s).well i = none from hn]
  · rw [runVacate_some (s := beginExecution s) hi hw, show (beginExecution s).busy i = true from busy_of (s := s) hw hb]
    rfl
  · have hrun : runVacate f (beginExecution s) = accept (vacate i w (beginExecution s)) := by
      rw [runVacate_some (s := beginExecution s) hi hw, show (beginExecution s).busy i = false from not_busy (s := s) hw hm hf]
      rfl
    have hvacant : (finishExecution f (runVacate f (beginExecution s))).well i = none := by
      have hkey := finishExecution_key f (runVacate f (beginExecution s)) i
      rw [hrun] at hkey ⊢
      rw [show (accept (vacate i w (beginExecution s))).state.well i = none from vacate_vacant i w _] at hkey
      exact Option.map_eq_none_iff.mp hkey
    refine ⟨_, Row.loadWellVacate.exec_ready h htake, hvacant, congrArg wellState hvacant, fun j hj => ?_⟩
    refine (finishExecution_key f _ j).trans ?_
    rw [hrun]
    exact vacate_key i w (beginExecution s) hj

end Sys2Proof.Machine
end

section
/-! PROOF. The frames the part sends: the check is computed over what it covers, an address survives the reversal of its bits, and
the payloads of chapter 10 have their lengths (O50). -/

-- One theorem at a time: the one-text build of the package runs out of threads otherwise.
set_option Elab.async false

namespace Sys2Proof.Machine

/-! ## Addresses and checks -/

theorem reverseByte_eq_reverse (b : Byte) : reverseByte b = b.reverse := by
  apply BitVec.eq_of_getLsbD_eq
  intro i hi
  rw [BitVec.getLsbD_reverse]
  unfold reverseByte
  interval_cases i <;> simp [BitVec.ofBoolListBE, BitVec.getElem_cons, BitVec.getMsbD]

theorem addressOf_addressByte {n : Nat} (h : n < 256) : addressOf (addressByte n) = n := by
  unfold addressOf addressByte
  rw [reverseByte_eq_reverse, reverseByte_eq_reverse, BitVec.reverse_reverse_eq]
  exact byte_toNat h

theorem make_checkGood (src dst kind : Nat) (p : List Byte) : (FieldFrame.make src dst kind p).checkGood = true :=
  beq_self_eq_true _

theorem plantMake_checkGood (kind tag : Nat) (p : List Byte) : (PlantFrame.make kind tag p).checkGood = true :=
  beq_self_eq_true _

theorem uplink_checkGood (u : Uplink) : u.frame.checkGood = true := by
  cases u <;> exact plantMake_checkGood _ _ _

/-! ## Lengths -/

@[simp] theorem leBytes_length (n x : Nat) : (leBytes n x).length = n := by
  induction n generalizing x with
  | zero => rfl
  | succ n ih => exact congrArg (· + 1) (ih _)

@[simp] theorem leSigned_length (n : Nat) (x : Int) : (leSigned n x).length = n := leBytes_length _ _

@[simp] theorem byte1_length (n : Nat) : (byte1 n).length = 1 := leBytes_length _ _

@[simp] theorem byte2_length (n : Nat) : (byte2 n).length = 2 := leBytes_length _ _

@[simp] theorem timeBytes_length (t : Nat) : (timeBytes t).length = 6 := leBytes_length _ _

theorem orZero_length {α : Type} {n : Nat} {enc : α → List Byte} (h : ∀ x, (enc x).length = n) (o : Option α) :
    (orZero n enc o).length = n := by
  cases o with
  | none => exact leBytes_length _ _
  | some x => exact h x

theorem faultBytes_length (l : List WellFault) : (faultBytes l).length = 4 := by
  simp [faultBytes]

theorem gasBytes_length (x : GasBlock) : x.bytes.length = 8 := by simp [GasBlock.bytes]

theorem reportBytes_length (r : Report) : r.bytes.length = 45 := by
  have gas : (orZero 8 GasBlock.bytes r.sample.gas).length = 8 := orZero_length gasBytes_length _
  have temperature : (orZero 1 (leSigned 1) r.sample.temperature).length = 1 := orZero_length (leSigned_length 1) _
  have target : (orZero 2 byte2 r.target).length = 2 := orZero_length byte2_length _
  have moveEnd : (orZero 1 (fun e : Ending => byte1 e.code) r.moveEnd).length = 1 := orZero_length (fun _ => byte1_length _) _
  have command : (orZero 1 (fun c : Cls => byte1 (clsCode c)) r.command).length = 1 := orZero_length (fun _ => byte1_length _) _
  unfold Report.bytes
  simp only [List.length_append, byte1_length, byte2_length, timeBytes_length, leSigned_length, faultBytes_length, gas, temperature,
    target, moveEnd, command]

theorem lineBlockBytes_length (b : LineBlock) : b.bytes.length = 18 := by
  simp [LineBlock.bytes, orZero_length byte2_length, orZero_length timeBytes_length]

theorem lineBytes_length (l : LineSummary) : l.bytes.length = 74 := by
  simp [LineSummary.bytes, lineBlockBytes_length, orZero_length timeBytes_length,
    orZero_length (n := 3) (enc := demandBytes) (fun _ => by simp [demandBytes]), orZero_length (n := 6) (enc := BalMove.bytes) (fun _ => by simp [BalMove.bytes]),
    orZero_length (n := 7) (enc := endBytes) (fun _ => by simp [endBytes])]

theorem condBytes_length (n : CondNotice) : n.bytes.length = 26 := by
  simp [CondNotice.bytes, orZero_length (n := 2) (enc := stationBytes) (fun _ => by simp [stationBytes]), orZero_length (leSigned_length 2)]

theorem roleBytes_length (n : RoleNotice) : n.bytes.length = 17 := by
  simp [RoleNotice.bytes, orZero_length (n := 2) (enc := stationBytes) (fun _ => by simp [stationBytes]),
    orZero_length (n := 3) (enc := fun c : Nat × Nat => byte1 c.1 ++ byte2 c.2) (fun _ => by simp), orZero_length byte1_length]

/-! ## Frames -/

theorem plantCovered_eq (f : PlantFrame) : f.covered = leBytes 2 f.payload.length ++ [f.kind, f.tag] ++ f.payload := by
  simp [PlantFrame.covered]

theorem uplink_characters (u : Uplink) :
    u.characters = 0x7E#8 :: u.frame.covered ++ leBytes 2 (crc u.frame.covered).toNat := by
  have h : u.frame.check = crc u.frame.covered := (beq_iff_eq.mp (uplink_checkGood u)).symm
  unfold Uplink.characters
  rw [h]

theorem ofNat_tag (b : Byte) : BitVec.ofNat 8 b.toNat = b := by simp

/-- Settles O50: the frames are made with the check computed over them, and their payloads have the lengths of 10.7. -/
theorem sentFramesCarryTheirCheckAndAddresses : Obligations.SentFramesCarryTheirCheckAndAddresses := by
  unfold Obligations.SentFramesCarryTheirCheckAndAddresses
  refine ⟨?check, fun src dst kind p hs hd => ⟨make_checkGood _ _ _ _, addressOf_addressByte hs, addressOf_addressByte hd, rfl, rfl⟩,
    ?poll, fun kind tag p => ⟨plantMake_checkGood _ _ _, rfl⟩, fun u => ⟨uplink_checkGood u, ?_, ?_⟩, ?addresses⟩
  case check => decide +kernel
  case poll => rfl
  case addresses => decide
  · rw [uplink_characters, plantCovered_eq]
  · cases u with
    | response r => exact ⟨rfl, ofNat_tag _⟩
    | report r => exact ⟨rfl, rfl, reportBytes_length r⟩
    | line l => exact ⟨rfl, rfl, lineBytes_length l⟩
    | condition n => exact ⟨rfl, rfl, condBytes_length n⟩
    | role n => exact ⟨rfl, rfl, roleBytes_length n⟩

end Sys2Proof.Machine
end

section
/-! PROOF. The execution of a plant frame (O6): whatever a row does, the time base, the buffer and the RESPONSEs the uplink holds are
left, so that the RESPONSE that `finishExecution` joins is the only one and the last frame queued. -/

-- One theorem at a time: the one-text build of the package runs out of threads otherwise.
set_option Elab.async false

namespace Sys2Proof.Machine

/-! ## What every row leaves -/

/-- From `s` to `t` the time base, the receive buffer and the RESPONSEs the uplink holds are the same. -/
structure Steady (s t : State) : Prop where
  timeBase : t.timeBase = s.timeBase
  buffer : t.link.buffer = s.link.buffer
  responses : t.link.responses.Perm s.link.responses

theorem Steady.refl (s : State) : Steady s s := ⟨rfl, rfl, .refl _⟩

theorem Steady.trans {s t u : State} (a : Steady s t) (b : Steady t u) : Steady s u :=
  ⟨b.timeBase.trans a.timeBase, b.buffer.trans a.buffer, b.responses.trans a.responses⟩

theorem Steady.quiet {s t : State} (timeBase : t.timeBase = s.timeBase) (link : t.link = s.link) : Steady s t :=
  ⟨timeBase, congrArg Link.buffer link, .of_eq (congrArg Link.responses link)⟩

theorem Inner.steady {d e l : Prop} {s t : State} (a : Inner d s t) (c : Calm e l s t) : Steady s t :=
  ⟨a.timeBase, a.keeps.buffer, c.responses⟩

theorem steady_runEvals (s : State) : Steady s (runEvals s) :=
  ⟨(inner_runEvals (d := False) s).timeBase, (keeps_runEvals s).buffer, (calm_runEvals (d := False) (l := False) s).responses⟩

theorem steady_putWell (s : State) (i : Slot) (w : Option Well) : Steady s (putWell s i w) := by
  rw [putWell_frame]
  exact .quiet rfl rfl

theorem steady_modWell (s : State) (i : Slot) (f : Well → Well) : Steady s (modWell s i f) := by
  unfold modWell
  split
  · exact steady_putWell _ _ _
  · exact .refl _

theorem steady_removeEntry (g : Seg) (i : Slot) (s : State) : Steady s (removeEntry g i s) :=
  (inner_removeEntry (d := False) g i s).steady (calm_removeEntry (d := False) (l := False) g i s)

theorem steady_withdrawSlot (i : Slot) (s : State) : Steady s (withdrawSlot i s) :=
  (inner_withdrawSlot (d := False) i s).steady (calm_withdrawSlot (d := False) (l := False) i s)

theorem steady_tripsChanged (b : Bool) (s : State) : Steady s (tripsChanged b s) :=
  (inner_tripsChanged (d := False) b s).steady (calm_tripsChanged (d := False) b s)

theorem steady_evalTaking (s : State) : Steady s (evalTaking s) :=
  (inner_evalTaking (d := False) s).steady (calm_evalTaking (d := False) (l := False) s)

theorem steady_examineAll (s : State) : Steady s (examineAll s) :=
  (inner_examineAll (d := False) s).steady (calm_examineAll (d := False) (l := False) s)

theorem steady_outletRuleAll (b : Bool) (s : State) : Steady s (outletRuleAll b s) :=
  (inner_outletRuleAll (d := False) b s).steady (calm_outletRuleAll (d := False) (l := False) b s)

theorem steady_diversion (s : State) : Steady s (diversion s) :=
  (inner_diversion (d := False) s).steady (calm_diversion (d := False) (l := False) s)

theorem steady_offerUrgent {f : Uplink} (hf : f.response? = none) (s : State) : Steady s (offerUrgent f s) :=
  (inner_offerUrgent (d := False) f s).steady (calm_offerUrgent (d := False) (l := False) hf s)

theorem steady_takeover (s : State) : Steady s (takeover s) := by
  have duty : Steady s (becomeDuty s) := .quiet rfl rfl
  have moves := duty.trans ((inner_releaseMoves .abandoned s.moving (becomeDuty s)).steady
    (calm_releaseMoves (l := False) .abandoned s.moving (becomeDuty s)))
  unfold takeover
  refine .trans (.trans ?_ (steady_evalTaking _)) (steady_offerUrgent rfl _)
  refine .trans ?_ (steady_examineAll _)
  refine .trans ?_ ((inner_takeoverSets (d := False) _ _).steady (calm_takeoverSets (d := False) (l := False) _ _))
  refine .trans ?_ (steady_outletRuleAll _ _)
  split
  · exact moves.trans (steady_diversion _)
  · exact moves

theorem steady_liveChange (i : Slot) (w : Well) (c : WellCfg) (s : State) : Steady s (liveChange i w c s) := by
  have write := steady_putWell s i (some { w with cfg := c })
  unfold liveChange
  dsimp only
  split
  · exact write
  · refine write.trans (.trans (t := clampEntry i c _) (.quiet rfl rfl) (.trans (t := clampPending i c _) (steady_modWell _ _ _) ?_))
    exact (inner_rangeChangeSet (d := False) _ _).steady (calm_rangeChangeSet (d := False) (l := False) _ _)

theorem steady_park (i : Slot) (w : Well) (c : WellCfg) (s : State) : Steady s (park i w c s) := by
  have write : Steady s (putWell (forgetPoll i s) i (some (Well.fresh c w.outlet))) :=
    .trans (t := forgetPoll i s) (.quiet rfl rfl) (steady_putWell _ _ _)
  exact write.trans ((steady_removeEntry _ _ _).trans ((steady_runEvals _).trans (steady_withdrawSlot _ _)))

theorem steady_loadSlot (x : WellLoad) (s : State) : Steady s (loadSlot x s) := by
  unfold loadSlot
  split
  · exact steady_putWell _ _ _
  · split
    · exact steady_liveChange _ _ _ _
    · exact steady_park _ _ _ _

theorem steady_runLoadWell (f : PlantFrame) (s : State) : Steady s (runLoadWell f s).state := by
  unfold runLoadWell
  repeat' split
  all_goals first
    | exact .refl s
    | exact steady_loadSlot _ s

theorem steady_runVacate (f : PlantFrame) (s : State) : Steady s (runVacate f s).state := by
  unfold runVacate
  repeat' split
  all_goals first
    | exact .refl s
    | exact .trans (t := forgetPoll _ s) (.quiet rfl rfl)
        ((steady_putWell _ _ _).trans ((steady_removeEntry _ _ _).trans (steady_withdrawSlot _ _)))

theorem steady_loadSegment (g : Seg) (x : SegSettings) (s : State) : Steady s (loadSegment g x s) := by
  have write : Steady s (writeSegment g x s) := .quiet rfl rfl
  unfold loadSegment
  dsimp only
  split
  · exact write.trans ((inner_timeOutAged _ _ _).steady (calm_timeOutAged (l := False) _ _ _))
  · exact write

theorem steady_silenceAtLoad (s : State) : Steady s (silenceAtLoad s) := by
  unfold silenceAtLoad
  split
  · split
    · exact steady_takeover s
    · exact .refl s
  · exact .refl s

theorem siteWritten_timeBase (x : SiteSettings) (s : State) : (siteWritten x s).timeBase = s.timeBase := by
  unfold siteWritten
  dsimp only

theorem siteWritten_link (x : SiteSettings) (s : State) : (siteWritten x s).link = s.link := by
  unfold siteWritten
  dsimp only

theorem steady_loadSite (x : SiteSettings) (s : State) : Steady s (loadSite x s) := by
  have write : Steady s (tripsChanged s.combination (siteWritten x s)) :=
    .trans (.quiet (siteWritten_timeBase x s) (siteWritten_link x s)) (steady_tripsChanged _ _)
  rw [loadSite_eq]
  split
  · exact write
  · exact write.trans (steady_silenceAtLoad _)

theorem steady_runMode (f : PlantFrame) (s : State) : Steady s (runMode f s).state := by
  have set (m : Mode) : Steady s (setMode m s) := ⟨rfl, rfl, .refl _⟩
  unfold runMode
  split
  · exact .refl s
  · show Steady s (changeMode _ s)
    unfold changeMode
    split
    · refine (set .hold).trans (.trans ?_ (steady_examineAll _))
      exact (inner_foldSegs (d := False) holdQueue inner_holdQueue _ _).steady
        (calm_foldSegs (d := False) (l := False) holdQueue calm_holdQueue _ _)
    · exact set .run
    · exact .refl s
    · exact .refl s

theorem steady_runForce (f : PlantFrame) (s : State) : Steady s (runForce f s).state := by
  unfold runForce
  repeat' split
  all_goals first
    | exact .refl s
    | exact (steady_modWell _ _ _).trans ((inner_arriveOther (d := False) _ _ _ _ _ (by decide)).steady
        (calm_arriveOther (d := False) (l := False) _ _ _ _ _))

theorem steady_removed (r : CondRec) {s t : State} (h : Steady s t) : Steady s (evalTaking (removalEffects r t)) :=
  h.trans (((inner_removalEffects (d := False) r t).steady (calm_removalEffects (d := False) r t)).trans (steady_evalTaking _))

theorem steady_runRead (f : PlantFrame) (s : State) : Steady s (runRead f s).state := by
  unfold runRead
  split
  · exact .refl s
  · dsimp only
    split
    · unfold clearTarget
      split
      · exact .quiet rfl rfl
      · exact ⟨rfl, rfl, .refl _⟩
      all_goals exact .refl s
    · exact .refl s

theorem Row.steady {c : Instr} {run : PlantFrame → State → Answer} (hr : Row c run) (f : PlantFrame) (s : State) :
    Steady s (run f s).state := by
  cases hr with
  | loadWell => exact steady_runLoadWell f s
  | loadWellVacate => exact steady_runVacate f s
  | loadSegment =>
    unfold runLoadSegment
    split
    · exact .refl s
    · exact steady_loadSegment _ _ s
  | loadSite =>
    unfold runLoadSite
    split
    · exact .refl s
    · exact steady_loadSite _ s
  | unlock => unfold runUnlock; split <;> exact .refl s
  | loadLimits =>
    unfold runLoadLimits
    split
    · split
      · exact .refl s
      · exact .trans (t := limitsWritten _ s) (.quiet rfl rfl) (steady_tripsChanged _ _)
    · exact ⟨rfl, rfl, .refl _⟩
  | loadCondition =>
    unfold runLoadCondition
    split
    · exact .refl s
    · show Steady s (Machine.loadCondition _ _ s)
      unfold Machine.loadCondition
      split
      · exact .refl s
      · exact .trans (t := s.modConds _) (.quiet rfl rfl) (steady_evalTaking _)
  | demand =>
    unfold runDemand
    split
    · exact .refl s
    · exact .quiet rfl rfl
  | modeRun => exact steady_runMode f s
  | modeHold => exact steady_runMode f s
  | force => exact steady_runForce f s
  | release =>
    unfold runRelease
    repeat' split
    all_goals first
      | exact .refl s
      | exact steady_modWell s _ _
  | clear =>
    unfold runClear
    repeat' split
    all_goals first
      | exact .refl s
      | exact steady_removed _ (t := s.modConds _) (.quiet rfl rfl)
  | dismiss =>
    unfold runDismiss
    repeat' split
    all_goals first
      | exact .refl s
      | exact steady_removed _ (t := s.modConds _) (.quiet rfl rfl)
  | budgetReset =>
    unfold runBudgetReset
    split
    · exact .refl s
    · exact (inner_budgetReset _ s).steady (calm_budgetReset (l := False) _ s)
  | malformed => exact .refl s
  | _ => exact steady_runRead f s

/-! ## The RESPONSE -/

theorem Link.joinResponse_responses (k : Link) (r : Response) : (k.joinResponse r).responses.Perm (r :: k.responses) := by
  unfold Link.joinResponse
  rw [Link.pump_responses]
  have e : Link.responses { k with reserved := false, routine := k.routine ++ [.response r] } = k.responses ++ [r] := by
    unfold Link.responses
    rw [← List.append_assoc, List.filterMap_append]
    rfl
  rw [e]
  exact List.perm_append_singleton _ _

/-- The RESPONSE joined stands at the end of the routine queue, or on a transmitter that was idle with both queues empty. -/
theorem Link.joinResponse_last (k : Link) (r : Response) :
    (k.joinResponse r).routine.getLast? = some (.response r) ∨
      ((k.joinResponse r).routine = [] ∧ (k.joinResponse r).transmitter = some (.response r)) := by
  unfold Link.joinResponse Link.pump
  cases ht : k.transmitter with
  | some u => exact .inl (by simp)
  | none =>
    cases hu : k.urgent with
    | cons u urgent => exact .inl (by simp)
    | nil =>
      cases hq : k.routine with
      | nil => exact .inr ⟨rfl, rfl⟩
      | cons u routine => exact .inl (by simp)

theorem finishExecution_link (f : PlantFrame) (a : Answer) :
    (finishExecution f a).link =
      Link.joinResponse { (runEvals a.state).link with unlocked := f.isKind 4 && decide (a.outcome = .accepted) }
        (responseTo f (runEvals a.state) a.outcome a.data) := rfl

theorem finishExecution_responded {s : State} {f : PlantFrame} {a : Answer} (h : Steady (beginExecution s) a.state) :
    Responded s.link (finishExecution f a).link f s.timeBase := by
  have hs := h.trans (steady_runEvals _)
  have hr : responseTo f (runEvals a.state) a.outcome a.data = ⟨f.tag, f.kind, a.outcome, s.timeBase, a.data⟩ := by
    unfold responseTo
    rw [hs.timeBase]
    rfl
  refine ⟨a.outcome, a.data, ?_, ?_⟩
  · rw [finishExecution_link, hr]
    exact (Link.joinResponse_responses _ _).trans (.cons _ hs.responses)
  · rw [finishExecution_link, hr]
    exact Link.joinResponse_last _ _

theorem finishExecution_unlocked (f : PlantFrame) (a : Answer) :
    (finishExecution f a).link.unlocked = (f.isKind 4 && decide (a.outcome = .accepted)) := (Link.pump_frame _).2.2.1

theorem finishExecution_reserved (f : PlantFrame) (a : Answer) : (finishExecution f a).link.reserved = false :=
  (Link.pump_frame _).2.1

theorem finishExecution_buffer (f : PlantFrame) (a : Answer) : (finishExecution f a).link.buffer = a.state.link.buffer :=
  (Link.pump_frame _).1.trans (keeps_runEvals a.state).buffer

theorem finishExecution_timeBase (f : PlantFrame) (a : Answer) : (finishExecution f a).timeBase = a.state.timeBase :=
  (steady_runEvals a.state).timeBase

/-! ## Which row executes a frame -/

theorem wellShaped_of_isKind {f : PlantFrame} {n : Nat} (h : f.isKind n = true) : f.wellShaped = true := (Bool.and_eq_true_iff.mp h).1

theorem isKind_wellShaped {f : PlantFrame} {n : Nat} (h : f.wellShaped = true) (hk : f.kind.toNat = n) : f.isKind n = true := by
  unfold PlantFrame.isKind
  rw [h, hk]
  exact beq_self_eq_true n

/-- The one row that takes a frame of kind 4 is UNLOCK. -/
theorem Row.unlock_of_takes {c : Instr} {run : PlantFrame → State → Answer} (hr : Row c run) {f : PlantFrame} (ht : takes c f = true)
    (hk : f.isKind 4 = true) : run = runUnlock := by
  have other {n : Nat} (hn : f.isKind n = true) (hne : n ≠ 4) : run = runUnlock := by
    rw [PlantFrame.isKind_eq_false hn hne] at hk
    exact nomatch hk
  cases hr with
  | unlock => rfl
  | malformed =>
    have hw : (!f.wellShaped) = true := ht
    rw [wellShaped_of_isKind hk] at hw
    exact nomatch hw
  | _ =>
    simp only [takes, readsTarget, readsPlain, readsClear, Bool.and_eq_true] at ht
    first
      | exact other ht (by decide)
      | exact other ht.1 (by decide)
      | exact other ht.1.1 (by decide)

theorem takes_loadWellVacate {f : PlantFrame} (hk : f.isKind 1 = true) (hl : f.payload.length = 1) :
    takes .loadWellVacate f = true := by
  show (f.isKind 1 && f.payload.length == 1) = true
  rw [hk, hl]
  rfl

theorem takes_mode {f : PlantFrame} (hk : f.isKind 9 = true) : ∃ c ∈ plantRows, takes c f = true := by
  by_cases h : byteAt f.payload 0 = 1
  · refine ⟨.modeHold, by decide, ?_⟩
    show (f.isKind 9 && byteAt f.payload 0 != 2) = true
    rw [hk, h]
    rfl
  · refine ⟨.modeRun, by decide, ?_⟩
    show (f.isKind 9 && byteAt f.payload 0 != 1) = true
    rw [hk, bne_iff_ne.mpr h]
    rfl

/-- A READ of a target with counters goes to its row with clear or without. -/
theorem takes_counted {f : PlantFrame} {n : Nat} {plain cleared : Instr} (hp : plain ∈ plantRows) (hc : cleared ∈ plantRows)
    (h : readsTarget n f = true) (plainRow : ∀ f, takes plain f = readsPlain n f) (clearRow : ∀ f, takes cleared f = readsClear n f) :
    ∃ c ∈ plantRows, takes c f = true := by
  cases hb : readClears f with
  | false => exact ⟨plain, hp, by rw [plainRow, readsPlain, h, hb]; simp⟩
  | true => exact ⟨cleared, hc, by rw [clearRow, readsClear, h, hb]; simp⟩

/-- A READ goes to the row of its target, with clear or without where the target has counters, and to READ_WELL where the target is
unknown. -/
theorem takes_read {f : PlantFrame} (hk : f.isKind 7 = true) : ∃ c ∈ plantRows, takes c f = true := by
  have unknown (h : readsUnknown f = true) : ∃ c ∈ plantRows, takes c f = true := by
    refine ⟨.readWell, by decide, ?_⟩
    show (f.isKind 7 && (_ || readsUnknown f)) = true
    rw [hk, h, Bool.or_true]
    rfl
  generalize hn : byteAt f.payload 0 = n
  match n with
  | 0 => exact unknown (by unfold readsUnknown; rw [hn]; rfl)
  | 1 => exact ⟨.readWell, by decide, readsTarget_of hk hn⟩
  | 2 => exact ⟨.readLine, by decide, readsTarget_of hk hn⟩
  | 3 =>
    exact takes_counted (plain := .readSegment) (cleared := .readSegmentClear) (by decide) (by decide) (readsTarget_of hk hn)
      (fun _ => rfl) (fun _ => rfl)
  | 4 => exact ⟨.readConditionLevels, by decide, readsTarget_of hk hn⟩
  | 5 => exact ⟨.readInServiceStack, by decide, readsTarget_of hk hn⟩
  | 6 => exact ⟨.readPendingSet, by decide, readsTarget_of hk hn⟩
  | 7 => exact ⟨.readConditionPair, by decide, readsTarget_of hk hn⟩
  | 8 => exact ⟨.readRole, by decide, readsTarget_of hk hn⟩
  | 9 => exact ⟨.readSite, by decide, readsTarget_of hk hn⟩
  | 10 => exact ⟨.readLimits, by decide, readsTarget_of hk hn⟩
  | 11 =>
    exact takes_counted (plain := .readLink) (cleared := .readLinkClear) (by decide) (by decide) (readsTarget_of hk hn)
      (fun _ => rfl) (fun _ => rfl)
  | 12 => exact ⟨.readLineState, by decide, readsTarget_of hk hn⟩
  | n + 13 => exact unknown (by unfold readsUnknown; rw [hn]; simp)

/-- Every frame has a row: MALFORMED, or that of its kind. -/
theorem takes_some (f : PlantFrame) : ∃ c ∈ plantRows, takes c f = true := by
  by_cases hw : f.wellShaped = true
  · have hlength : f.payload.length ∈ commandLengths f.kind.toNat := List.contains_iff_mem.mp hw
    generalize hn : f.kind.toNat = n at hlength
    have hk : f.isKind n = true := isKind_wellShaped hw hn
    match n, hlength with
    | 1, hl =>
      rcases List.mem_cons.mp hl with hl | hl
      · exact ⟨.loadWell, by decide, takes_loadWell hk hl⟩
      · exact ⟨.loadWellVacate, by decide, takes_loadWellVacate hk (List.mem_singleton.mp hl)⟩
    | 2, _ => exact ⟨.loadSegment, by decide, hk⟩
    | 3, _ => exact ⟨.loadSite, by decide, hk⟩
    | 4, _ => exact ⟨.unlock, by decide, hk⟩
    | 5, _ => exact ⟨.loadLimits, by decide, hk⟩
    | 6, _ => exact ⟨.loadCondition, by decide, hk⟩
    | 7, _ => exact takes_read hk
    | 8, _ => exact ⟨.demand, by decide, hk⟩
    | 9, _ => exact takes_mode hk
    | 10, _ => exact ⟨.force, by decide, hk⟩
    | 11, _ => exact ⟨.release, by decide, hk⟩
    | 12, _ => exact ⟨.clear, by decide, hk⟩
    | 13, _ => exact ⟨.dismiss, by decide, hk⟩
    | 14, _ => exact ⟨.budgetReset, by decide, hk⟩
    | 15, _ => exact ⟨.restart, by decide, hk⟩
    | 0, hl => simp [commandLengths] at hl
    | n + 16, hl => simp [commandLengths] at hl
  · exact ⟨.malformed, by decide, by show (!f.wellShaped) = true; rw [Bool.eq_false_iff.mpr hw]; rfl⟩

/-- Every row of the plant computer but RESTART executes as a `Row`. -/
theorem row_of_plantRows {c : Instr} (hc : c ∈ plantRows) (hr : c ≠ .restart) : ∃ run, Row c run := by
  rcases instr_cases c with rfl | ⟨high, rfl⟩ | ⟨f, he⟩ | hrow | hrestart
  · exact absurd hc (by decide)
  · simp [plantRows] at hc
  · cases he <;> simp [plantRows] at hc
  · exact hrow
  · exact absurd hrestart hr

theorem nextFrame_full {s : State} (h : 64 ≤ s.link.routine.length) (accepts : PlantFrame → Bool) : s.nextFrame accepts = none := by
  have hfull : decide (s.link.routine.length < Config.routineCap) = false := decide_eq_false (Nat.not_lt.mpr h)
  unfold State.nextFrame
  split
  · rw [hfull, Bool.and_false, if_neg Bool.false_ne_true]
  · rfl

theorem whileRunning_same {f : State → State} {s : State} (h : f s = s) : whileRunning f s = s := by
  unfold whileRunning
  split
  · rfl
  · exact h

theorem runUnlock_accepted (f : PlantFrame) (s : State) : (runUnlock f s).outcome = .accepted ↔ byteAt f.payload 0 = 1 := by
  unfold runUnlock
  split
  · exact ⟨fun _ => ‹_›, fun _ => rfl⟩
  · exact ⟨fun h => (nomatch h), fun h => absurd h ‹_›⟩

/-- Settles O6: the row that takes the frame executes it, and `finishExecution` joins the RESPONSE. -/
theorem everyExecutionIsAnsweredOnce : Obligations.EveryExecutionIsAnsweredOnce := by
  unfold Obligations.EveryExecutionIsAnsweredOnce
  refine ⟨fun c s f rest hc hne h => ?_, takes_some, fun c s hc hfull => ?_, fun s f rest h hw => ?_⟩
  · obtain ⟨run, hr⟩ := row_of_plantRows hc hne
    refine ⟨fun ht => ⟨_, hr.exec_ready h ht, ?_, finishExecution_reserved _ _, ?_, ?_, ?_⟩, fun ht => ?_⟩
    · rw [finishExecution_buffer, (hr.steady f _).buffer, beginExecution_buffer h]
    · rw [finishExecution_timeBase, (hr.steady f _).timeBase]
      rfl
    · exact finishExecution_responded (hr.steady f _)
    · rw [finishExecution_unlocked, Bool.and_eq_true, decide_eq_true_iff]
      refine and_congr_right fun hk => ?_
      rw [hr.unlock_of_takes ht hk]
      exact runUnlock_accepted _ _
    · rw [hr.exec_eq]
      refine congrArg Host.Outcome.next (whileRunning_same ?_)
      unfold executeFrame State.nextFrame
      rw [h.2.1]
      dsimp only
      rw [ht]
      rfl
  · by_cases hne : c = .restart
    · subst hne
      refine congrArg Host.Outcome.next (whileRunning_same ?_)
      unfold executeRestart
      rw [nextFrame_full hfull]
    · obtain ⟨run, hr⟩ := row_of_plantRows hc hne
      rw [hr.exec_eq]
      refine congrArg Host.Outcome.next (whileRunning_same ?_)
      unfold executeFrame
      rw [nextFrame_full hfull]
  · exact Row.malformed.exec_refuse h (by show (!f.wellShaped) = true; rw [hw]; rfl) rfl (by decide)

end Sys2Proof.Machine
end

section
/-! PROOF. BUDGET RESET (O23): every move of the segment's wells is released, and the budget in force is judged against the SET in
flight alone. -/

-- One theorem at a time: the one-text build of the package runs out of threads otherwise.
set_option Elab.async false

namespace Sys2Proof.Machine

/-- The travel of a non-protective SET in flight on segment `g` (R162). -/
def State.flying (s : State) (g : Seg) : Nat :=
  match (s.seg g).sentCopy with
  | some c => if c.cls = .protective then 0 else c.travel
  | none => 0

theorem nonProtTravel_eq (s : State) (g : Seg) :
    s.nonProtTravel g = ((s.movesOf g).map fun m => if m.2.cls = .protective then 0 else m.2.travel).sum + s.flying g := rfl

theorem flying_le_nonProtTravel (s : State) (g : Seg) : s.flying g ≤ s.nonProtTravel g := by
  rw [nonProtTravel_eq]
  exact Nat.le_add_left _ _

/-- The release of moves on segment `g`: nothing but its travel, its budget in force, the records and the balancing move changes; the
budget in force stays while the SET in flight exceeds the budget loaded. -/
structure Released (g : Seg) (s t : State) : Prop where
  frame : t = { s with wells := t.wells, rosters := t.rosters, segs := t.segs, balancer := t.balancer }
  others : ∀ k, k ≠ g → t.seg k = s.seg k
  own : t.seg g =
    { s.seg g with outstanding := (t.seg g).outstanding, budgetInForce := (t.seg g).budgetInForce }
  budget : (s.seg g).settings.budget < s.flying g → (t.seg g).budgetInForce = (s.seg g).budgetInForce

theorem Released.refl (g : Seg) (s : State) : Released g s s := ⟨rfl, fun _ _ => rfl, rfl, fun _ => rfl⟩

theorem Released.flying {g : Seg} {s t : State} (h : Released g s t) : t.flying g = s.flying g := by
  have e := congrArg Segment.sentCopy h.own
  dsimp only at e
  unfold State.flying
  rw [e]

theorem Released.trans {g : Seg} {s t u : State} (a : Released g s t) (b : Released g t u) : Released g s u where
  frame := by
    have e := b.frame
    rw [a.frame] at e
    exact e
  others := fun k hk => (b.others k hk).trans (a.others k hk)
  own := by
    have e := b.own
    rw [a.own] at e
    exact e
  budget := fun hf => (b.budget (by
    have e := congrArg Segment.settings a.own
    dsimp only at e
    rw [a.flying, e]
    exact hf)).trans (a.budget hf)

theorem Released.modSeg (g : Seg) (s : State) (n b : Nat)
    (hb : (s.seg g).settings.budget < s.flying g → b = (s.seg g).budgetInForce) :
    Released g s (s.modSeg g fun q => { q with outstanding := n, budgetInForce := b }) where
  frame := rfl
  others := fun k hk => seg_modSeg_of_ne _ _ hk
  own := by rw [seg_modSeg_self]
  budget := by rw [seg_modSeg_self]; exact hb

theorem released_putMove {s : State} {i : Slot} {w : Well} (hw : s.well i = some w) (g : Seg) (m : Option MoveRec) :
    Released g s (putWell s i (some { w with move := m })) := by
  have hline : rosterLine (s.well i) = rosterLine (some { w with move := m }) := by rw [hw]; exact rosterLine_key rfl
  rw [putWell_of_line hline]
  exact ⟨rfl, fun _ _ => rfl, rfl, fun _ => rfl⟩

theorem released_refreshBudget (g : Seg) (s : State) : Released g s (refreshBudget g s) := by
  unfold refreshBudget
  split
  · exact .modSeg g s _ _ fun hf => absurd hf (Nat.not_lt.mpr ((flying_le_nonProtTravel s g).trans ‹_›))
  · exact .refl g s

theorem released_endBalancing (g : Seg) (r : Ending) (s : State) : Released g s (endBalancing r s) := by
  unfold endBalancing
  split
  · exact ⟨rfl, fun _ _ => rfl, rfl, fun _ => rfl⟩
  · exact .refl g s

theorem releaseMove_none {s : State} {i : Slot} (h : (s.well i).bind (·.move) = none) (r : Ending) : releaseMove i r s = s := by
  unfold releaseMove
  cases hw : s.well i with
  | none => rfl
  | some w =>
    rw [hw] at h
    dsimp only
    rw [show w.move = none from h]

theorem releaseMove_some {s : State} {i : Slot} {w : Well} {m : MoveRec} (hw : s.well i = some w) (hm : w.move = some m) (r : Ending) :
    releaseMove i r s =
      let u := refreshBudget w.cfg.seg ((putWell s i (some { w with move := none })).modSeg w.cfg.seg fun q =>
        { q with outstanding := q.outstanding - m.travel })
      if u.balancingMoving i then endBalancing r u else u := by
  unfold releaseMove
  rw [hw]
  dsimp only
  rw [hm]

theorem released_releaseMove {s : State} {i : Slot} {g : Seg} (h : ∀ w, s.well i = some w → w.cfg.seg = g) (r : Ending) :
    Released g s (releaseMove i r s) := by
  cases hb : (s.well i).bind (·.move) with
  | none => rw [releaseMove_none hb]; exact .refl g s
  | some m =>
    obtain ⟨w, hw, hm⟩ := Option.bind_eq_some_iff.mp hb
    obtain rfl := h w hw
    rw [releaseMove_some hw hm]
    have put := released_putMove hw w.cfg.seg none
    have travel : Released w.cfg.seg _ ((putWell s i (some { w with move := none })).modSeg w.cfg.seg fun q =>
        { q with outstanding := q.outstanding - m.travel }) := .modSeg w.cfg.seg _ _ _ fun _ => rfl
    have refreshed := (put.trans travel).trans (released_refreshBudget _ _)
    dsimp only
    split
    · exact refreshed.trans (released_endBalancing _ _ _)
    · exact refreshed

theorem refreshBudget_well (g : Seg) (s : State) (j : Slot) : (refreshBudget g s).well j = s.well j := by
  unfold refreshBudget
  split <;> rfl

theorem endBalancing_well (r : Ending) (s : State) (j : Slot) : (endBalancing r s).well j = s.well j := by
  unfold endBalancing
  split <;> rfl

theorem releaseMove_well (i : Slot) (r : Ending) (s : State) (j : Slot) :
    (releaseMove i r s).well j = (s.well j).map fun w => if j = i then { w with move := none } else w := by
  cases hb : (s.well i).bind (·.move) with
  | none =>
    rw [releaseMove_none hb]
    by_cases hj : j = i
    · subst hj
      cases hw : s.well j with
      | none => rfl
      | some w =>
        have hm : w.move = none := by rw [hw] at hb; exact hb
        refine congrArg some ?_
        dsimp only
        rw [if_pos rfl, ← hm]
    · simp [hj]
  | some m =>
    obtain ⟨w, hw, hm⟩ := Option.bind_eq_some_iff.mp hb
    have e : (releaseMove i r s).well j = (putWell s i (some { w with move := none })).well j := by
      rw [releaseMove_some hw hm]
      dsimp only
      split
      · rw [endBalancing_well, refreshBudget_well]
        rfl
      · rw [refreshBudget_well]
        rfl
    rw [e, putWell_well]
    by_cases hj : j = i
    · subst hj
      rw [if_pos rfl, hw]
      exact congrArg some (if_pos rfl).symm
    · simp [hj]

theorem releaseMoves_well (r : Ending) (slots : List Slot) (s : State) (j : Slot) :
    (releaseMoves r slots s).well j = (s.well j).map fun w => if j ∈ slots then { w with move := none } else w := by
  induction slots generalizing s with
  | nil => simp [releaseMoves]
  | cons i rest ih =>
    unfold releaseMoves
    rw [ih, releaseMove_well, Option.map_map]
    refine congrArg (Option.map · (s.well j)) (funext fun w => ?_)
    by_cases hi : j = i <;> by_cases hr : j ∈ rest <;> simp [hi, hr]

theorem releaseMoves_seg (r : Ending) (slots : List Slot) (s : State) {g : Seg}
    (h : ∀ i ∈ slots, ∀ w, s.well i = some w → w.cfg.seg = g) : Released g s (releaseMoves r slots s) := by
  induction slots generalizing s with
  | nil => exact .refl g s
  | cons i rest ih =>
    unfold releaseMoves
    refine (released_releaseMove (h i List.mem_cons_self) r).trans (ih _ fun k hk w hw => ?_)
    rw [releaseMove_well] at hw
    obtain ⟨v, hv, rfl⟩ := Option.map_eq_some_iff.mp hw
    rw [show (if k = i then { v with move := none } else v).cfg = v.cfg by split <;> rfl]
    exact h k (List.mem_cons_of_mem _ hk) v hv

theorem mem_movingSlots {s : State} {g : Seg} {j : Slot} :
    j ∈ (s.movesOf g).map (·.1) ↔ ∃ w, s.well j = some w ∧ w.cfg.seg = g ∧ w.move ≠ none := by
  rw [List.mem_map]
  constructor
  · rintro ⟨⟨i, m⟩, hm, rfl⟩
    obtain ⟨w, hw, hg, hm⟩ := mem_movesOf.mp hm
    exact ⟨w, hw, hg, by rw [hm]; exact Option.some_ne_none _⟩
  · rintro ⟨w, hw, hg, hm⟩
    obtain ⟨m, hm⟩ := Option.ne_none_iff_exists'.mp hm
    exact ⟨(j, m), mem_movesOf.mpr ⟨w, hw, hg, hm⟩, rfl⟩

/-- The records after BUDGET RESET of segment `g`. -/
theorem budgetReset_well (g : Seg) (s : State) (j : Slot) :
    (budgetReset g s).well j = (s.well j).map fun w => if w.cfg.seg = g then { w with move := none } else w := by
  have e : (budgetReset g s).well j = (releaseMoves .abandoned ((s.movesOf g).map (·.1)) s).well j := by
    unfold budgetReset
    rw [refreshBudget_well]
    rfl
  rw [e, releaseMoves_well]
  cases hw : s.well j with
  | none => rfl
  | some w =>
    refine congrArg some ?_
    dsimp only
    by_cases hg : w.cfg.seg = g
    · rw [if_pos hg]
      by_cases hm : w.move = none
      · split
        · rfl
        · rw [← hm]
      · rw [if_pos (mem_movingSlots.mpr ⟨w, hw, hg, hm⟩)]
    · rw [if_neg hg, if_neg fun h => ?_]
      obtain ⟨v, hv, hvg, -⟩ := mem_movingSlots.mp h
      rw [hw] at hv
      exact hg (Option.some.inj hv ▸ hvg)

theorem budgetReset_released (g : Seg) (s : State) : Released g s (budgetReset g s) := by
  have moves := releaseMoves_seg .abandoned ((s.movesOf g).map (·.1)) s (g := g) fun i hi w hw => by
    obtain ⟨v, hv, hg, -⟩ := mem_movingSlots.mp hi
    rw [hw] at hv
    exact Option.some.inj hv ▸ hg
  have clear : Released g _ ((releaseMoves .abandoned ((s.movesOf g).map (·.1)) s).modSeg g fun q => { q with outstanding := 0 }) :=
    .modSeg g _ _ _ fun _ => rfl
  exact (moves.trans clear).trans (released_refreshBudget _ _)

theorem budgetReset_movesOf (g : Seg) (s : State) : (budgetReset g s).movesOf g = [] := by
  rw [List.eq_nil_iff_forall_not_mem]
  rintro ⟨j, m⟩ hm
  obtain ⟨w, hw, hg, hm⟩ := mem_movesOf.mp hm
  rw [budgetReset_well] at hw
  obtain ⟨v, -, rfl⟩ := Option.map_eq_some_iff.mp hw
  split at hg
  · rw [if_pos ‹_›] at hm
    exact nomatch hm
  · exact absurd hg ‹_›

theorem nonProtTravel_of_no_moves {s : State} {g : Seg} (h : s.movesOf g = []) : s.nonProtTravel g = s.flying g := by
  rw [nonProtTravel_eq, h]
  exact Nat.zero_add _

/-- Segment `g` after its BUDGET RESET. -/
theorem budgetReset_seg (g : Seg) (s : State) : (budgetReset g s).seg g =
    { s.seg g with
      outstanding := 0
      budgetInForce := if s.flying g ≤ (s.seg g).settings.budget then (s.seg g).settings.budget
        else (s.seg g).budgetInForce } := by
  have h := budgetReset_released g s
  let u := (releaseMoves .abandoned ((s.movesOf g).map (·.1)) s).modSeg g fun q => { q with outstanding := 0 }
  have hu : budgetReset g s = refreshBudget g u := rfl
  have hmoves : u.movesOf g = [] := by
    have e : u.movesOf g = (budgetReset g s).movesOf g := by
      unfold State.movesOf
      rw [hu]
      simp only [refreshBudget_well]
    rw [e, budgetReset_movesOf]
  have hreleased : Released g s u := by
    have moves := releaseMoves_seg .abandoned ((s.movesOf g).map (·.1)) s (g := g) fun i hi w hw => by
      obtain ⟨v, hv, hg, -⟩ := mem_movingSlots.mp hi
      rw [hw] at hv
      exact Option.some.inj hv ▸ hg
    exact moves.trans (.modSeg g _ _ _ fun _ => rfl)
  have hsettings : (u.seg g).settings = (s.seg g).settings := by
    have e := congrArg Segment.settings hreleased.own
    exact e
  have hzero : (u.seg g).outstanding = 0 := by
    show (State.seg (State.modSeg _ g _) g).outstanding = 0
    rw [seg_modSeg_self]
  have hown := hreleased.own
  rw [hzero] at hown
  rw [hu]
  unfold refreshBudget
  rw [nonProtTravel_of_no_moves hmoves, hreleased.flying, hsettings]
  by_cases hf : s.flying g ≤ (s.seg g).settings.budget
  · rw [if_pos hf, if_pos hf, seg_modSeg_self, hown]
  · rw [if_neg hf, if_neg hf, hown, hreleased.budget (Nat.lt_of_not_le hf)]

/-- Settles O23: the releases of the moves, with the budget judged after them. -/
theorem budgetResetAbandonsTheMoves : Obligations.BudgetResetAbandonsTheMoves := by
  unfold Obligations.BudgetResetAbandonsTheMoves
  intro s f rest h hk
  have hfour : f.isKind 4 = false := PlantFrame.isKind_eq_false hk (by decide)
  refine ⟨fun hbad => Row.budgetReset.exec_refuse h hk ?_ (by decide), fun g hg => ?_⟩
  · unfold runBudgetReset
    rw [segOfCode_eq_none hbad]
  · have hrun : runBudgetReset f (beginExecution s) = accept (budgetReset g (beginExecution s)) := by
      unfold runBudgetReset
      rw [hg, segOfCode_segCode]
    have hreleased := budgetReset_released g (beginExecution s)
    let v := budgetReset g (beginExecution s)
    let u : State := { s with wells := v.wells, rosters := v.rosters, segs := v.segs, balancer := v.balancer }
    have hv : v = beginExecution u := hreleased.frame
    refine ⟨_, Row.budgetReset.exec_answer (u := u) h hk h (hrun.trans (congrArg accept hv)) (.inr hfour),
      budgetReset_movesOf g (beginExecution s), rfl, ?_, hreleased.others, fun j => budgetReset_well g (beginExecution s) j⟩
    refine (budgetReset_seg g (beginExecution s)).trans ?_
    rfl

end Sys2Proof.Machine
end

section
/-! PROOF. CLEAR and DISMISS: the removal of a record with its hold reason in STANDBY (O21), and the record a CLEAR takes in DUTY
(O22). -/

-- One theorem at a time: the one-text build of the package runs out of threads otherwise.
set_option Elab.async false

namespace Sys2Proof.Machine

/-! ## A record changed off its key -/

theorem modWell_well (s : State) (i : Slot) (f : Well → Well) (j : Slot) :
    (modWell s i f).well j = (s.well j).map fun w => if j = i then f w else w := by
  unfold modWell
  split
  · rw [putWell_well]
    by_cases hj : j = i
    · subst hj
      simp [*]
    · simp [hj]
  · by_cases hj : j = i
    · subst hj
      simp [*]
    · simp [hj]

/-- A change that keeps the key changes the Well Table and the places on the rosters alone: the slot stays on its roster. -/
theorem modWell_frame (s : State) (i : Slot) (f : Well → Well) (h : ∀ w, (f w).key = w.key) :
    modWell s i f = { s with wells := (modWell s i f).wells, rosters := (modWell s i f).rosters } := by
  cases hw : s.well i with
  | none =>
    unfold modWell
    rw [hw]
  | some w =>
    have hline : rosterLine (s.well i) = rosterLine (some (f w)) := by rw [hw]; exact (rosterLine_key (h w)).symm
    rw [modWell_some hw, putWell_of_line hline]

/-! ## The removal effects (R116) -/

/-- The record of slot `j` after the removal of `r` has taken its hold reason away. -/
def CondRec.frees (r : CondRec) (j : Slot) (w : Well) : Well :=
  match r.kind.reason with
  | some x => if r.attached = true ∧ r.source = j.val then { w with holds := w.holds.put x false } else w
  | none => w

theorem slotOfSource_val (i : Slot) : slotOfSource i.val = some i := slotOfCode_val i

theorem slotOfSource_some {n : Nat} {i : Slot} (h : slotOfSource n = some i) : n = i.val := by
  unfold slotOfSource at h
  split at h
  · exact congrArg Fin.val (Option.some.inj h)
  · exact nomatch h

/-- The removal effects of a record other than ENGINE LINE LOST touch the Well Table alone. -/
theorem removalEffects_frame {r : CondRec} (h : r.kind ≠ .engineLineLost) (s : State) :
    removalEffects r s = { s with wells := (removalEffects r s).wells, rosters := (removalEffects r s).rosters } := by
  unfold removalEffects
  split
  · split
    · exact modWell_frame _ _ _ fun _ => rfl
    · rfl
  · simp [h]

theorem removalEffects_well {r : CondRec} (h : r.kind ≠ .engineLineLost) (s : State) (j : Slot) :
    (removalEffects r s).well j = (s.well j).map (r.frees j) := by
  unfold removalEffects CondRec.frees
  cases hx : r.kind.reason with
  | none => simp [h]
  | some x =>
    dsimp only
    cases ha : r.attached with
    | false => simp
    | true =>
      cases hi : slotOfSource r.source with
      | none =>
        have hne : r.source ≠ j.val := fun e => by
          rw [e, slotOfSource_val] at hi
          exact nomatch hi
        simp [hne]
      | some i =>
        rw [slotOfSource_some hi]
        refine (modWell_well _ _ _ j).trans (congrArg (Option.map · (s.well j)) (funext fun w => ?_))
        by_cases hj : j = i
        · subst hj
          simp
        · have hv : i.val ≠ j.val := fun e => hj (Fin.ext e.symm)
          simp [hj, hv]

theorem stillActive_eq_false {s : State} {k : CondKind} (h : k ≠ .engineLineLost)
    (ho : k = .noOutlet → s.isOpen .engine = true ∨ s.isOpen .flare = true) : s.stillActive k = false := by
  unfold State.stillActive
  split
  · exact absurd rfl h
  · rcases ho rfl with h | h <;> simp [h]
  all_goals rfl

/-! ## The accepted CLEAR and DISMISS -/

theorem runClear_accepted {f : PlantFrame} {s : State} {r : CondRec} {below : List CondRec}
    (hp : parsePair f.payload = some (r.kind, r.source)) (hs : s.conds.stack = r :: below) (h : s.stillActive r.kind = false) :
    runClear f s = accept (clearTop r s) := by
  have hpair : r.isPair r.kind r.source = true := (isPair_iff_and _ _ _).mpr ⟨rfl, rfl⟩
  unfold runClear
  rw [hp]
  dsimp only
  rw [hs]
  dsimp only
  rw [hpair, h]
  rfl

theorem runDismiss_accepted {f : PlantFrame} {s : State} {r : CondRec} (hp : parsePair f.payload = some (r.kind, r.source))
    (hs : s.conds.waiting.find? (·.isPair r.kind r.source) = some r) (h : s.stillActive r.kind = false) :
    runDismiss f s = accept (dismissRec r s) := by
  unfold runDismiss
  rw [hp]
  dsimp only
  rw [hs]
  dsimp only
  rw [h]
  rfl

/-- The state that an accepted CLEAR of `r` leaves before the evaluation of taking. -/
def clearing (r : CondRec) (below : List CondRec) (s : State) : State :=
  removalEffects r { s with conds := { s.conds with stack := below } }

theorem clearing_frame {r : CondRec} (h : r.kind ≠ .engineLineLost) (below : List CondRec) (s : State) :
    clearing r below s =
      { s with
        conds := { s.conds with stack := below }
        wells := (clearing r below s).wells
        rosters := (clearing r below s).rosters } :=
  removalEffects_frame h { s with conds := { s.conds with stack := below } }

theorem clearTop_eq {r : CondRec} {below : List CondRec} {s : State} (hs : s.conds.stack = r :: below) :
    clearTop r s = evalTaking (clearing r below s) := by
  have hc : s.modConds (fun c => { c with stack := c.stack.tail }) = { s with conds := { s.conds with stack := below } } := by
    show ({ s with conds := { s.conds with stack := s.conds.stack.tail } } : State) = _
    rw [hs]
    rfl
  unfold clearTop clearing
  rw [hc]

/-- Settles O21: in STANDBY nothing is taken, so that the record goes and its reason with it. -/
theorem removalTakesTheRecordAndItsReason : Obligations.RemovalTakesTheRecordAndItsReason := by
  unfold Obligations.RemovalTakesTheRecordAndItsReason
  intro s f rest r h hstandby hp hne hopen
  have hstill : (beginExecution s).stillActive r.kind = false := stillActive_eq_false (s := s) hne hopen
  have hidle : ∀ {t : State}, t.unit = s.unit → evalTaking t = t := fun ht =>
    evalTaking_standby (decide_eq_false (by rw [ht, hstandby]; decide))
  have effects (c : Conditions) : ∃ u : State, evalTaking (removalEffects r { beginExecution s with conds := c }) = beginExecution u ∧
      Ready u f rest ∧ u = { s with conds := c, wells := u.wells, rosters := u.rosters } ∧
      ∀ j, u.well j = (s.well j).map (r.frees j) := by
    let v := removalEffects r { beginExecution s with conds := c }
    have hv := removalEffects_frame hne { beginExecution s with conds := c }
    have hunit := congrArg State.unit hv
    exact ⟨{ s with conds := c, wells := v.wells, rosters := v.rosters }, (hidle hunit).trans hv, h, rfl,
      removalEffects_well hne { beginExecution s with conds := c }⟩
  refine ⟨fun hk below hs => ?_, fun hk hs => ?_⟩
  · have hfour : f.isKind 4 = false := PlantFrame.isKind_eq_false hk (by decide)
    obtain ⟨u, hu, hready, hframe, hwell⟩ := effects { s.conds with stack := below }
    refine ⟨_, Row.clear.exec_answer (u := u) h hk hready (o := .accepted) (d := none) ?_ (.inr hfour),
      congrArg (fun x => State.answer x f rest .accepted none) hframe, hwell⟩
    rw [runClear_accepted (s := beginExecution s) hp hs hstill, clearTop_eq (s := beginExecution s) hs]
    exact congrArg accept hu
  · have hfour : f.isKind 4 = false := PlantFrame.isKind_eq_false hk (by decide)
    obtain ⟨u, hu, hready, hframe, hwell⟩ := effects { s.conds with waiting := s.conds.waiting.filter fun x => !x.isPair r.kind r.source }
    refine ⟨_, Row.dismiss.exec_answer (u := u) h hk hready (o := .accepted) (d := none) ?_ (.inr hfour),
      congrArg (fun x => State.answer x f rest .accepted none) hframe, hwell⟩
    rw [runDismiss_accepted (s := beginExecution s) hp hs hstill]
    exact congrArg accept hu

/-! ## Taking (R113, R114) -/

theorem takenBefore_irrefl (x : CondRec) : x.takenBefore x = false :=
  Bool.eq_false_iff.mpr fun h => by
    rw [CondRec.takenBefore_iff] at h
    omega

theorem eligible_iff (c : Conditions) (p : CondRec) :
    c.eligible p = true ↔ (c.setting p.kind).masked = false ∧ ∀ y ∈ c.stack, p.level < y.level := by
  unfold Conditions.eligible
  simp

/-- The first eligible record of a pending set in taking order is the one that stands before every other. -/
theorem find_eligible {c : Conditions} {p : CondRec} (hsorted : c.waiting.Pairwise fun a b => a.takenBefore b = true)
    (hp : p ∈ c.waiting) (he : c.eligible p = true)
    (hfirst : ∀ y ∈ c.waiting, c.eligible y = true → y = p ∨ p.takenBefore y = true) :
    c.waiting.find? c.eligible = some p := by
  obtain ⟨q, hq⟩ := Option.isSome_iff_exists.mp (List.find?_isSome.mpr ⟨p, hp, he⟩)
  obtain ⟨heq, before, after, hsplit, hbefore⟩ := List.find?_eq_some_iff_append.mp hq
  rcases hfirst q (hsplit ▸ List.mem_append_right _ List.mem_cons_self) heq with rfl | hpq
  · exact hq
  · rw [hsplit] at hp hsorted
    rcases List.mem_append.mp hp with hb | hb
    · have hn := hbefore p hb
      rw [he] at hn
      exact nomatch hn
    · rcases List.mem_cons.mp hb with rfl | ha
      · exact hq
      · have hqp : q.takenBefore p = true := (List.pairwise_cons.mp (List.pairwise_append.mp hsorted).2.1).1 p ha
        have hpp := CondRec.takenBefore_trans p q p hpq hqp
        rw [takenBefore_irrefl] at hpp
        exact nomatch hpp

/-- In a pending set no pair of which stands twice, a record is the only one of its pair. -/
theorem filter_pair_eq {l : List CondRec} (h : (l.map CondRec.pair).Nodup) {p : CondRec} (hp : p ∈ l) :
    l.filter (fun x => !x.isPair p.kind p.source) = l.filter fun y => !decide (y = p) := by
  refine List.filter_congr fun y hy => ?_
  refine congrArg (!·) ?_
  rw [Bool.eq_iff_iff, CondRec.isPair_iff, decide_eq_true_iff]
  exact ⟨fun e => List.inj_on_of_nodup_map h hy hp e, fun e => e ▸ rfl⟩

theorem CondLaw.waiting_nodup {c : Conditions} (h : CondLaw c) : (c.waiting.map CondRec.pair).Nodup := by
  have hp := h.pairs
  rw [List.map_append] at hp
  exact (List.nodup_append.mp hp).1

theorem length_filter_ne {l : List CondRec} (h : l.Nodup) {p : CondRec} (hp : p ∈ l) :
    (l.filter fun y => !decide (y = p)).length = l.length - 1 := by
  have e : (l.filter fun y => !decide (y = p)) = l.erase p := by
    rw [h.erase_eq_filter]
    refine List.filter_congr fun y _ => ?_
    by_cases hy : y = p <;> simp [hy]
  rw [e, List.length_erase_of_mem hp]

theorem evalTaking_takes {s : State} {p : CondRec} (hd : s.isDuty = true) (hp : s.conds.waiting.find? s.conds.eligible = some p) :
    evalTaking s = takeRec p s := by
  unfold evalTaking
  rw [hd, hp]
  rfl

theorem evalTaking_none {s : State} (h : ∀ p ∈ s.conds.waiting, s.conds.eligible p = false) : evalTaking s = s := by
  have hn : s.conds.waiting.find? s.conds.eligible = none := List.find?_eq_none.mpr fun p hp => by
    rw [h p hp]
    exact Bool.false_ne_true
  unfold evalTaking
  rw [hn]
  split <;> rfl

theorem frees_cfg (r : CondRec) (j : Slot) (w : Well) : (r.frees j w).cfg = w.cfg := by
  unfold CondRec.frees
  split
  · split <;> rfl
  · rfl

theorem clearing_station {r : CondRec} (h : r.kind ≠ .engineLineLost) (below : List CondRec) (s : State) (i : Slot) :
    ((clearing r below s).well i).map (fun w => (w.cfg.address, w.cfg.seg)) =
      (s.well i).map fun w => (w.cfg.address, w.cfg.seg) := by
  have hw : (clearing r below s).well i = (s.well i).map (r.frees i) := removalEffects_well h _ i
  rw [hw, Option.map_map]
  refine congrArg (Option.map · (s.well i)) (funext fun w => ?_)
  show ((r.frees i w).cfg.address, (r.frees i w).cfg.seg) = _
  rw [frees_cfg]

theorem Link.offerUrgent_room {k : Link} (hs : k.transmitter ≠ none) (hroom : k.urgent.length < 16) (f : Uplink) :
    (k.offerUrgent f).urgent = k.urgent ++ [f] ∧ (k.offerUrgent f).transmitter = k.transmitter := by
  have hroom' : k.urgent.length < Config.urgentCap := hroom
  rw [Link.offerUrgent_sending hs, if_pos hroom']
  exact ⟨rfl, rfl⟩

theorem Link.joinResponse_urgent {k : Link} (hs : k.transmitter ≠ none) (r : Response) : (k.joinResponse r).urgent = k.urgent := by
  unfold Link.joinResponse
  rw [Link.pump_sending (k := { k with reserved := false, routine := k.routine ++ [.response r] }) hs]

/-- Settles O22: the taking order makes the record R114 names the first eligible one, which `evalTaking` takes. -/
theorem clearTakesTheNextRecord : Obligations.ClearTakesTheNextRecord := by
  unfold Obligations.ClearTakesTheNextRecord
  intro s f rest r below h hk hduty hlaw hp hs hne hopen
  have hstill : (beginExecution s).stillActive r.kind = false := stillActive_eq_false (s := s) hne hopen
  let v := clearing r below (beginExecution s)
  have hv : v = _ := clearing_frame hne below (beginExecution s)
  have hvconds : v.conds = { s.conds with stack := below } := by have e := congrArg State.conds hv; exact e
  have hvtime : v.timeBase = s.timeBase := by have e := congrArg State.timeBase hv; exact e
  have hvlink : v.link = (beginExecution s).link := by have e := congrArg State.link hv; exact e
  have hvduty : v.isDuty = true := decide_eq_true (by have e := congrArg State.unit hv; rw [e]; exact hduty)
  have hset : Settled (clearTop r (beginExecution s)) := (inner_clearTop (d := False) r _).settled h.2.2.2
  have hrun : exec .clear s = .next (finishExecution f (accept (evalTaking v))) := by
    rw [Row.clear.exec_ready h hk, runClear_accepted (s := beginExecution s) hp hs hstill, clearTop_eq (s := beginExecution s) hs]
  rw [clearTop_eq (s := beginExecution s) hs] at hset
  rw [finishExecution_settled f (a := accept (evalTaking v)) hset] at hrun
  intro eligible
  have heligible : ∀ p, v.conds.eligible p = true ↔ eligible p := fun p => by
    rw [hvconds]
    exact eligible_iff _ p
  refine ⟨fun p hpw hpe hfirst => ?_, fun hnone => ?_⟩
  · have hfind : v.conds.waiting.find? v.conds.eligible = some p := by
      refine find_eligible ?_ ?_ ((heligible p).mpr hpe) fun y hy he => ?_
      · rw [hvconds]; exact hlaw.2.2.2.1
      · rw [hvconds]; exact hpw
      · rw [hvconds] at hy
        exact hfirst y hy ((heligible y).mp he)
    have hnodup := hlaw.waiting_nodup
    have htake := evalTaking_takes hvduty hfind
    have hfilter : v.conds.waiting.filter (fun x => !x.isPair p.kind p.source) = s.conds.waiting.filter fun y => !decide (y = p) := by
      rw [hvconds]
      exact filter_pair_eq hnodup hpw
    refine ⟨_, hrun, ?_, ?_, ?_, fun hsend hroom => ?_⟩
    · show (evalTaking v).conds.stack = _
      rw [htake]
      show { p with taken := some v.timeBase } :: v.conds.stack = _
      rw [hvtime, hvconds]
    · show (evalTaking v).conds.waiting = _
      rw [htake]
      exact hfilter
    · show (evalTaking v).conds.kinds = _
      rw [htake]
      show v.conds.kinds = _
      rw [hvconds]
    · have hsend' : v.link.transmitter ≠ none := by rw [hvlink]; exact hsend
      have hroom' : v.link.urgent.length < 16 := by rw [hvlink]; exact hroom
      have hlink : (evalTaking v).link = v.link.offerUrgent (.condition (noticeOf (v.modConds fun c =>
          { c with
            waiting := c.waiting.filter fun x => !x.isPair p.kind p.source
            stack := { p with taken := some v.timeBase } :: c.stack }) p)) := by
        rw [htake]
        rfl
      obtain ⟨hurgent, htransmitter⟩ := Link.offerUrgent_room hsend' hroom' (.condition (noticeOf (v.modConds fun c =>
          { c with
            waiting := c.waiting.filter fun x => !x.isPair p.kind p.source
            stack := { p with taken := some v.timeBase } :: c.stack }) p))
      show (Link.joinResponse _ _).urgent = _
      rw [Link.joinResponse_urgent (by show (evalTaking v).link.transmitter ≠ none; rw [hlink, htransmitter]; exact hsend')]
      show (evalTaking v).link.urgent = _
      rw [hlink, hurgent, hvlink]
      refine congrArg (fun n => s.link.urgent ++ [Uplink.condition n]) ?_
      unfold noticeOf
      have hstation : ∀ i : Slot, (v.well i).map (fun w => (w.cfg.address, w.cfg.seg)) =
          (s.well i).map fun w => (w.cfg.address, w.cfg.seg) := clearing_station hne below (beginExecution s)
      have hcount : (v.conds.waiting.filter fun x => !x.isPair p.kind p.source).length = s.conds.waiting.length - 1 := by
        rw [hfilter]
        exact length_filter_ne (hnodup.of_map _) hpw
      have hdepth : v.conds.stack.length + 1 = below.length + 1 := by rw [hvconds]
      show CondNotice.mk _ _ _ _ _ v.timeBase _ _ _ (v.conds.stack.length + 1)
        (v.conds.waiting.filter fun x => !x.isPair p.kind p.source).length = _
      rw [hcount, hdepth, hvtime]
      refine congrArg (fun a => CondNotice.mk _ _ a _ _ _ _ _ _ _ _) ?_
      split
      · cases slotOfSource p.source with
        | none => rfl
        | some i => exact hstation i
      · rfl
  · have hidle : evalTaking v = v := evalTaking_none fun p hpw => Bool.eq_false_iff.mpr fun he => by
      rw [hvconds] at hpw
      exact hnone p hpw ((heligible p).mp he)
    refine ⟨_, hrun, ?_, fun hsend => ?_⟩
    · show (evalTaking v).conds = _
      rw [hidle, hvconds]
    · show (Link.joinResponse _ _).urgent = _
      have hlink : (evalTaking v).link = (beginExecution s).link := by rw [hidle, hvlink]
      rw [Link.joinResponse_urgent (by show (evalTaking v).link.transmitter ≠ none; rw [hlink]; exact hsend)]
      show (evalTaking v).link.urgent = _
      rw [hlink]
      rfl

end Sys2Proof.Machine
end

section
/-! PROOF. Turns: the poll search (R143) and the turn that polls (O26), the turn that sends the head of the queue, and the heads whose
travel alone exceeds the budget (O27). -/

-- One theorem at a time: the one-text build of the package runs out of threads otherwise.
set_option Elab.async false

namespace Sys2Proof.Machine

/-! ## The poll search -/

theorem servedOn_iff (s : State) (g : Seg) (i : Slot) :
    s.servedOn g i = true ↔ ∃ w, s.well i = some w ∧ w.cfg.inService = true ∧ w.cfg.seg = g := by
  unfold State.servedOn
  cases s.well i <;> simp

theorem pollable_served {s : State} {g : Seg} {r : Fin 8} {i : Slot} (h : s.pollable g r i = true) : s.servedOn g i = true := by
  unfold State.pollable at h
  unfold State.servedOn
  cases hw : s.well i with
  | none => rw [hw] at h; exact nomatch h
  | some w =>
    rw [hw] at h
    exact (Bool.and_eq_true_iff.mp h).1

/-- In round 0 every slot served is pollable. -/
theorem pollable_zero {s : State} {g : Seg} {i : Slot} (h : s.servedOn g i = true) : s.pollable g 0 i = true := by
  obtain ⟨w, hw, hs, hg⟩ := (servedOn_iff s g i).mp h
  unfold State.pollable
  rw [hw]
  simp [hs, hg]

/-- The wraps reach round 0, in which every slot served is found. -/
theorem searchRounds_isSome {s : State} {g : Seg} {i : Slot} (h : s.servedOn g i = true) (n : Nat) (r : Fin 8)
    (hn : 8 - r.val ≤ n) : (searchRounds s g n r).isSome = true := by
  induction n generalizing r with
  | zero => exact absurd r.isLt (by omega)
  | succ n ih =>
    unfold searchRounds
    split
    · rfl
    · next hnone =>
      by_cases hr : r.val = 7
      · have hzero : r + 1 = 0 := Fin.ext (by simp [Fin.val_add, hr])
        rw [hzero, List.find?_eq_none] at hnone
        exact absurd (pollable_zero h) (hnone i (allSlots_mem i))
      · have hlt := r.isLt
        refine ih _ ?_
        rw [Fin.val_add_one_of_lt' (by omega)]
        omega

theorem searchRounds_pollable {s : State} {g : Seg} {n : Nat} {r : Fin 8} {x : Slot × Fin 8} (h : searchRounds s g n r = some x) :
    s.pollable g x.2 x.1 = true := by
  induction n generalizing r with
  | zero => exact nomatch h
  | succ n ih =>
    unfold searchRounds at h
    split at h
    · next i hi =>
      obtain rfl := Option.some.inj h
      exact List.find?_some hi
    · exact ih h

/-- The slots the search looks at first: those after the poll position. -/
def State.slotsAfter (s : State) (g : Seg) : List Slot :=
  match (s.seg g).position with
  | some p => allSlots.filter fun i => decide (p < i)
  | none => allSlots

theorem mem_slotsAfter {s : State} {g : Seg} {i : Slot} : i ∈ s.slotsAfter g ↔ ∀ p, (s.seg g).position = some p → p < i := by
  unfold State.slotsAfter
  cases (s.seg g).position <;> simp [allSlots_mem]

theorem slotsAfter_sorted (s : State) (g : Seg) : (s.slotsAfter g).Pairwise (· < ·) := by
  have h : allSlots.Pairwise (· < ·) := List.pairwise_lt_finRange 96
  unfold State.slotsAfter
  split
  · exact h.filter _
  · exact h

theorem nextPoll_eq {s : State} {g : Seg} {i : Slot} (h : s.servedOn g i = true) :
    s.nextPoll g = match (s.slotsAfter g).find? (s.pollable g (s.seg g).round) with
      | some j => some (j, (s.seg g).round)
      | none => searchRounds s g 8 (s.seg g).round := by
  have hany : allSlots.any (s.servedOn g) = true := List.any_eq_true.mpr ⟨i, allSlots_mem i, h⟩
  unfold State.nextPoll
  dsimp only
  rw [if_pos hany]
  rfl

theorem nextPoll_isSome (s : State) (g : Seg) :
    (s.nextPoll g).isSome = true ↔ ∃ (i : Slot) (w : Well), s.well i = some w ∧ w.cfg.inService = true ∧ w.cfg.seg = g := by
  constructor
  · intro h
    by_cases hany : allSlots.any (s.servedOn g) = true
    · obtain ⟨i, -, hi⟩ := List.any_eq_true.mp hany
      obtain ⟨w, hw⟩ := (servedOn_iff s g i).mp hi
      exact ⟨i, w, hw⟩
    · unfold State.nextPoll at h
      dsimp only at h
      rw [if_neg hany] at h
      exact nomatch h
  · rintro ⟨i, w, hw⟩
    have hi := (servedOn_iff s g i).mpr ⟨w, hw⟩
    rw [nextPoll_eq hi]
    split
    · rfl
    · exact searchRounds_isSome hi 8 _ (by omega)

theorem nextPoll_pollable {s : State} {g : Seg} {i : Slot} {r : Fin 8} (h : s.nextPoll g = some (i, r)) : s.pollable g r i = true := by
  obtain ⟨j, w, hw⟩ := (nextPoll_isSome s g).mp (by rw [h]; rfl)
  rw [nextPoll_eq ((servedOn_iff s g j).mpr ⟨w, hw⟩)] at h
  split at h
  · next k hk =>
    obtain ⟨rfl, rfl⟩ := Prod.mk.inj (Option.some.inj h)
    exact List.find?_some hk
  · exact searchRounds_pollable h

/-- The search finds the first slot after the poll position that is pollable in the present round. -/
theorem nextPoll_first {s : State} {g : Seg} {j : Slot} (h : s.pollable g (s.seg g).round j = true)
    (hafter : ∀ p, (s.seg g).position = some p → p < j) :
    ∃ i : Slot, s.nextPoll g = some (i, (s.seg g).round) ∧ i ≤ j ∧ ∀ p, (s.seg g).position = some p → p < i := by
  have hj : j ∈ s.slotsAfter g := mem_slotsAfter.mpr hafter
  obtain ⟨i, hi⟩ := Option.isSome_iff_exists.mp (List.find?_isSome.mpr ⟨j, hj, h⟩)
  obtain ⟨-, before, after, hsplit, hbefore⟩ := List.find?_eq_some_iff_append.mp hi
  refine ⟨i, ?_, ?_, mem_slotsAfter.mp (List.mem_of_find?_eq_some hi)⟩
  · rw [nextPoll_eq (pollable_served h), hi]
  · have hsorted := slotsAfter_sorted s g
    rw [hsplit] at hj hsorted
    rcases List.mem_append.mp hj with hb | hb
    · have hn := hbefore j hb
      rw [h] at hn
      exact nomatch hn
    · rcases List.mem_cons.mp hb with rfl | ha
      · exact le_refl _
      · exact le_of_lt ((List.pairwise_cons.mp (List.pairwise_append.mp hsorted).2.1).1 j ha)

/-! ## The head of the queue -/

theorem entryTravel_eq {s : State} {e : Entry} {w : Well} (h : s.well e.slot = some w) : s.entryTravel e = travelOf w e.target := by
  unfold State.entryTravel
  rw [h]

theorem overBudget_eq_false {s : State} {g : Seg} {e : Entry} {w : Well} (hw : s.well e.slot = some w)
    (h : e.cls = .protective ∨ travelOf w e.target ≤ (s.seg g).budgetInForce) : s.overBudget g e = false := by
  unfold State.overBudget
  rw [entryTravel_eq hw]
  rcases h with h | h
  · simp [h]
  · simp [h]

theorem testHead_nil {s : State} {g : Seg} (h : (s.seg g).queue = []) : testHead g s = s := by
  unfold testHead Config.queueCap dropOverBudget
  rw [h]

theorem testHead_stays {s : State} {g : Seg} {e : Entry} {rest : List Entry} (h : (s.seg g).queue = e :: rest)
    (ho : s.overBudget g e = false) : testHead g s = s := by
  unfold testHead Config.queueCap dropOverBudget
  rw [h]
  dsimp only
  rw [ho]
  rfl

theorem sendableHead_cons {s : State} {g : Seg} {e : Entry} {rest : List Entry} (h : (s.seg g).queue = e :: rest) :
    s.sendableHead g = if s.sendable g e then some e else none := by
  unfold State.sendableHead
  rw [h]

theorem sendableHead_nil {s : State} {g : Seg} (h : (s.seg g).queue = []) : s.sendableHead g = none := by
  unfold State.sendableHead
  rw [h]

theorem sendable_iff {s : State} {g : Seg} {e : Entry} {w : Well} (hw : s.well e.slot = some w) :
    s.sendable g e = true ↔ e.cls = .protective ∨ travelOf w e.target + (s.seg g).outstanding ≤ (s.seg g).budgetInForce := by
  unfold State.sendable
  rw [entryTravel_eq hw]
  simp

/-! ## Turns -/

theorem canBegin_of {s : State} {g : Seg} (hd : s.unit.role = .duty) (hq : Quiet s g) : s.canBegin g = true := by
  obtain ⟨ht, hs, ho⟩ := hq
  unfold State.canBegin State.isDuty
  simp [hd, ht, hs, ho]

theorem takeTurn_free {s : State} {g : Seg} (hd : s.unit.role = .duty) (hq : Quiet s g) (hp : (s.seg g).presenceDue = false)
    (want : Turn → Bool) :
    takeTurn g want s =
      if want (chooseTurn g s).2 then
        match (chooseTurn g s).2 with
        | .poll i r => beginPoll g i r (chooseTurn g s).1
        | .set e => beginSet g e (chooseTurn g s).1
        | .idle => (chooseTurn g s).1
      else (chooseTurn g s).1 := by
  unfold takeTurn
  rw [canBegin_of hd hq, hp]
  rfl

theorem beginPoll_eq {s : State} {g : Seg} {i : Slot} {r : Fin 8} {w : Well} (hw : s.well i = some w) :
    beginPoll g i r s = s.setSeg g
      { s.seg g with
        rateInForce := (s.seg g).settings.rate
        pointer := (s.seg g).pointer + 1
        position := some i
        round := r
        txn := some ⟨.poll, some i, w.cfg.address, s.timeBase, (s.seg g).settings.replyTimeout, none,
          ⟨some (s.seg g).pointer, (s.seg g).position, (s.seg g).round, decide ((s.seg g).counters.transactions < 65535)⟩⟩
        sending := some (FieldFrame.poll s.ownAddress w.cfg.address)
        counters := { (s.seg g).counters with transactions := satInc 65535 (s.seg g).counters.transactions } } := by
  unfold beginPoll
  rw [hw]
  dsimp only
  rw [beginTxn, State.modSeg_eq, State.modSeg_eq, State.seg_setSeg_self, State.setSeg_setSeg]
  rfl

theorem chooseTurn_poll {s : State} {g : Seg} {x : Slot × Fin 8} (hx : s.nextPoll g = some x)
    (h : (s.seg g).settings.pattern.getLsbD (s.seg g).pointer.val = true ∨ (testHead g s = s ∧ s.sendableHead g = none)) :
    chooseTurn g s = (s, .poll x.1 x.2) := by
  unfold chooseTurn
  by_cases hp : (s.seg g).settings.pattern.getLsbD (s.seg g).pointer.val = true
  · rw [if_pos hp, hx]
  · obtain ⟨hhead, hnone⟩ := h.resolve_left hp
    rw [if_neg hp]
    dsimp only
    rw [hhead, hnone, hx]

theorem chooseTurn_head {s : State} {g : Seg} {e : Entry}
    (h : (s.seg g).settings.pattern.getLsbD (s.seg g).pointer.val = false ∨ s.nextPoll g = none) (ht : testHead g s = s)
    (he : s.sendableHead g = some e) : chooseTurn g s = (s, .set e) := by
  unfold chooseTurn
  by_cases hp : (s.seg g).settings.pattern.getLsbD (s.seg g).pointer.val = true
  · have hn : s.nextPoll g = none := h.resolve_left (by rw [hp]; decide)
    rw [if_pos hp, hn]
    dsimp only
    rw [ht, he]
  · rw [if_neg hp]
    dsimp only
    rw [ht, he]

/-- Settles O26: the search by its rounds, and the turn by what the head of the queue allows. -/
theorem pollTurnPollsTheSlotTheSearchFinds : Obligations.PollTurnPollsTheSlotTheSearchFinds := by
  unfold Obligations.PollTurnPollsTheSlotTheSearchFinds
  refine ⟨fun s g => ⟨nextPoll_isSome s g, fun i r => nextPoll_pollable, fun j => nextPoll_first⟩,
    fun s g i r w hheld hd hq hp hhead hx hw => ?_⟩
  have hchoose : chooseTurn g s = (s, .poll i r) := by
    refine chooseTurn_poll hx (hhead.imp_right fun hhead => ?_)
    rcases hhead with hempty | ⟨e, rest, v, hqueue, hcls, hv, hle, hlt⟩
    · exact ⟨testHead_nil hempty, sendableHead_nil hempty⟩
    · refine ⟨testHead_stays hqueue (overBudget_eq_false hv (.inr hle)), ?_⟩
      have hnot : ¬ s.sendable g e = true := fun h => ((sendable_iff hv).mp h).elim hcls (Nat.not_le.mpr hlt)
      rw [sendableHead_cons hqueue, if_neg hnot]
  refine (Event.exec_free (.poll g) hheld).trans (congrArg Host.Outcome.next ?_)
  rw [takeTurn_free hd hq hp, hchoose]
  exact beginPoll_eq hw

/-! ## Heads that leave -/

theorem examineFrom_noPending (g : Seg) (slots : List Slot) {s : State} (h : NoPending s) : examineFrom g slots s = s := by
  induction slots with
  | nil => rfl
  | cons i rest ih =>
    unfold examineFrom
    cases hw : s.well i with
    | none => exact ih
    | some w =>
      dsimp only
      rw [h i w hw]
      dsimp only
      split <;> exact ih

theorem examinePending_noPending (g : Seg) {s : State} (h : NoPending s) : examinePending g s = s := by
  unfold examinePending
  split
  · exact examineFrom_noPending g _ h
  · rfl

theorem NoPending.congr {s t : State} (h : NoPending s) (hw : ∀ j, t.well j = s.well j) : NoPending t :=
  fun j v hv => h j v ((hw j).symm.trans hv)

theorem leaveEffects_well (e : Entry) (s : State) (j : Slot) : (leaveEffects e s).well j = s.well j := by
  unfold leaveEffects
  split
  · exact endBalancing_well _ _ _
  · rfl

theorem leaveEffects_segs (e : Entry) (s : State) : (leaveEffects e s).segs = s.segs := by
  unfold leaveEffects endBalancing
  split
  · split <;> rfl
  · rfl

theorem departed_noPending (g : Seg) (e : Entry) {s : State} (h : NoPending s) : departed g e s = leaveEffects e s :=
  examinePending_noPending g (h.congr (leaveEffects_well e s))

/-- Segment `q` without its head, which counts as a drop. -/
def Segment.dropHead (q : Segment) (rest : List Entry) : Segment :=
  { q with queue := rest, counters := { q.counters with drops := satInc 65535 q.counters.drops } }

theorem dropOverBudget_cons {g : Seg} {n : Nat} {s : State} {e : Entry} {rest : List Entry} (hq : (s.seg g).queue = e :: rest)
    (ho : s.overBudget g e = true) (h : NoPending s) :
    dropOverBudget g (n + 1) s = dropOverBudget g n (leaveEffects e (s.setSeg g ((s.seg g).dropHead rest))) := by
  have hn : NoPending (s.setSeg g ((s.seg g).dropHead rest)) := h
  rw [dropOverBudget, hq]
  dsimp only
  rw [if_pos ho]
  exact congrArg (dropOverBudget g n) (departed_noPending g e hn)

/-- Fuel above the length of the queue changes nothing. -/
theorem dropOverBudget_succ (g : Seg) (n : Nat) {s : State} (h : NoPending s) (hn : (s.seg g).queue.length ≤ n) :
    dropOverBudget g (n + 1) s = dropOverBudget g n s := by
  induction n generalizing s with
  | zero =>
    have hq : (s.seg g).queue = [] := List.length_eq_zero_iff.mp (Nat.le_zero.mp hn)
    unfold dropOverBudget
    rw [hq]
  | succ n ih =>
    cases hq : (s.seg g).queue with
    | nil =>
      unfold dropOverBudget
      rw [hq]
    | cons e rest =>
      by_cases ho : s.overBudget g e = true
      · rw [dropOverBudget_cons hq ho h, dropOverBudget_cons hq ho h]
        have hw : ∀ j, (leaveEffects e (s.setSeg g ((s.seg g).dropHead rest))).well j = s.well j := leaveEffects_well e _
        refine ih (h.congr hw) ?_
        have hseg : (leaveEffects e (s.setSeg g ((s.seg g).dropHead rest))).seg g = (s.seg g).dropHead rest := by
          unfold State.seg
          rw [leaveEffects_segs]
          exact State.seg_setSeg_self s g _
        rw [hseg]
        rw [hq] at hn
        exact Nat.le_of_succ_le_succ hn
      · rw [dropOverBudget, dropOverBudget, hq]
        dsimp only
        rw [if_neg ho, if_neg ho]

/-- What the over-budget head leaves behind: the queue without it, and its balancing move ended. -/
theorem testHead_drops {g : Seg} {s : State} {e : Entry} {rest : List Entry} (hq : (s.seg g).queue = e :: rest)
    (hl : (s.seg g).queue.length ≤ 16) (ho : s.overBudget g e = true) (h : NoPending s) :
    testHead g s = testHead g (leaveEffects e (s.setSeg g ((s.seg g).dropHead rest))) := by
  have hw : ∀ j, (leaveEffects e (s.setSeg g ((s.seg g).dropHead rest))).well j = s.well j := leaveEffects_well e _
  have hseg : (leaveEffects e (s.setSeg g ((s.seg g).dropHead rest))).seg g = (s.seg g).dropHead rest := by
    unfold State.seg
    rw [leaveEffects_segs]
    exact State.seg_setSeg_self s g _
  refine (dropOverBudget_cons (n := 16) hq ho h).trans (dropOverBudget_succ g 16 (h.congr hw) ?_).symm
  rw [hseg]
  rw [hq] at hl
  exact Nat.le_of_succ_le hl

/-- The poll search reads the records, the poll position and the round alone. -/
theorem nextPoll_congr {s t : State} {g : Seg} (hw : ∀ j, t.well j = s.well j) (hp : (t.seg g).position = (s.seg g).position)
    (hr : (t.seg g).round = (s.seg g).round) : t.nextPoll g = s.nextPoll g := by
  have hpoll : ∀ r, t.pollable g r = s.pollable g r := fun r => funext fun i => by
    unfold State.pollable
    rw [hw]
  have hserved : t.servedOn g = s.servedOn g := funext fun i => by
    unfold State.servedOn
    rw [hw]
  have hsearch : ∀ n r, searchRounds t g n r = searchRounds s g n r := fun n => by
    induction n with
    | zero => exact fun _ => rfl
    | succ n ih =>
      intro r
      unfold searchRounds
      rw [hpoll, ih]
  unfold State.nextPoll
  simp only [hserved, hp, hr, hpoll, hsearch]

/-- Two states of which the choices at the pattern entry are equal where the head is looked at. -/
theorem chooseTurn_congr {s t : State} {g : Seg} (hset : (t.seg g).settings = (s.seg g).settings)
    (hptr : (t.seg g).pointer = (s.seg g).pointer) (hx : t.nextPoll g = s.nextPoll g)
    (h : (s.seg g).settings.pattern.getLsbD (s.seg g).pointer.val = false ∨ s.nextPoll g = none)
    (ht : testHead g s = testHead g t) : chooseTurn g s = chooseTurn g t := by
  unfold chooseTurn
  rw [hset, hptr, hx]
  rcases h with h | h
  · rw [h, if_neg Bool.false_ne_true, if_neg Bool.false_ne_true, ht]
  · rw [h, ht]

theorem balancingQueued_iff (s : State) (i : Slot) :
    s.balancingQueued i = true ↔ ∃ b, s.balancer.move = some b ∧ b.slot = i ∧ b.phase = .queued := by
  unfold State.balancingQueued
  cases s.balancer.move <;> simp

theorem leaveEffects_owned {e : Entry} {s : State} (hc : e.cls = .balance)
    (h : ∃ b, s.balancer.move = some b ∧ b.slot = e.slot ∧ b.phase = .queued) :
    leaveEffects e s = { s with balancer := { s.balancer with move := none, lastEnd := some (.notMade, s.timeBase) } } := by
  have hq := (balancingQueued_iff s e.slot).mpr h
  obtain ⟨b, hb, -⟩ := h
  unfold leaveEffects endBalancing
  rw [if_pos (by rw [hq]; simp [hc]), hb]
  rfl

theorem leaveEffects_free {e : Entry} {s : State}
    (h : ¬ (e.cls = .balance ∧ ∃ b, s.balancer.move = some b ∧ b.slot = e.slot ∧ b.phase = .queued)) : leaveEffects e s = s := by
  unfold leaveEffects
  refine if_neg fun hc => h ?_
  obtain ⟨hcls, hq⟩ := Bool.and_eq_true_iff.mp hc
  exact ⟨of_decide_eq_true hcls, (balancingQueued_iff s e.slot).mp hq⟩

theorem beginSet_eq {s : State} {g : Seg} {e : Entry} {w : Well} (hw : s.well e.slot = some w) :
    beginSet g e s = s.setSeg g
      { s.seg g with
        rateInForce := (s.seg g).settings.rate
        pointer := (s.seg g).pointer + 1
        txn := some ⟨.set, some e.slot, w.cfg.address, s.timeBase, (s.seg g).settings.replyTimeout, none,
          ⟨some (s.seg g).pointer, (s.seg g).position, (s.seg g).round, decide ((s.seg g).counters.transactions < 65535)⟩⟩
        sending := some (FieldFrame.set s.ownAddress w.cfg.address e.target e.outlet e.cls)
        queue := replaceSlot e.slot { e with sent := true } (s.seg g).queue
        sentCopy := some ⟨e.slot, e.target, e.outlet, e.cls, travelOf w e.target⟩
        counters := { (s.seg g).counters with transactions := satInc 65535 (s.seg g).counters.transactions } } := by
  unfold beginSet
  rw [hw]
  dsimp only
  rw [beginTxn, State.modSeg_eq, State.modSeg_eq, State.seg_setSeg_self, State.setSeg_setSeg, entryTravel_eq hw]
  rfl

/-- The head is the only entry of its slot. -/
theorem replaceSlot_head {e : Entry} (x : Entry) {rest : List Entry} (h : QueueLaw (e :: rest)) :
    replaceSlot e.slot x (e :: rest) = x :: rest := by
  have hrest : ∀ y ∈ rest, y.slot ≠ e.slot := fun y hy hs => by
    have hn := h.2.1
    rw [List.map_cons, List.nodup_cons] at hn
    exact hn.1 (hs ▸ List.mem_map_of_mem hy)
  unfold replaceSlot
  rw [List.map_cons, if_pos rfl]
  refine congrArg (x :: ·) ?_
  exact (List.map_congr_left fun y hy => if_neg (hrest y hy)).trans (List.map_id _)

/-- Settles O27: the head as `testHead` leaves it, and the same turn taken behind a head that has left. -/
theorem commandTurnSendsTheHead : Obligations.CommandTurnSendsTheHead := by
  unfold Obligations.CommandTurnSendsTheHead
  intro s g e rest w hheld hd hq hlaw hp hentry hqueue hw
  refine ⟨fun hsend => ?_, fun hcls hsent hover hnone => ?_⟩
  · have hle : e.cls = .protective ∨ travelOf w e.target ≤ (s.seg g).budgetInForce :=
      hsend.imp_right fun h => (Nat.le_add_right _ _).trans h
    have hchoose : chooseTurn g s = (s, .set e) := by
      refine chooseTurn_head hentry (testHead_stays hqueue (overBudget_eq_false hw hle)) ?_
      rw [sendableHead_cons hqueue, if_pos ((sendable_iff hw).mpr hsend)]
    refine (Event.exec_free (.set g) hheld).trans (congrArg Host.Outcome.next ?_)
    rw [takeTurn_free hd hq hp, hchoose]
    refine (beginSet_eq hw).trans ?_
    rw [hqueue, replaceSlot_head { e with sent := true } (hqueue ▸ hlaw)]
    rfl
  · have ho : s.overBudget g e = true := by
      unfold State.overBudget
      rw [entryTravel_eq hw]
      simp [hcls, hsent, hover]
    have htest := testHead_drops hqueue hlaw.1 ho hnone
    have turn {t : State} (ht : leaveEffects e (s.setSeg g ((s.seg g).dropHead rest)) = t) (hu : t.unit = s.unit)
        (hh : t.held = s.held) (c : Instr) (hc : c = .set g ∨ c = .poll g) : exec c s = exec c t := by
      have hseg : t.seg g = (s.seg g).dropHead rest := by
        rw [← ht]
        unfold State.seg
        rw [leaveEffects_segs]
        exact State.seg_setSeg_self s g _
      have hwells : ∀ j, t.well j = s.well j := fun j => by
        rw [← ht]
        exact leaveEffects_well e _ j
      have hchoose : chooseTurn g s = chooseTurn g t :=
        chooseTurn_congr (by rw [hseg]; rfl) (by rw [hseg]; rfl)
          (nextPoll_congr hwells (by rw [hseg]; rfl) (by rw [hseg]; rfl)) hentry (ht ▸ htest)
      have hquiet : Quiet t g := by
        unfold Quiet
        rw [hseg]
        exact hq
      have hdue : (t.seg g).presenceDue = false := by rw [hseg]; exact hp
      have same (want : Turn → Bool) : takeTurn g want s = takeTurn g want t := by
        rw [takeTurn_free hd hq hp, takeTurn_free (hu ▸ hd) hquiet hdue, hchoose]
      rcases hc with rfl | rfl
      · rw [Event.exec_free (.set g) hheld, Event.exec_free (.set g) (hh.trans hheld), same]
      · rw [Event.exec_free (.poll g) hheld, Event.exec_free (.poll g) (hh.trans hheld), same]
    intro left owned ended c hc
    exact ⟨fun h => turn (leaveEffects_owned h.1 h.2) rfl rfl c hc, fun h => turn (leaveEffects_free h) rfl rfl c hc⟩

end Sys2Proof.Machine
end

section
/-! PROOF. Good replies: an accepted SAMPLE is stored (O31), and a good ECHO writes the target and the outlet (O37). What follows the
writing leaves the keys of the records. -/

-- One theorem at a time: the one-text build of the package runs out of threads otherwise.
set_option Elab.async false

namespace Sys2Proof.Machine

/-! ## What follows the writing of a record -/

/-- From `s` to `t` the time base, the Role Unit and the key of every record are the same. -/
structure Still (s t : State) : Prop where
  timeBase : t.timeBase = s.timeBase
  unit : t.unit = s.unit
  key : ∀ j, (t.well j).map Well.key = (s.well j).map Well.key

theorem Still.refl (s : State) : Still s s := ⟨rfl, rfl, fun _ => rfl⟩

theorem Still.trans {s t u : State} (a : Still s t) (b : Still t u) : Still s u :=
  ⟨b.timeBase.trans a.timeBase, b.unit.trans a.unit, fun j => (b.key j).trans (a.key j)⟩

theorem Inner.still {d : Prop} {s t : State} (a : Inner d s t) : Still s t := ⟨a.timeBase, a.unit, a.key⟩

theorem still_runEvals (s : State) : Still s (runEvals s) :=
  have a := inner_runEvals (d := False) s
  ⟨a.timeBase, a.unit, a.key⟩

theorem still_modSeg (s : State) (g : Seg) (f : Segment → Segment) : Still s (s.modSeg g f) := ⟨rfl, rfl, fun _ => rfl⟩

theorem still_askEvalOf (s : State) (o : Option Line) : Still s (s.askEvalOf o) := by
  cases o with
  | none => exact .refl s
  | some l => exact ⟨rfl, rfl, fun _ => rfl⟩

/-- From `s` to `t` the record of slot `i` has got this key, and the other keys, the time base and the Role Unit are the same. -/
structure Written (i : Slot) (k : WellCfg × Line × Option Nat × Option Sample × Bool × Nat × Bool) (s t : State) : Prop where
  timeBase : t.timeBase = s.timeBase
  unit : t.unit = s.unit
  own : (t.well i).map Well.key = some k
  others : ∀ j, j ≠ i → (t.well j).map Well.key = (s.well j).map Well.key

variable {i : Slot} {k : WellCfg × Line × Option Nat × Option Sample × Bool × Nat × Bool}

theorem Written.still {s t u : State} (a : Written i k s t) (b : Still t u) : Written i k s u :=
  ⟨b.timeBase.trans a.timeBase, b.unit.trans a.unit, (b.key i).trans a.own, fun j hj => (b.key j).trans (a.others j hj)⟩

theorem Written.after {s t u : State} (a : Still s t) (b : Written i k t u) : Written i k s u :=
  ⟨b.timeBase.trans a.timeBase, b.unit.trans a.unit, b.own, fun j hj => (b.others j hj).trans (a.key j)⟩

theorem Written.again {l : WellCfg × Line × Option Nat × Option Sample × Bool × Nat × Bool} {s t u : State}
    (a : Written i l s t) (b : Written i k t u) : Written i k s u :=
  ⟨b.timeBase.trans a.timeBase, b.unit.trans a.unit, b.own, fun j hj => (b.others j hj).trans (a.others j hj)⟩

theorem written_putWell (s : State) (i : Slot) (v : Well) : Written i v.key s (putWell s i (some v)) where
  timeBase := by rw [putWell_frame]
  unit := by rw [putWell_frame]
  own := by rw [putWell_well, if_pos rfl]; rfl
  others := fun j hj => by rw [putWell_well, if_neg hj]

theorem still_handJoin (i : Slot) (b : Option Line) (s : State) : Still s (handJoin i b s) := (inner_handJoin (d := False) i b s).still

theorem still_examineOwn (i : Slot) (s : State) : Still s (examineOwn i s) := (inner_examineOwn (d := False) i s).still

/-! ## Samples -/

/-- The record with the sample just stored. -/
def Well.storing (w : Well) (q : Sample) : Well :=
  { w with last := some q, target := some (w.target.getD q.position), answering := true, missCount := 0 }

theorem storeSample_some {s : State} {i : Slot} {w : Well} (hw : s.well i = some w) (r : RawSample) :
    storeSample i r s =
      let u := putWell s i (some (w.storing (r.stored w.cfg.assumedFlow s.timeBase)))
      handJoin i (rosterLine (some w)) (examineOwn i (u.askEvalOf (rosterLine (u.well i)))) := by
  unfold storeSample Well.storing
  rw [hw]
  dsimp only
  cases w.target <;> rfl

theorem written_storeSample {s : State} {i : Slot} {w : Well} (hw : s.well i = some w) (r : RawSample) :
    Written i (w.storing (r.stored w.cfg.assumedFlow s.timeBase)).key s (storeSample i r s) := by
  rw [storeSample_some hw]
  exact (written_putWell s i _).still ((still_askEvalOf _ _).trans ((still_examineOwn _ _).trans (still_handJoin _ _ _)))

theorem written_acceptSample {s : State} {i : Slot} {w : Well} (hw : s.well i = some w) (r : RawSample) :
    Written i (w.storing (r.stored w.cfg.assumedFlow s.timeBase)).key s (acceptSample i r s) := by
  have judged := (written_storeSample hw r).still (inner_judgeMove i (storeSample i r s)).still
  unfold acceptSample
  rw [hw]
  dsimp only
  have trimmed := (judged.still (inner_testSample (d := False) i (r.stored w.cfg.assumedFlow s.timeBase)
    (judgeMove i (storeSample i r s)).2 _).still).still (inner_trimSample (d := False) i _).still
  split
  · exact trimmed
  · exact trimmed.still (inner_offerRoutine (d := False) _ _).still

theorem creditSample_accepted {p : List Byte} (h : (RawSample.parse p).malformed = false) (g : Seg) (i : Slot) (s : State) :
    creditSample g i p s = (acceptSample i (RawSample.parse p) s, true) := by
  unfold creditSample
  dsimp only
  rw [h]
  rfl

theorem runEvals_txn (s : State) (g : Seg) : ((runEvals s).seg g).txn = (s.seg g).txn :=
  (calm_runEvals (d := False) (l := False) s).txn g

theorem Calm.overheard {d l : Prop} {s t : State} (c : Calm d l s t) (g : Seg) : (t.seg g).overheard = (s.seg g).overheard :=
  have e := congrArg Segment.overheard (c.seg g)
  e

theorem runEvals_overheard (s : State) (g : Seg) : ((runEvals s).seg g).overheard = (s.seg g).overheard :=
  (calm_runEvals (d := False) (l := False) s).overheard g

/-- A good SAMPLE from the awaited well is accepted, and its POLL ends. -/
theorem receiveFrame_sample {s : State} {g : Seg} {f : FieldFrame} {x : Txn} {i : Slot} {w : Well} (h : Awaits s g x i w)
    (hk : x.kind = .poll) (hf : Arrives f x.dest s.ownAddress) (hs : f.isSample = true)
    (hm : (RawSample.parse f.payload).malformed = false) :
    receiveFrame g f s = runEvals (endTxn g (acceptSample i (RawSample.parse f.payload) s)) := by
  obtain ⟨hhead, hsource, hdest⟩ := hf
  rw [receiveFrame_wellhead hhead, wellheadFrame_awaiting h.awaiting, judgeReply_poll hk hsource hdest]
  unfold judgePoll
  rw [hs, h.addressed]
  dsimp only
  rw [creditSample_accepted hm]
  rfl

theorem judgeOverheard_set {s : State} {g : Seg} {o : Overheard} {f : FieldFrame} (hk : o.kind = .set) (hsource : f.source = o.dest)
    (hdest : f.destination = o.src) : judgeOverheard g o f s = judgeOverheardSet g o f s := by
  unfold judgeOverheard
  rw [hsource, hdest, hk]
  simp only [decide_true, Bool.and_self, if_true]

theorem judgeOverheard_poll {s : State} {g : Seg} {o : Overheard} {f : FieldFrame} (hk : o.kind = .poll) (hsource : f.source = o.dest)
    (hdest : f.destination = o.src) : judgeOverheard g o f s = judgeOverheardPoll g o f s := by
  unfold judgeOverheard
  rw [hsource, hdest, hk]
  simp only [decide_true, Bool.and_self, if_true]

theorem wellheadFrame_overheard {s : State} {g : Seg} {o : Overheard} (ht : (s.seg g).txn = none)
    (ho : (s.seg g).overheard = some o) (f : FieldFrame) : wellheadFrame g f s = judgeOverheard g o f s := by
  unfold wellheadFrame
  rw [awaiting_eq_none ht, ho]

theorem receiveFrame_overheard {s : State} {g : Seg} {o : Overheard} {f : FieldFrame} (ht : (s.seg g).txn = none)
    (ho : (s.seg g).overheard = some o) (hf : Arrives f o.dest o.src) :
    receiveFrame g f s = runEvals (judgeOverheard g o f s) := by
  obtain ⟨hhead, -, -⟩ := hf
  rw [receiveFrame_wellhead hhead, wellheadFrame_overheard ht ho]

/-- Settles O31: `acceptSample` writes the record of the slot, and the end of the exchange leaves it. -/
theorem acceptedSampleIsStored : Obligations.AcceptedSampleIsStored := by
  unfold Obligations.AcceptedSampleIsStored
  intro s g f i w hheld hs hm stored taken
  have exec_eq : exec (.sample g f) s = .next (receiveFrame g f s) := Event.exec_free (.sample g f) hheld
  have hundisturbed : Undisturbed s (receiveFrame g f s) := (keeps_receiveFrame g f s).undisturbed
  have finish {t : State} (hw : s.well i = some w) (h : receiveFrame g f s = t)
      (ht : Written i (w.storing stored).key s t) : taken t := by
    refine ⟨h ▸ hundisturbed, ht.timeBase, ht.unit, ht.own, ht.others⟩
  refine ⟨fun x ha hk hf => ?_, fun o ht ho hk hi hw hf => ?_⟩
  · have hreceive := receiveFrame_sample ha hk hf hs hm
    have hw : s.well i = some w := ha.2.2.2.1
    refine ⟨_, exec_eq.trans (congrArg _ hreceive), finish hw hreceive ?_, ?_⟩
    · exact (written_acceptSample hw _).still ((still_modSeg _ _ _).trans (still_runEvals _))
    · rw [runEvals_txn]
      exact congrArg Segment.txn (seg_modSeg_self _ _ _)
  · have hreceive : receiveFrame g f s = runEvals (closeOverheard g (acceptSample i (RawSample.parse f.payload) s)) := by
      rw [receiveFrame_overheard ht ho hf, judgeOverheard_poll hk hf.2.1 hf.2.2]
      unfold judgeOverheardPoll
      rw [hi]
      dsimp only
      rw [hs, creditSample_accepted hm]
      rfl
    refine ⟨_, exec_eq.trans (congrArg _ hreceive), finish hw hreceive ?_, ?_⟩
    · exact (written_acceptSample hw _).still ((still_modSeg _ _ _).trans (still_runEvals _))
    · rw [runEvals_overheard]
      exact congrArg Segment.overheard (seg_modSeg_self _ _ _)

/-! ## Echoes -/

theorem written_goodReply {s : State} {i : Slot} {w : Well} (hw : s.well i = some w) :
    Written i { w with missCount := 0, answering := true }.key s (goodReply i s) := by
  unfold goodReply
  rw [modWell_some hw]
  exact (written_putWell s i _).still ((still_examineOwn _ _).trans (still_handJoin _ _ _))

theorem written_writeEcho {s : State} {i : Slot} {w : Well} (hw : s.well i = some w) (target : Nat) (outlet : Line) :
    Written i { w with target := some target, outlet := outlet }.key s (writeEcho i target outlet s) := by
  unfold writeEcho
  rw [hw]
  dsimp only
  split
  · exact (written_putWell s i _).still (still_runEvals _)
  · exact ((written_putWell s i _).still (inner_outletRuleAt (d := False) i _).still).still (still_runEvals _)

/-- The key of a record decides the key of the record written from it. -/
theorem key_echo {v w : Well} {target : Nat} {outlet : Line} (h : v.key = { w with missCount := 0, answering := true }.key) :
    { v with target := some target, outlet := outlet }.key = (w.cfg, outlet, some target, w.last, true, 0, w.forced) := by
  simp only [Well.key, Prod.mk.injEq] at h ⊢
  obtain ⟨hcfg, -, -, hlast, hanswering, hcount, hforced⟩ := h
  exact ⟨hcfg, trivial, trivial, hlast, hanswering, hcount, hforced⟩

/-- A good reply, the end of the move and the writing of the echo. -/
theorem written_echo {s : State} {i : Slot} {w : Well} (hw : s.well i = some w) (target : Nat) (outlet : Line) :
    Written i (w.cfg, outlet, some target, w.last, true, 0, w.forced) s
      (writeEcho i target outlet (endMove i .superseded (goodReply i s))) := by
  have reply := (written_goodReply hw).still (inner_endMove i .superseded (goodReply i s)).still
  obtain ⟨v, hv, hkey⟩ := Option.map_eq_some_iff.mp reply.own
  have echo := written_writeEcho hv target outlet
  rw [key_echo hkey] at echo
  exact reply.again echo

theorem still_openMove (c : SentCopy) (s : State) : Still s (openMove c s) := by
  unfold openMove
  cases hw : s.well c.slot with
  | none => exact .refl s
  | some w =>
    dsimp only
    have put := written_putWell s c.slot { w with move := some ⟨c.target, c.outlet, c.cls, c.travel, s.timeBase⟩ }
    refine Still.trans ⟨put.timeBase, put.unit, fun j => ?_⟩ (still_modSeg _ _ _)
    by_cases hj : j = c.slot
    · rw [hj, put.own, hw]
      rfl
    · exact put.others j hj

theorem openMove_move {c : SentCopy} {s : State} {w : Well} (hw : s.well c.slot = some w) :
    ((openMove c s).well c.slot).bind (·.move) = some ⟨c.target, c.outlet, c.cls, c.travel, s.timeBase⟩ := by
  unfold openMove
  rw [hw]
  dsimp only
  rw [State.well_modSeg, putWell_well, if_pos rfl]
  rfl

theorem openMove_txn (c : SentCopy) (s : State) (g : Seg) : ((openMove c s).seg g).txn = (s.seg g).txn := by
  unfold openMove
  cases s.well c.slot with
  | none => rfl
  | some w =>
    dsimp only
    rw [State.seg_modSeg]
    split
    · next h => rw [putWell_seg, h]
    · rw [putWell_seg]

/-- What a good echo in DUTY does behind the writing of the record. -/
def echoSettled (g : Seg) (c : SentCopy) (s : State) : State :=
  testHead g (clearCopy g (settleEntry g c.slot (advanceBalancing c (openMove c s))))

theorem inner_echoSettled (g : Seg) (c : SentCopy) (s : State) : Inner False (openMove c s) (echoSettled g c s) :=
  (inner_advanceBalancing c _).trans ((inner_settleEntry g c.slot _).trans ((inner_clearCopy g _).trans (inner_testHead g _)))

theorem echoSettled_txn (g : Seg) (c : SentCopy) (s : State) (k : Seg) : ((echoSettled g c s).seg k).txn = (s.seg k).txn := by
  have e := congrArg (fun x => x.2.2.2.2.1) ((inner_echoSettled g c s).core k)
  exact e.trans (openMove_txn c s k)

theorem takeEcho_duty {g : Seg} {c : SentCopy} {s : State} (h : s.unit.role = .duty) :
    takeEcho g c s = echoSettled g c (writeEcho c.slot c.target c.outlet (endMove c.slot .superseded (goodReply c.slot s))) := by
  have hd : (goodReply c.slot s).isDuty = true := by
    have hu : (goodReply c.slot s).unit = s.unit := by
      unfold goodReply
      refine ((inner_handJoin (d := False) _ _ _).unit).trans (((inner_examineOwn (d := False) _ _).unit).trans ?_)
      unfold modWell
      split
      · rw [putWell_frame]
      · rfl
    unfold State.isDuty
    rw [hu, h]
    rfl
  unfold takeEcho
  dsimp only
  rw [if_pos hd]
  rfl

theorem echoMatches_of {f : FieldFrame} {target : Nat} {l : Line} (ht : f.echoTarget = target) (ho : f.echoOutlet = some l) :
    echoMatches f target (some l) = true := by
  unfold echoMatches
  simp [ht, ho]

theorem receiveFrame_echo {s : State} {g : Seg} {f : FieldFrame} {x : Txn} {c : SentCopy} {i : Slot} {w : Well}
    (h : Awaits s g x i w) (hk : x.kind = .set) (hc : (s.seg g).sentCopy = some c) (hf : Arrives f x.dest s.ownAddress)
    (he : f.isEcho = true) (ht : f.echoTarget = c.target) (ho : f.echoOutlet = some c.outlet) :
    receiveFrame g f s = runEvals (takeEcho g c (endTxn g s)) := by
  obtain ⟨hhead, hsource, hdest⟩ := hf
  rw [receiveFrame_wellhead hhead, wellheadFrame_awaiting h.awaiting, judgeReply_set hk hsource hdest]
  unfold judgeSet
  rw [h.addressed, hc]
  dsimp only
  rw [he, echoMatches_of ht ho]
  rfl

theorem takeEcho_copy (g : Seg) (c : SentCopy) (s : State) : ((takeEcho g c s).seg g).sentCopy = none := (takeEcho_exchanges g c s).2

theorem echoSettled_move {g : Seg} {c : SentCopy} {s : State} {w : Well} (hw : s.well c.slot = some w) :
    ((echoSettled g c s).well c.slot).bind (·.move) = some ⟨c.target, c.outlet, c.cls, c.travel, s.timeBase⟩ := by
  rcases (inner_echoSettled g c s).moves c.slot with hm | ⟨hf, -⟩
  · exact hm.trans (openMove_move hw)
  · exact hf.elim

theorem runEvals_move (s : State) (j : Slot) : ((runEvals s).well j).bind (·.move) = (s.well j).bind (·.move) := by
  rcases (inner_runEvals (d := False) s).moves j with hm | ⟨hf, -⟩
  · exact hm
  · exact hf.elim

theorem endTxn_txn (g : Seg) (s : State) : ((endTxn g s).seg g).txn = none := congrArg Segment.txn (seg_modSeg_self _ _ _)

/-- A good echo in DUTY: the record written, the move open, no copy kept. -/
theorem takeEcho_written {s : State} {g : Seg} {c : SentCopy} {w : Well} (hd : s.unit.role = .duty) (hw : s.well c.slot = some w) :
    Written c.slot (w.cfg, c.outlet, some c.target, w.last, true, 0, w.forced) s (takeEcho g c s) ∧
      ((takeEcho g c s).well c.slot).bind (·.move) = some ⟨c.target, c.outlet, c.cls, c.travel, s.timeBase⟩ := by
  rw [takeEcho_duty hd]
  have echo := written_echo hw c.target c.outlet
  obtain ⟨v, hv, -⟩ := Option.map_eq_some_iff.mp echo.own
  refine ⟨(echo.still (still_openMove _ _)).still (inner_echoSettled g c _).still, ?_⟩
  rw [echoSettled_move hv, echo.timeBase]

theorem receiveFrame_overheardEcho {s : State} {g : Seg} {f : FieldFrame} {o : Overheard} {l : Line} {i : Slot}
    (ht : (s.seg g).txn = none) (ho : (s.seg g).overheard = some o) (hk : o.kind = .set) (hl : o.outlet = some l)
    (hi : s.wellAt g o.dest = some i) (hf : Arrives f o.dest o.src) (he : f.isEcho = true) (htarget : f.echoTarget = o.target)
    (houtlet : f.echoOutlet = some l) :
    receiveFrame g f s = runEvals (overheardEcho i o.target l (goodReply i (closeOverheard g s))) := by
  rw [receiveFrame_overheard ht ho hf, judgeOverheard_set hk hf.2.1 hf.2.2]
  unfold judgeOverheardSet
  dsimp only
  rw [hi, hl, he, echoMatches_of htarget houtlet]
  rfl

theorem overheardEcho_move (i : Slot) (target : Nat) (outlet : Line) (s : State) :
    ((overheardEcho i target outlet s).well i).bind (·.move) = none :=
  (sameMoves_writeEcho _ _ _ _).move_none (endMove_move _ _ _)

theorem overheardEcho_overheard (i : Slot) (target : Nat) (outlet : Line) (s : State) (g : Seg) :
    ((overheardEcho i target outlet s).seg g).overheard = (s.seg g).overheard :=
  have move : ((endMove i .superseded s).seg g).overheard = (s.seg g).overheard :=
    Calm.overheard (d := True) (l := False) (calm_endMove _ _ _) g
  (Calm.overheard (d := False) (l := False) (calm_writeEcho i target outlet (endMove i .superseded s)) g).trans move

theorem goodReply_overheard (i : Slot) (s : State) (g : Seg) : ((goodReply i s).seg g).overheard = (s.seg g).overheard :=
  Calm.overheard (d := False) (l := False) (calm_goodReply i s) g

/-- Settles O37: both roles write the record by `written_echo`; in DUTY the move opens behind it, in STANDBY none stands. -/
theorem goodEchoWritesTheRecord : Obligations.GoodEchoWritesTheRecord := by
  unfold Obligations.GoodEchoWritesTheRecord
  constructor
  · intro s g f x c i w hheld hduty ha hk hc hslot hf he ht ho
    subst hslot
    have hw : s.well c.slot = some w := ha.2.2.2.1
    have hreceive := receiveFrame_echo ha hk hc hf he ht ho
    have hend : (endTxn g s).well c.slot = some w := hw
    obtain ⟨written, hmove⟩ := takeEcho_written (s := endTxn g s) (g := g) hduty hend
    have done : Written c.slot _ s (runEvals (takeEcho g c (endTxn g s))) :=
      .after (still_modSeg s g _) (written.still (still_runEvals _))
    obtain ⟨v, hv, hkey⟩ := Option.map_eq_some_iff.mp done.own
    refine ⟨_, v, (Event.exec_free (.echo g f) hheld).trans (congrArg _ hreceive), ?_, done.unit, ?_, ?_, hv, hkey, ?_, done.others⟩
    · exact hreceive ▸ (keeps_receiveFrame g f s).undisturbed
    · rw [runEvals_txn, takeEcho_duty (s := endTxn g s) hduty, echoSettled_txn]
      rw [(calm_writeEcho (d := False) (l := False) _ _ _ _).txn, (calm_endMove (l := False) _ _ _).txn,
        (calm_goodReply (d := False) (l := False) _ _).txn]
      exact endTxn_txn g s
    · have e := (calm_runEvals (d := False) (l := False) (takeEcho g c (endTxn g s))).exchanges g
      exact (congrArg Prod.snd e).trans (takeEcho_copy g c _)
    · have e := runEvals_move (takeEcho g c (endTxn g s)) c.slot
      rw [hv, hmove] at e
      exact e
  · intro s g f o l i w hheld hstandby ht ho hk hl hi hw hf he htarget houtlet
    have hreceive := receiveFrame_overheardEcho ht ho hk hl hi hf he htarget houtlet
    have hclosed : (closeOverheard g s).well i = some w := hw
    have done : Written i _ s (runEvals (overheardEcho i o.target l (goodReply i (closeOverheard g s)))) :=
      .after (still_modSeg s g _) ((written_echo hclosed o.target l).still (still_runEvals _))
    obtain ⟨v, hv, hkey⟩ := Option.map_eq_some_iff.mp done.own
    refine ⟨_, v, (Event.exec_free (.echo g f) hheld).trans (congrArg _ hreceive), ?_, done.unit, ?_, hv, hkey, ?_, done.others⟩
    · exact hreceive ▸ (keeps_receiveFrame g f s).undisturbed
    · rw [runEvals_overheard, overheardEcho_overheard, goodReply_overheard]
      exact congrArg Segment.overheard (seg_modSeg_self _ _ _)
    · have e := runEvals_move (overheardEcho i o.target l (goodReply i (closeOverheard g s))) i
      rw [hv, overheardEcho_move] at e
      exact e

end Sys2Proof.Machine
end

section
/-! PROOF. Rules that carry a relation between states through every operation on the Command Queues, the outlets and the line
evaluations, proved once; a well made silent (O35) and the silence takeover (O40) use them. -/

-- One theorem at a time: the one-text build of the package runs out of threads otherwise.
set_option Elab.async false

namespace Sys2Proof.Machine

/-! ## Relations kept by the Command Queues -/

/-- The relation `R` holds across each elementary step the Command Queues are made of, so it holds across their operations. -/
structure QueueRules (R : State → State → Prop) : Prop where
  refl : ∀ s, R s s
  trans : ∀ {s t u}, R s t → R t u → R s u
  seg : ∀ s g f, (∀ q : Segment, (f q).queueless = q.queueless) → R s (s.modSeg g f)
  pending : ∀ i p s, R s (setPending i p s)
  ending : ∀ r s, R s (endBalancing r s)

namespace QueueRules

variable {R : State → State → Prop} (k : QueueRules R)
include k

theorem modSeg (s : State) (g : Seg) (f : Segment → Segment)
    (h : ∀ q, (f q).queueless = q.queueless := by intro _; rfl) : R s (s.modSeg g f) := k.seg s g f h

theorem leaveEffects (e : Entry) (s : State) : R s (leaveEffects e s) := by
  unfold Machine.leaveEffects
  split
  · exact k.ending _ _
  · exact k.refl s

theorem protEnter {g : Seg} {e : Entry} {s t : State} (h : protEnter g e s = some t) : R s t := by
  unfold Machine.protEnter at h
  split at h
  · cases h
    exact k.modSeg _ _ _
  · split at h
    · cases h
      exact k.trans (k.modSeg s g _) (k.leaveEffects _ _)
    · exact absurd h (by simp)

theorem protReplace (g : Seg) (old e : Entry) (s : State) : R s (protReplace g old e s) :=
  k.trans (k.modSeg s g _) (k.leaveEffects _ _)

theorem examineFrom (g : Seg) (slots : List Slot) (s : State) : R s (examineFrom g slots s) := by
  induction slots generalizing s with
  | nil => exact k.refl s
  | cons i rest ih =>
    unfold Machine.examineFrom
    split
    · exact ih s
    · split
      · split
        · exact ih s
        · simp only
          split
          · exact k.trans (k.trans (k.protReplace _ _ _ _) (k.pending _ _ _)) (ih _)
          · split
            · next t ht => exact k.trans (k.trans (k.protEnter ht) (k.pending _ _ _)) (ih _)
            · exact k.refl s
      · exact ih s

theorem examinePending (g : Seg) (s : State) : R s (examinePending g s) := by
  unfold Machine.examinePending
  split
  · exact k.examineFrom _ _ _
  · exact k.refl s

theorem examineAll (s : State) : R s (examineAll s) :=
  k.trans (k.trans (k.trans (k.examinePending .a s) (k.examinePending .b _)) (k.examinePending .c _)) (k.examinePending .d _)

theorem departed (g : Seg) (e : Entry) (s : State) : R s (departed g e s) :=
  k.trans (k.leaveEffects e s) (k.examinePending g _)

theorem removeEntry (g : Seg) (i : Slot) (s : State) : R s (removeEntry g i s) := by
  unfold Machine.removeEntry
  split
  · exact k.trans (k.modSeg s g _) (k.departed _ _ _)
  · exact k.refl s

theorem arriveProt (i : Slot) (target : Nat) (outlet : Line) (s : State) : R s (arriveProt i target outlet s) := by
  unfold Machine.arriveProt
  split
  · exact k.refl s
  · simp only
    split
    · exact k.pending _ _ _
    · split
      · exact k.trans (k.trans (k.protReplace _ _ _ _) (k.pending _ _ _)) (k.examinePending _ _)
      · split
        · exact k.pending _ _ _
        · split
          · next t ht =>
            have entered := k.trans (k.protEnter ht) (k.pending i none _)
            split
            · exact entered
            · exact k.trans entered (k.examinePending _ _)
          · exact k.pending _ _ _

theorem arriveOther (i : Slot) (target : Nat) (outlet : Line) (cls : Cls) (s : State) :
    R s (arriveOther i target outlet cls s) := by
  unfold Machine.arriveOther
  split
  · exact k.refl s
  · simp only
    split
    · split
      · exact k.leaveEffects _ _
      · exact k.trans (k.modSeg s _ _) (k.departed _ _ _)
    · split
      · exact k.modSeg _ _ _
      · exact k.trans (k.modSeg s _ _) (k.departed _ _ _)

theorem refreshBudget (g : Seg) (s : State) : R s (refreshBudget g s) := by
  unfold Machine.refreshBudget
  split
  · exact k.modSeg _ _ _
  · exact k.refl s

theorem dropOverBudget (g : Seg) (n : Nat) (s : State) : R s (dropOverBudget g n s) := by
  induction n generalizing s with
  | zero => exact k.refl s
  | succ n ih =>
    unfold Machine.dropOverBudget
    split
    · exact k.refl s
    · split
      · exact k.trans (k.trans (k.modSeg s g _) (k.departed _ _ _)) (ih _)
      · exact k.refl s

theorem testHead (g : Seg) (s : State) : R s (testHead g s) := k.dropOverBudget _ _ _

/-- A relation that also bears the removal of a move record bears the end of a move. -/
theorem releaseMove (put : ∀ (s : State) (i : Slot) (w : Well), s.well i = some w → R s (putWell s i (some { w with move := none })))
    (i : Slot) (r : Ending) (s : State) : R s (releaseMove i r s) := by
  unfold Machine.releaseMove
  split
  · exact k.refl s
  · next w hw =>
    split
    · exact k.refl s
    · next m _ =>
      have released := k.trans (k.trans (put s i w hw) (k.modSeg _ w.cfg.seg fun q => { q with outstanding := q.outstanding - m.travel })) (k.refreshBudget w.cfg.seg _)
      simp only
      split
      · exact k.trans released (k.ending _ _)
      · exact released

theorem endMove (put : ∀ (s : State) (i : Slot) (w : Well), s.well i = some w → R s (putWell s i (some { w with move := none })))
    (i : Slot) (r : Ending) (s : State) : R s (endMove i r s) := by
  unfold Machine.endMove
  split
  · exact k.refl s
  · split
    · exact k.trans (k.releaseMove put i r s) (k.testHead _ _)
    · exact k.refl s

theorem releaseMoves (put : ∀ (s : State) (i : Slot) (w : Well), s.well i = some w → R s (putWell s i (some { w with move := none })))
    (r : Ending) (slots : List Slot) (s : State) : R s (releaseMoves r slots s) := by
  induction slots generalizing s with
  | nil => exact k.refl s
  | cons i rest ih => exact k.trans (k.releaseMove put i r s) (ih _)

end QueueRules

/-! ## Relations kept by the open-outlet rule -/

/-- A relation the Command Queues keep, and the hold NO OUTLET and the count of protective SETs with them. -/
structure OutletRules (R : State → State → Prop) : Prop extends QueueRules R where
  reason : ∀ i x s, R s (setReason i .noOutlet x s)
  count : ∀ s : State, R s s.countProt

namespace OutletRules

variable {R : State → State → Prop} (k : OutletRules R)
include k

theorem makeProt (i : Slot) (target : Nat) (s : State) : R s (makeProt i target s) := by
  unfold Machine.makeProt
  split
  · exact k.trans (k.count s) (k.arriveProt _ _ _ _)
  · exact k.refl s

theorem applyOutletRule (i : Slot) (s : State) : R s (applyOutletRule i s) := by
  unfold Machine.applyOutletRule
  split
  · split
    · split
      · split
        · exact k.reason _ _ _
        · exact k.refl s
      · split
        · exact k.refl s
        · simp only
          split
          · exact k.trans (k.reason _ _ _) (k.makeProt _ _ _)
          · exact k.reason _ _ _
    · exact k.refl s
  · exact k.refl s

theorem applyOutletRules (slots : List Slot) (s : State) : R s (applyOutletRules slots s) := by
  induction slots generalizing s with
  | nil => exact k.refl s
  | cons i rest ih => exact k.trans (k.applyOutletRule i s) (ih _)

theorem divertAll (slots : List Slot) (s : State) : R s (divertAll slots s) := by
  induction slots generalizing s with
  | nil => exact k.refl s
  | cons i rest ih =>
    unfold Machine.divertAll
    split
    · exact k.trans (k.trans (k.count s) (k.arriveProt _ _ _ _)) (ih _)
    · exact ih s

theorem diversion (s : State) : R s (diversion s) := k.divertAll _ s

theorem takeoverSets (slots : List Slot) (s : State) : R s (takeoverSets slots s) := by
  induction slots generalizing s with
  | nil => exact k.refl s
  | cons i rest ih =>
    unfold Machine.takeoverSets
    split
    · split
      · exact k.trans (k.makeProt _ _ _) (ih _)
      · exact ih s
    · exact ih s

theorem protectiveAction (i : Slot) (e : ExcKind) (s : State) : R s (protectiveAction i e s) := by
  unfold Machine.protectiveAction
  split
  · exact k.refl s
  · split
    · split
      · exact k.makeProt _ _ _
      · split
        · exact k.makeProt _ _ _
        · split <;> exact k.makeProt _ _ _
      · exact k.refl s
      · exact k.refl s
    · exact k.refl s

end OutletRules

/-! ## Relations kept by the evaluations of the lines -/

/-- A relation the Command Queues keep, and the steps of a line evaluation with them. -/
structure EvalRules (R : State → State → Prop) : Prop extends QueueRules R where
  line : ∀ (s : State) (l : Line) (r : LineRecord), R s (s.setLine l r)
  treat : ∀ (l : Line) (r : LineRecord) (s : State), R s (treatLine l r s)
  balance : ∀ (s : State) (b : BalMove), R s (s.modBalancer fun x => { x with move := some b })
  asked : ∀ (s : State) (x : PerLine Bool), R s { s with evalAsked := x }

namespace EvalRules

variable {R : State → State → Prop} (k : EvalRules R)
include k

theorem balancingPass (s : State) : R s (balancingPass s) := by
  unfold Machine.balancingPass
  split
  · exact k.trans (k.balance _ _) (k.toQueueRules.arriveOther _ _ _ _ _)
  · exact k.refl s

theorem evaluateLine (l : Line) (s : State) : R s (evaluateLine l s) := by
  have treated := k.trans (k.line s l (s.lineRecordOf l)) (k.treat l (s.lineRecordOf l) _)
  unfold Machine.evaluateLine
  dsimp only
  split
  · exact k.trans treated (k.balancingPass _)
  · exact treated

theorem runEvals (s : State) : R s (runEvals s) := by
  have start := k.asked s (.all false)
  have engine : R s (if s.evalAsked.engine then Machine.evaluateLine .engine { s with evalAsked := .all false }
      else { s with evalAsked := .all false }) := by
    split
    · exact k.trans start (k.evaluateLine _ _)
    · exact start
  unfold Machine.runEvals
  dsimp only
  split
  · exact k.trans engine (k.evaluateLine _ _)
  · exact engine

end EvalRules

/-! ## What the queues and the outlets leave alone -/

/-- From `s` to `t` the uplink, the conditions, the line records and the counts of the line kinds are the same. -/
structure Hushed (s t : State) : Prop where
  link : t.link = s.link
  conds : t.conds = s.conds
  lines : t.lines = s.lines
  counts : t.balancer.counts = s.balancer.counts

theorem Hushed.refl (s : State) : Hushed s s := ⟨rfl, rfl, rfl, rfl⟩

theorem Hushed.trans {s t u : State} (a : Hushed s t) (b : Hushed t u) : Hushed s u :=
  ⟨b.link.trans a.link, b.conds.trans a.conds, b.lines.trans a.lines, b.counts.trans a.counts⟩

theorem hushed_putWell (s : State) (i : Slot) (w : Option Well) : Hushed s (putWell s i w) := by
  rw [putWell_frame]
  exact ⟨rfl, rfl, rfl, rfl⟩

theorem hushed_modWell (s : State) (i : Slot) (f : Well → Well) : Hushed s (modWell s i f) := by
  unfold modWell
  split
  · exact hushed_putWell _ _ _
  · exact .refl s

theorem hushed_endBalancing (r : Ending) (s : State) : Hushed s (endBalancing r s) := by
  unfold endBalancing
  split
  · exact ⟨rfl, rfl, rfl, rfl⟩
  · exact .refl s

theorem outletRules_hushed : OutletRules Hushed where
  refl := .refl
  trans := .trans
  seg := fun _ _ _ _ => ⟨rfl, rfl, rfl, rfl⟩
  pending := fun _ _ _ => hushed_modWell _ _ _
  ending := hushed_endBalancing
  reason := fun _ _ _ => hushed_modWell _ _ _
  count := fun _ => ⟨rfl, rfl, rfl, rfl⟩

theorem hushed_endMove (i : Slot) (r : Ending) (s : State) : Hushed s (endMove i r s) :=
  outletRules_hushed.endMove (fun _ _ _ _ => hushed_putWell _ _ _) i r s

theorem hushed_releaseMoves (r : Ending) (slots : List Slot) (s : State) : Hushed s (releaseMoves r slots s) :=
  outletRules_hushed.releaseMoves (fun _ _ _ _ => hushed_putWell _ _ _) r slots s

/-- From `s` to `t` no protective SET has been made. -/
def NoneMade (s t : State) : Prop := t.protMade = s.protMade

theorem noneMade_putWell (s : State) (i : Slot) (w : Option Well) : NoneMade s (putWell s i w) := by
  unfold NoneMade
  rw [putWell_frame]

theorem noneMade_modWell (s : State) (i : Slot) (f : Well → Well) : NoneMade s (modWell s i f) := by
  unfold modWell
  split
  · exact noneMade_putWell _ _ _
  · rfl

theorem queueRules_noneMade : QueueRules NoneMade where
  refl := fun _ => rfl
  trans := fun a b => Eq.trans b a
  seg := fun _ _ _ _ => rfl
  pending := fun _ _ _ => noneMade_modWell _ _ _
  ending := fun r s => by
    unfold endBalancing
    split <;> rfl

theorem Reports.noneMade {s t : State} (h : Reports s t) : NoneMade s t := by
  have e := congrArg State.protMade h
  exact e

theorem Reports.timeBase {s t : State} (h : Reports s t) : t.timeBase = s.timeBase := by
  have e := congrArg State.timeBase h
  exact e

theorem Reports.well {s t : State} (h : Reports s t) (j : Slot) : t.well j = s.well j := by
  have e := congrArg (fun u => u.well j) h
  exact e

/-! ## The silence takeover -/

/-- At most `n` more frames stand in the urgent queue of a link that is sending. -/
def Urged (n : Nat) (s t : State) : Prop :=
  s.link.transmitter ≠ none → t.link.transmitter = s.link.transmitter ∧ t.link.urgent.length ≤ s.link.urgent.length + n

theorem Urged.of_link {s t : State} (h : t.link = s.link) : Urged 0 s t := fun _ => ⟨by rw [h], by rw [h]; exact Nat.le_add_right _ _⟩

theorem Hushed.urged {s t : State} (h : Hushed s t) : Urged 0 s t := .of_link h.link

theorem Urged.trans {m n : Nat} {s t u : State} (a : Urged m s t) (b : Urged n t u) : Urged (m + n) s u := fun hs => by
  obtain ⟨ha, hm⟩ := a hs
  obtain ⟨hb, hn⟩ := b (ha ▸ hs)
  exact ⟨hb.trans ha, by omega⟩

theorem Urged.mono {m n : Nat} {s t : State} (h : Urged m s t) (hmn : m ≤ n) : Urged n s t := fun hs =>
  have ⟨ht, hu⟩ := h hs
  ⟨ht, by omega⟩

theorem urged_offerUrgent (f : Uplink) (s : State) : Urged 1 s (offerUrgent f s) := fun hs => by
  have e : (offerUrgent f s).link = s.link.offerUrgent f := rfl
  rw [e, Link.offerUrgent_sending hs]
  split
  · exact ⟨rfl, by simp⟩
  · exact ⟨rfl, Nat.le_add_right _ _⟩

theorem urged_takeRec (r : CondRec) (s : State) : Urged 1 s (takeRec r s) := urged_offerUrgent _ (s.modConds _)

theorem urged_evalTaking (s : State) : Urged 1 s (evalTaking s) := by
  unfold evalTaking
  split
  · split
    · exact urged_takeRec _ _
    · exact (Urged.of_link rfl).mono (Nat.zero_le 1)
  · exact (Urged.of_link rfl).mono (Nat.zero_le 1)

theorem urged_raiseCond (k : CondKind) (src : Nat) (m n : Option Int) (s : State) : Urged 1 s (raiseCond k src m n s) := by
  unfold raiseCond
  split
  · exact (Urged.of_link rfl).mono (Nat.zero_le 1)
  · exact urged_evalTaking (s.modConds _)

theorem urged_examineSite (b : Bool) (s : State) : Urged 1 s (examineSite b s) := by
  unfold examineSite
  split
  · split
    · split <;> exact (Urged.of_link rfl).mono (Nat.zero_le 1)
    · exact urged_raiseCond _ _ _ _ _
  · exact (Urged.of_link rfl).mono (Nat.zero_le 1)

theorem urged_outletRuleAll (b : Bool) (s : State) : Urged 1 s (outletRuleAll b s) :=
  (outletRules_hushed.applyOutletRules s.members s).urged.trans (urged_examineSite b _)

/-- The state of a takeover before its SETs are made: in DUTY, every presence due, every move abandoned. -/
def takeoverStart (s : State) : State := releaseMoves .abandoned s.moving (becomeDuty s)

/-- The state of a takeover behind its SETs. -/
def takeoverMade (s : State) : State :=
  let s := takeoverStart s
  takeoverSets allSlots (outletRuleAll false (if s.balancer.lineLost && s.isOpen .flare then diversion s else s))

/-- The state of a takeover before its ROLE notice. -/
def takeoverTaken (s : State) : State := evalTaking (examineAll (takeoverMade s))

theorem takeover_eq (s : State) : takeover s =
    offerUrgent (.role (takeoverNotice (takeoverTaken s) s.moving.length ((takeoverMade s).protMade - (takeoverStart s).protMade)))
      (takeoverTaken s) := rfl

theorem becomeDuty_seg (s : State) (g : Seg) : (becomeDuty s).seg g = { s.seg g with presenceDue := true } := by
  cases g <;> rfl

theorem inner_takeoverTaken (s : State) : Inner False (takeoverStart s) (takeoverTaken s) := by
  have diverted : Inner False (takeoverStart s) (if (takeoverStart s).balancer.lineLost && (takeoverStart s).isOpen .flare
      then diversion (takeoverStart s) else takeoverStart s) := by
    split
    · exact inner_diversion _
    · exact .refl _
  exact (((diverted.trans (inner_outletRuleAll false _)).trans (inner_takeoverSets allSlots _)).trans (inner_examineAll _)).trans
    (inner_evalTaking _)

theorem inner_takeoverStart (s : State) : Inner True (becomeDuty s) (takeoverStart s) := inner_releaseMoves _ _ _

theorem takeoverStart_made (s : State) : (takeoverStart s).protMade = s.protMade :=
  queueRules_noneMade.releaseMoves (fun _ _ _ _ => noneMade_putWell _ _ _) _ _ (becomeDuty s)

theorem takeoverTaken_made (s : State) : (takeoverTaken s).protMade = (takeoverMade s).protMade :=
  queueRules_noneMade.trans (queueRules_noneMade.examineAll _) (reports_evalTaking _).noneMade

theorem urged_takeoverTaken (s : State) : Urged 2 s (takeoverTaken s) := by
  have start : Hushed s (takeoverStart s) :=
    Hushed.trans (t := becomeDuty s) ⟨rfl, rfl, rfl, rfl⟩ (hushed_releaseMoves .abandoned s.moving (becomeDuty s))
  have diverted : Hushed s (if (takeoverStart s).balancer.lineLost && (takeoverStart s).isOpen .flare
      then diversion (takeoverStart s) else takeoverStart s) := by
    split
    · exact start.trans (outletRules_hushed.diversion _)
    · exact start
  have made : Urged 1 s (takeoverMade s) :=
    (diverted.urged.trans (urged_outletRuleAll false _)).trans (outletRules_hushed.takeoverSets allSlots _).urged
  exact (made.trans (outletRules_hushed.examineAll _).urged).trans (urged_evalTaking _)

theorem mem_moving {s : State} {j : Slot} : j ∈ s.moving ↔ ((s.well j).bind (·.move)).isSome = true := by
  unfold State.moving
  simp [allSlots_mem]

theorem takeoverStart_move (s : State) (j : Slot) : ((takeoverStart s).well j).bind (·.move) = none := by
  by_cases hj : j ∈ s.moving
  · exact releaseMoves_move _ _ _ hj
  · have hnone : (s.well j).bind (·.move) = none := by simpa using mt mem_moving.mpr hj
    exact (inner_takeoverStart s).move_none hnone

theorem takeover_inner (s : State) : Inner True (becomeDuty s) (takeover s) := by
  rw [takeover_eq]
  have taken := inner_takeoverTaken s
  exact (((inner_takeoverStart s).trans ⟨taken.keeps, taken.timeBase, taken.unit, taken.trips, taken.reportTimer, taken.demand,
    taken.demandArrival, taken.evalAsked, taken.core, taken.key, fun j => (taken.moves j).imp id fun h => h.1.elim⟩)).trans
    (inner_offerUrgent _ _)

theorem takeover_move (s : State) (j : Slot) : ((takeover s).well j).bind (·.move) = none := by
  rw [takeover_eq]
  exact (inner_offerUrgent (d := False) _ _).move_none ((inner_takeoverTaken s).move_none (takeoverStart_move s j))

theorem movesOf_eq_nil {s : State} (h : ∀ j, (s.well j).bind (·.move) = none) (g : Seg) : s.movesOf g = [] := by
  rw [List.eq_nil_iff_forall_not_mem]
  rintro ⟨j, m⟩ hm
  obtain ⟨w, hw, -, hmove⟩ := mem_movesOf.mp hm
  have hj := h j
  rw [hw, Option.bind_some, hmove] at hj
  cases hj

theorem silenceExpiry_some {s : State} {start : Nat} (hr : s.unit.role = .standby) (hs : s.unit.silenceStart = some start) :
    silenceExpiry s = runEvals (takeover (s.advanceTo (start + s.silenceInForce))) := by
  unfold silenceExpiry
  rw [hr, hs]

theorem offerUrgent_last {s : State} (hs : s.link.transmitter ≠ none) (hroom : s.link.urgent.length < 16) (f : Uplink) :
    (offerUrgent f s).link.urgent.getLast? = some f := by
  have e : (offerUrgent f s).link = s.link.offerUrgent f := rfl
  rw [e, (Link.offerUrgent_room hs hroom f).1, List.getLast?_append]
  rfl

theorem takeover_timeBase (s : State) : (takeover s).timeBase = s.timeBase := (takeover_inner s).timeBase

theorem takeover_unit (s : State) : (takeover s).unit = { s.unit with role := .duty, silenceStart := none } :=
  (takeover_inner s).unit

theorem takeover_presenceDue (s : State) (g : Seg) : ((takeover s).seg g).presenceDue = true := by
  have taken := congrArg (·.2.2.2.2.2.2.2.2) ((takeover_inner s).core g)
  refine taken.trans ?_
  change ((becomeDuty s).seg g).presenceDue = true
  rw [becomeDuty_seg]

theorem takeover_key (s : State) (j : Slot) : ((takeover s).well j).map Well.key = (s.well j).map Well.key := (takeover_inner s).key j

theorem offerUrgent_made (f : Uplink) (s : State) : (offerUrgent f s).protMade = s.protMade := rfl

theorem offerUrgent_timeBase (f : Uplink) (s : State) : (offerUrgent f s).timeBase = s.timeBase := rfl

theorem takeover_made (s : State) : (takeover s).protMade = (takeoverMade s).protMade := by
  rw [takeover_eq, offerUrgent_made, takeoverTaken_made]

/-- The ROLE notice a takeover offers. -/
def takeoverRole (s t : State) : RoleNotice :=
  ⟨t.timeBase, .duty, .standby, .takeover, if s.unit.strapHigh then 251 else 250, none,
    some (s.moving.length, t.protMade - s.protMade), none⟩

theorem takeover_notice (s : State) :
    takeoverNotice (takeoverTaken s) s.moving.length ((takeoverMade s).protMade - (takeoverStart s).protMade) =
      takeoverRole s (takeover s) := by
  have htime : (takeoverTaken s).timeBase = (takeover s).timeBase := by
    rw [takeover_eq, offerUrgent_timeBase]
  have hunit : (takeoverTaken s).unit = { s.unit with role := .duty, silenceStart := none } :=
    (inner_takeoverTaken s).unit.trans (inner_takeoverStart s).unit
  have hown : (takeoverTaken s).ownAddress = if s.unit.strapHigh then 251 else 250 := by
    unfold State.ownAddress
    rw [hunit]
    rfl
  unfold takeoverNotice takeoverRole
  rw [htime, hown, takeover_made, takeoverStart_made]

theorem takeover_last {s : State} (hs : s.link.transmitter ≠ none) (hroom : s.link.urgent.length < 14) :
    (takeover s).link.urgent.getLast? = some (.role (takeoverRole s (takeover s))) := by
  have hquiet := urged_takeoverTaken s hs
  have hroom' : (takeoverTaken s).link.urgent.length < 16 := by omega
  have hsending : (takeoverTaken s).link.transmitter ≠ none := fun h => hs (hquiet.1.symm.trans h)
  rw [← takeover_notice, takeover_eq]
  exact offerUrgent_last hsending hroom' _

theorem runEvals_presenceDue (s : State) (g : Seg) : ((runEvals s).seg g).presenceDue = (s.seg g).presenceDue := by
  have e := congrArg (·.2.2.2.2.2.2.2.2) ((inner_runEvals (d := False) s).core g)
  exact e

/-- Settles O40: `takeover` changes the role, ends the moves by `releaseMoves`, and offers its ROLE notice behind at most two CONDITION
notices. -/
theorem silenceTakeoverTakesDuty : Obligations.SilenceTakeoverTakesDuty := by
  unfold Obligations.SilenceTakeoverTakesDuty
  intro s start hheld hrole hstart
  have hexec : exec .silenceTakeover s = .next (silenceExpiry s) := Event.exec_free .silenceTakeover hheld
  have hkeeps := (keeps_silenceExpiry s).undisturbed
  have hforce : s.silenceInForce = s.site.silence * 1000 + if s.unit.strapHigh then 1000 else 0 := rfl
  have hexpiry := silenceExpiry_some hrole hstart
  rw [State.advanceTo_eq] at hexpiry
  rw [← hforce]
  generalize max s.timeBase (start + s.silenceInForce) = now at hexpiry ⊢
  rw [hexpiry] at hexec hkeeps
  have hevals := still_runEvals (takeover { s with timeBase := now })
  refine ⟨_, hexec, hkeeps, ?_, ?_, fun g => ⟨?_, ?_⟩, fun j => ?_, fun hset hsending hroom => ?_⟩
  · exact hevals.unit.trans (takeover_unit _)
  · exact hevals.timeBase.trans (takeover_timeBase _)
  · rw [runEvals_presenceDue]
    exact takeover_presenceDue _ g
  · exact movesOf_eq_nil (fun j => (runEvals_move _ j).trans (takeover_move _ j)) g
  · exact (hevals.key j).trans (takeover_key _ j)
  · have hsettled : Settled (takeover { s with timeBase := now }) :=
      (takeover_inner _).settled (s := becomeDuty { s with timeBase := now }) hset
    rw [runEvals_settled hsettled]
    exact takeover_last (s := { s with timeBase := now }) hsending hroom

end Sys2Proof.Machine
end

section
/-! PROOF. The record of a pair after each operation of the Condition Controller, and a well at its miss limit (O35). -/

-- One theorem at a time: the one-text build of the package runs out of threads otherwise.
set_option Elab.async false

namespace Sys2Proof.Machine

/-! ## The record of a pair -/

/-- A record, its taken time aside. -/
def CondRec.untaken (r : CondRec) : CondRec := { r with taken := none }

/-- The record of a pair, its taken time aside. -/
def Conditions.recOf (c : Conditions) (k : CondKind) (src : Nat) : Option CondRec := (c.find k src).map CondRec.untaken

/-- No two pending records are of the pair. -/
def Conditions.Lone (c : Conditions) (k : CondKind) (src : Nat) : Prop :=
  ∀ x ∈ c.waiting, ∀ y ∈ c.waiting, x.isPair k src = true → y.isPair k src = true → x = y

theorem Conditions.find_eq (c : Conditions) (k : CondKind) (src : Nat) :
    c.find k src = (c.waiting ++ c.stack).find? (·.isPair k src) := by
  unfold Conditions.find
  rw [List.find?_append]
  cases c.waiting.find? (·.isPair k src) <;> rfl

theorem Conditions.recOf_isSome (c : Conditions) (k : CondKind) (src : Nat) : (c.recOf k src).isSome = (c.find k src).isSome :=
  Option.isSome_map

theorem Conditions.find_isSome (c : Conditions) (k : CondKind) (src : Nat) :
    (c.find k src).isSome = true ↔ ∃ r ∈ c.waiting ++ c.stack, r.isPair k src = true := by
  rw [Conditions.find_eq, List.find?_isSome]

theorem hasRec_eq_true {s : State} {k : CondKind} {src : Nat} :
    s.hasRec k src = true ↔ ∃ r ∈ s.conds.waiting ++ s.conds.stack, r.isPair k src = true := Conditions.find_isSome _ _ _

theorem hasRec_eq_false {s : State} {k : CondKind} {src : Nat} : s.hasRec k src = false ↔ s.conds.find k src = none := by
  unfold State.hasRec
  cases s.conds.find k src <;> simp

theorem CondLaw.lone {c : Conditions} (h : CondLaw c) (k : CondKind) (src : Nat) : c.Lone k src := by
  intro x hx y hy hxp hyp
  have hpairs : x.pair = y.pair := ((x.isPair_iff k src).mp hxp).trans ((y.isPair_iff k src).mp hyp).symm
  exact List.inj_on_of_nodup_map h.waiting_nodup hx hy hpairs

theorem Conditions.lone_of_find_none {c : Conditions} {k : CondKind} {src : Nat} (h : c.find k src = none) : c.Lone k src := by
  intro x hx _ _ hxp
  rw [Conditions.find_eq, List.find?_eq_none] at h
  exact absurd hxp (h x (List.mem_append_left _ hx))

theorem find?_of_lone {l : List CondRec} {p : CondRec → Bool} {r : CondRec} (hr : r ∈ l) (hp : p r = true)
    (h : ∀ x ∈ l, p x = true → x = r) : l.find? p = some r := by
  obtain ⟨x, hx⟩ := Option.isSome_iff_exists.mp (List.find?_isSome.mpr ⟨r, hr, hp⟩)
  rw [hx, h x (List.mem_of_find?_eq_some hx) (List.find?_some hx)]

/-- A taking moves one record from the pending set to the stack and stamps it: no record is lost. -/
theorem recOf_takeRec {s : State} {r : CondRec} {k : CondKind} {src : Nat} (hr : r ∈ s.conds.waiting) (h : s.conds.Lone k src) :
    (takeRec r s).conds.recOf k src = s.conds.recOf k src := by
  have e : (takeRec r s).conds.find k src = ((s.conds.waiting.filter fun x => !x.isPair r.kind r.source) ++
      { r with taken := some s.timeBase } :: s.conds.stack).find? (·.isPair k src) := Conditions.find_eq _ k src
  unfold Conditions.recOf
  rw [e, Conditions.find_eq, List.find?_append, List.find?_append, List.find?_filter]
  by_cases hp : r.isPair k src = true
  · have hpair : ∀ x : CondRec, x.isPair r.kind r.source = x.isPair k src := fun x => by
      obtain ⟨hk, hs⟩ := (isPair_iff_and r k src).mp hp
      rw [hk, hs]
    have hgone : s.conds.waiting.find? (fun a => decide ((!a.isPair r.kind r.source) = true ∧ a.isPair k src = true)) = none := by
      rw [List.find?_eq_none]
      intro x _
      simp [hpair]
    have hstood : s.conds.waiting.find? (·.isPair k src) = some r :=
      find?_of_lone hr hp fun x hx hxp => h x hx r hr hxp hp
    have htop : ({ r with taken := some s.timeBase } : CondRec).isPair k src = true := hp
    simp only [hgone, hstood, List.find?_cons, htop]
    rfl
  · have htop : ({ r with taken := some s.timeBase } : CondRec).isPair k src = false := Bool.eq_false_iff.mpr hp
    have hsame : s.conds.waiting.find? (fun a => decide ((!a.isPair r.kind r.source) = true ∧ a.isPair k src = true)) =
        s.conds.waiting.find? (·.isPair k src) := by
      congr 1
      funext x
      by_cases hx : x.isPair k src = true
      · have hne : x.isPair r.kind r.source = false := by
          rw [Bool.eq_false_iff]
          intro hxr
          have hxk := (x.isPair_iff k src).mp hx
          have hxr' := (x.isPair_iff r.kind r.source).mp hxr
          exact hp ((r.isPair_iff k src).mpr (hxr'.symm.trans hxk))
        simp [hx, hne]
      · simp [Bool.eq_false_iff.mpr hx]
    simp only [hsame, List.find?_cons, htop]

theorem recOf_evalTaking {s : State} {k : CondKind} {src : Nat} (h : s.conds.Lone k src) :
    (evalTaking s).conds.recOf k src = s.conds.recOf k src := by
  unfold evalTaking
  split
  · split
    · next r hr => exact recOf_takeRec (List.mem_of_find?_eq_some hr) h
    · rfl
  · rfl

theorem hasRec_takeRec {s : State} {r : CondRec} {k : CondKind} {src : Nat} (h : s.hasRec k src = true) :
    (takeRec r s).hasRec k src = true := by
  obtain ⟨x, hx, hp⟩ := hasRec_eq_true.mp h
  rw [hasRec_eq_true]
  by_cases hr : x.isPair r.kind r.source = true
  · have hpair : ({ r with taken := some s.timeBase } : CondRec).isPair k src = true := by
      have hxr := (x.isPair_iff r.kind r.source).mp hr
      have hxk := (x.isPair_iff k src).mp hp
      exact (CondRec.isPair_iff _ k src).mpr (hxr.symm.trans hxk)
    exact ⟨_, List.mem_append_right _ (List.mem_cons_self ..), hpair⟩
  · rcases List.mem_append.mp hx with hw | hs
    · exact ⟨x, List.mem_append_left _ (List.mem_filter.mpr ⟨hw, by simp [Bool.eq_false_iff.mpr hr]⟩), hp⟩
    · exact ⟨x, List.mem_append_right _ (List.mem_cons_of_mem _ hs), hp⟩

theorem hasRec_evalTaking {s : State} {k : CondKind} {src : Nat} (h : s.hasRec k src = true) :
    (evalTaking s).hasRec k src = true := by
  unfold evalTaking
  split
  · split
    · exact hasRec_takeRec h
    · exact h
  · exact h

/-- The record with one recurrence more, and attached. -/
def CondRec.again (r : CondRec) : CondRec := { r with recurrence := satInc 255 r.recurrence, attached := true }

theorem find?_map_again {l : List CondRec} {k j : CondKind} {src n : Nat} :
    (l.map fun r => if r.isPair j n then r.again else r).find? (·.isPair k src) =
      (l.find? (·.isPair k src)).map fun r => if r.isPair j n then r.again else r := by
  have hcomp : (fun r : CondRec => r.isPair k src) ∘ (fun r : CondRec => if r.isPair j n then r.again else r) = fun r => r.isPair k src := by
    funext r
    dsimp only [Function.comp]
    split <;> rfl
  rw [List.find?_map, hcomp]

theorem find_bumpRec (s : State) (k j : CondKind) (src n : Nat) :
    (bumpRec j n s).conds.find k src = (s.conds.find k src).map fun r => if r.isPair j n then r.again else r := by
  have e : (bumpRec j n s).conds.find k src = ((s.conds.waiting.map fun r => if r.isPair j n then r.again else r) ++
      s.conds.stack.map fun r => if r.isPair j n then r.again else r).find? (·.isPair k src) := Conditions.find_eq _ k src
  rw [e, ← List.map_append, find?_map_again, Conditions.find_eq]

theorem find_isPair {c : Conditions} {k : CondKind} {src : Nat} {r : CondRec} (h : c.find k src = some r) : r.isPair k src = true := by
  rw [Conditions.find_eq] at h
  exact List.find?_some (p := fun r : CondRec => r.isPair k src) h

theorem find_bumpRec_self (s : State) (k : CondKind) (src : Nat) :
    (bumpRec k src s).conds.find k src = (s.conds.find k src).map CondRec.again := by
  rw [find_bumpRec]
  cases h : s.conds.find k src with
  | none => rfl
  | some r => simp [find_isPair h]

theorem isPair_of_ne {r : CondRec} {k j : CondKind} {src n : Nat} (h : r.isPair k src = true) (hne : (k, src) ≠ (j, n)) :
    r.isPair j n = false := by
  rw [Bool.eq_false_iff]
  intro hj
  exact hne (((r.isPair_iff k src).mp h).symm.trans ((r.isPair_iff j n).mp hj))

theorem find_bumpRec_other (s : State) {k j : CondKind} {src n : Nat} (hne : (k, src) ≠ (j, n)) :
    (bumpRec j n s).conds.find k src = s.conds.find k src := by
  rw [find_bumpRec]
  cases h : s.conds.find k src with
  | none => rfl
  | some r => simp [isPair_of_ne (find_isPair h) hne]

theorem hasRec_bumpRec (s : State) (k j : CondKind) (src n : Nat) : (bumpRec j n s).hasRec k src = s.hasRec k src := by
  unfold State.hasRec
  rw [find_bumpRec, Option.isSome_map]

/-- The conditions with a new record placed among the pending ones. -/
def Conditions.placing (c : Conditions) (r : CondRec) : Conditions := { c with waiting := placeRec r c.waiting }

theorem raiseCond_known {s : State} {k : CondKind} {src : Nat} (h : s.hasRec k src = true) (m n : Option Int) :
    raiseCond k src m n s = bumpRec k src s := by
  unfold raiseCond
  rw [if_pos h]

theorem raiseCond_new {s : State} {k : CondKind} {src : Nat} (h : s.hasRec k src = false) (m n : Option Int) :
    raiseCond k src m n s = evalTaking (s.modConds (·.placing (newRec s k src m n))) := by
  unfold raiseCond
  rw [if_neg (by simp [h])]
  rfl

theorem find?_placeRec_other {r : CondRec} {p : CondRec → Bool} (h : p r = false) (l : List CondRec) :
    (placeRec r l).find? p = l.find? p := by
  induction l with
  | nil => simp [placeRec, h]
  | cons x rest ih =>
    unfold placeRec
    split
    · simp [List.find?_cons, h]
    · simp [List.find?_cons, ih]

theorem find_placing_other {c : Conditions} {r : CondRec} {k : CondKind} {src : Nat} (h : r.isPair k src = false) :
    (c.placing r).find k src = c.find k src := by
  have e : (c.placing r).find k src = (placeRec r c.waiting ++ c.stack).find? (·.isPair k src) := Conditions.find_eq _ k src
  rw [e, Conditions.find_eq, List.find?_append, List.find?_append, find?_placeRec_other h]

theorem find_placing_new {c : Conditions} {r : CondRec} {k : CondKind} {src : Nat} (h : r.isPair k src = true)
    (hnone : c.find k src = none) : (c.placing r).find k src = some r := by
  have e : (c.placing r).find k src = (placeRec r c.waiting ++ c.stack).find? (·.isPair k src) := Conditions.find_eq _ k src
  rw [Conditions.find_eq, List.find?_eq_none] at hnone
  rw [e]
  refine find?_of_lone (List.mem_append_left _ ((mem_placeRec _ _ _).mpr (.inl rfl))) h fun x hx hp => ?_
  rcases List.mem_append.mp hx with hw | hs
  · rcases (mem_placeRec _ _ _).mp hw with hxr | hmem
    · exact hxr
    · exact absurd hp (hnone x (List.mem_append_left _ hmem))
  · exact absurd hp (hnone x (List.mem_append_right _ hs))

theorem lone_placing_new {c : Conditions} {r : CondRec} {k : CondKind} {src : Nat} (hnone : c.find k src = none) :
    (c.placing r).Lone k src := by
  rw [Conditions.find_eq, List.find?_eq_none] at hnone
  have only : ∀ x ∈ (c.placing r).waiting, x.isPair k src = true → x = r := fun x hx hp => by
    rcases (mem_placeRec _ _ _).mp hx with hxr | hmem
    · exact hxr
    · exact absurd hp (hnone x (List.mem_append_left _ hmem))
  exact fun x hx y hy hxp hyp => (only x hx hxp).trans (only y hy hyp).symm

theorem lone_placing_other {c : Conditions} {r : CondRec} {k : CondKind} {src : Nat} (h : r.isPair k src = false)
    (hl : c.Lone k src) : (c.placing r).Lone k src := by
  have old : ∀ x ∈ (c.placing r).waiting, x.isPair k src = true → x ∈ c.waiting := fun x hx hp => by
    rcases (mem_placeRec _ _ _).mp hx with hxr | hmem
    · rw [hxr, h] at hp
      exact nomatch hp
    · exact hmem
  exact fun x hx y hy hxp hyp => hl x (old x hx hxp) y (old y hy hyp) hxp hyp

theorem newRec_isPair (s : State) (k : CondKind) (src : Nat) (m n : Option Int) : (newRec s k src m n).isPair k src = true := by
  simp [CondRec.isPair, newRec]

/-- A condition raised with no record standing has a new one, pending or taken at once. -/
theorem recOf_raiseCond_new {s : State} {k : CondKind} {src : Nat} (h : s.hasRec k src = false) (m n : Option Int) :
    (raiseCond k src m n s).conds.recOf k src = some (newRec s k src m n) := by
  have hnone := hasRec_eq_false.mp h
  rw [raiseCond_new h, recOf_evalTaking (s := s.modConds (·.placing (newRec s k src m n))) (lone_placing_new hnone)]
  exact congrArg (Option.map CondRec.untaken) (find_placing_new (newRec_isPair s k src m n) hnone)

theorem recOf_raiseCond_other {s : State} {k j : CondKind} {src e : Nat} (hne : (k, src) ≠ (j, e)) (hl : s.conds.Lone k src)
    (m n : Option Int) : (raiseCond j e m n s).conds.recOf k src = s.conds.recOf k src := by
  cases hj : s.hasRec j e with
  | true =>
    rw [raiseCond_known hj]
    exact congrArg (Option.map CondRec.untaken) (find_bumpRec_other s hne)
  | false =>
    have hother : (newRec s j e m n).isPair k src = false := isPair_of_ne (newRec_isPair s j e m n) (Ne.symm hne)
    rw [raiseCond_new hj, recOf_evalTaking (s := s.modConds (·.placing (newRec s j e m n))) (lone_placing_other hother hl)]
    exact congrArg (Option.map CondRec.untaken) (find_placing_other hother)

theorem hasRec_raiseCond (s : State) (k : CondKind) (src : Nat) (m n : Option Int) :
    (raiseCond k src m n s).hasRec k src = true := by
  cases h : s.hasRec k src with
  | true => rw [raiseCond_known h, hasRec_bumpRec, h]
  | false =>
    unfold State.hasRec
    rw [← Conditions.recOf_isSome, recOf_raiseCond_new h]
    rfl

theorem hasRec_raiseCond_mono {s : State} {k : CondKind} {src : Nat} (h : s.hasRec k src = true) (j : CondKind) (e : Nat)
    (m n : Option Int) : (raiseCond j e m n s).hasRec k src = true := by
  cases hj : s.hasRec j e with
  | true => rw [raiseCond_known hj, hasRec_bumpRec, h]
  | false =>
    rw [raiseCond_new hj]
    refine hasRec_evalTaking ?_
    obtain ⟨r, hr, hp⟩ := hasRec_eq_true.mp h
    refine hasRec_eq_true.mpr ⟨r, ?_, hp⟩
    exact List.mem_append.mpr ((List.mem_append.mp hr).imp (fun hw => (mem_placeRec _ _ _).mpr (.inr hw)) id)

theorem hasRec_withdraw_mono {s : State} {k : CondKind} {src : Nat} (h : s.hasRec k src = true) {j : CondKind} {e : Nat}
    (hne : (k, src) ≠ (j, e)) : (withdraw j e s).hasRec k src = true := by
  unfold withdraw
  split
  · refine hasRec_evalTaking ?_
    obtain ⟨r, hr, hp⟩ := hasRec_eq_true.mp h
    refine hasRec_eq_true.mpr ⟨r, ?_, hp⟩
    refine List.mem_append.mpr ((List.mem_append.mp hr).imp (fun hw => List.mem_filter.mpr ⟨hw, ?_⟩) id)
    simp [isPair_of_ne hp hne]
  · exact h

/-! ## Records and holds that stay -/

/-- Where `s` has a record of the pair, `t` has one. -/
def KeepsRec (k : CondKind) (src : Nat) (s t : State) : Prop := s.hasRec k src = true → t.hasRec k src = true

theorem Hushed.keepsRec {s t : State} (h : Hushed s t) (k : CondKind) (src : Nat) : KeepsRec k src s t := by
  intro hs
  unfold State.hasRec at *
  rw [h.conds]
  exact hs

theorem keepsRec_treatLineKind {k j : CondKind} {src : Nat} (hne : (k, src) ≠ (j, j.fixedSource)) (b : Bool) (m : Option Nat)
    (n : Nat) (s : State) : KeepsRec k src s (treatLineKind j b m n s) := by
  intro h
  have counted : ∀ c, (setLineCount j c s).hasRec k src = true := fun _ => h
  unfold treatLineKind
  dsimp only
  split
  · split
    · rw [hasRec_bumpRec]
      exact counted 0
    · split
      · exact hasRec_raiseCond_mono (counted 0) _ _ _ _
      · exact counted _
  · exact hasRec_withdraw_mono (counted 0) hne

theorem keepsRec_treatLine {k : CondKind} {src : Nat} (hk : k ≠ .lineOxygenHigh ∧ k ≠ .engineBlendLow ∧ k ≠ .flareBlendLow) (l : Line)
    (r : LineRecord) (s : State) : KeepsRec k src s (treatLine l r s) := by
  obtain ⟨hoxygen, hengine, hflare⟩ := hk
  have other {j : CondKind} (hj : k ≠ j) : (k, src) ≠ (j, j.fixedSource) := fun e => hj (congrArg Prod.fst e)
  intro h
  cases l with
  | engine => exact keepsRec_treatLineKind (other hengine) _ _ _ _ (keepsRec_treatLineKind (other hoxygen) _ _ _ _ h)
  | flare => exact keepsRec_treatLineKind (other hflare) _ _ _ _ h

theorem evalRules_keepsRec {k : CondKind} {src : Nat} (hk : k ≠ .lineOxygenHigh ∧ k ≠ .engineBlendLow ∧ k ≠ .flareBlendLow) :
    EvalRules (KeepsRec k src) where
  refl := fun _ h => h
  trans := fun a b h => b (a h)
  seg := fun _ _ _ _ h => h
  pending := fun i p s => (hushed_modWell s i fun w => { w with pendingProt := p }).keepsRec k src
  ending := fun r s => (hushed_endBalancing r s).keepsRec k src
  line := fun _ _ _ h => h
  treat := keepsRec_treatLine hk
  balance := fun _ _ h => h
  asked := fun _ _ h => h

/-- From `s` to `t` no well's holds or excursion counts have changed. -/
def SameTests (s t : State) : Prop :=
  ∀ j, (t.well j).map (fun w => (w.holds, w.excursions)) = (s.well j).map fun w => (w.holds, w.excursions)

theorem SameTests.trans {s t u : State} (a : SameTests s t) (b : SameTests t u) : SameTests s u := fun j => (b j).trans (a j)

theorem SameTests.of_wells {s t : State} (h : ∀ j, t.well j = s.well j) : SameTests s t := fun j => by rw [h j]

theorem sameTests_putWell {s : State} {i : Slot} {w : Well} (hw : s.well i = some w) (v : Well)
    (h : (v.holds, v.excursions) = (w.holds, w.excursions)) : SameTests s (putWell s i (some v)) := fun j => by
  rw [putWell_well]
  split
  · next hj => rw [hj, hw, Option.map_some, Option.map_some, h]
  · rfl

theorem sameTests_modWell (s : State) (i : Slot) (f : Well → Well)
    (h : ∀ w, ((f w).holds, (f w).excursions) = (w.holds, w.excursions) := by intro _; rfl) : SameTests s (modWell s i f) := by
  intro j
  rw [modWell_well, Option.map_map]
  congr 1
  funext w
  dsimp only [Function.comp]
  split
  · exact h w
  · rfl

theorem evalRules_sameTests : EvalRules SameTests where
  refl := fun _ _ => rfl
  trans := .trans
  seg := fun _ _ _ _ _ => rfl
  pending := fun i p s => sameTests_modWell s i fun w => { w with pendingProt := p }
  ending := fun r s => .of_wells (endBalancing_well r s)
  line := fun _ _ _ _ => rfl
  treat := fun l r s => .of_wells (reports_treatLine l r s).well
  balance := fun _ _ _ => rfl
  asked := fun _ _ _ => rfl

theorem sameTests_endMove (i : Slot) (r : Ending) (s : State) : SameTests s (endMove i r s) :=
  evalRules_sameTests.endMove (fun _ _ w hw => sameTests_putWell hw { w with move := none } rfl) i r s

/-! ## The miss limit -/

/-- The record of a well at its miss limit. -/
def Well.silenced (w : Well) : Well :=
  { w with missCount := satInc 15 w.missCount, answering := false, holds := w.holds.put .silent true }

theorem missWell_limit {s : State} {i : Slot} {w : Well} (hw : s.well i = some w) (ha : w.answering = true)
    (hl : (s.seg w.cfg.seg).settings.missLimit ≤ satInc 15 w.missCount) :
    missWell i s = fallSilent i (putWell s i (some { w with missCount := satInc 15 w.missCount })) := by
  unfold missWell
  rw [hw]
  dsimp only
  rw [ha, putWell_seg]
  exact if_pos (decide_eq_true hl)

theorem fallSilent_some {s : State} {i : Slot} {w : Well} (hw : s.well i = some w) :
    fallSilent i s = silenceQueue i (raiseCond .wellSilent i.val (some (w.missCount : Int))
      (some (((putWell s i (some { w with answering := false, holds := w.holds.put .silent true })).seg
        w.cfg.seg).settings.missLimit : Int))
      (putWell s i (some { w with answering := false, holds := w.holds.put .silent true }))) := by
  unfold fallSilent
  rw [hw]

/-- The queue's part when a well falls silent is made of the rules of the queues and the end of a move. -/
theorem silenceQueue_rules {R : State → State → Prop} (k : QueueRules R)
    (put : ∀ (s : State) (i : Slot) (w : Well), s.well i = some w → R s (putWell s i (some { w with move := none })))
    (i : Slot) (s : State) : R s (silenceQueue i s) := by
  have ended := k.endMove put i .abandoned s
  unfold silenceQueue
  dsimp only
  split
  · split
    · exact ended
    · split
      · exact k.trans ended (k.trans (k.pending _ _ _) (k.removeEntry _ _ _))
      · exact ended
  · exact ended

theorem silenceQueue_move (i : Slot) (s : State) : ((silenceQueue i s).well i).bind (·.move) = none := by
  have ended := endMove_move i .abandoned s
  unfold silenceQueue
  dsimp only
  split
  · split
    · exact ended
    · split
      · exact ((inner_setPending (d := False) _ _ _).trans (inner_removeEntry _ _ _)).move_none ended
      · exact ended
  · exact ended

theorem wellSilent_not_line : CondKind.wellSilent ≠ .lineOxygenHigh ∧ CondKind.wellSilent ≠ .engineBlendLow ∧
    CondKind.wellSilent ≠ .flareBlendLow := by decide

/-- What a miss at the limit leaves: the record silenced with no move, and WELL SILENT standing. -/
theorem missWell_silences {s : State} {i : Slot} {w : Well} (hw : s.well i = some w) (ha : w.answering = true)
    (hl : (s.seg w.cfg.seg).settings.missLimit ≤ satInc 15 w.missCount) :
    Written i w.silenced.key s (missWell i s) ∧ ((missWell i s).well i).map (·.holds) = some w.silenced.holds ∧
      ((missWell i s).well i).bind (·.move) = none ∧ (missWell i s).hasRec .wellSilent i.val = true := by
  rw [missWell_limit hw ha hl]
  have counted : (putWell s i (some { w with missCount := satInc 15 w.missCount })).well i =
      some { w with missCount := satInc 15 w.missCount } := by rw [putWell_well, if_pos rfl]
  rw [fallSilent_some counted]
  have put := (written_putWell s i { w with missCount := satInc 15 w.missCount }).again
    (written_putWell _ i w.silenced)
  have holds : ((putWell (putWell s i (some { w with missCount := satInc 15 w.missCount })) i (some w.silenced)).well i).map
      (·.holds) = some w.silenced.holds := by
    rw [putWell_well, if_pos rfl]
    rfl
  unfold Well.silenced at put holds ⊢
  generalize putWell (putWell s i _) i _ = u at put holds ⊢
  generalize (u.seg w.cfg.seg).settings.missLimit = limit
  have raised := (put.still (inner_raiseCond (d := False) .wellSilent i.val (some (satInc 15 w.missCount : Int)) (some (limit : Int)) u).still)
  have tests : SameTests u (silenceQueue i (raiseCond .wellSilent i.val (some (satInc 15 w.missCount : Int)) (some (limit : Int)) u)) :=
    SameTests.trans (.of_wells (reports_raiseCond _ _ _ _ _).well)
      (silenceQueue_rules evalRules_sameTests.toQueueRules (fun _ _ v hv => sameTests_putWell hv { v with move := none } rfl) i _)
  refine ⟨raised.still (inner_silenceQueue i _).still, ?_, silenceQueue_move i _, ?_⟩
  · have e := congrArg (Option.map Prod.fst) (tests i)
    rw [Option.map_map, Option.map_map] at e
    exact e.trans holds
  · exact silenceQueue_rules (evalRules_keepsRec wellSilent_not_line).toQueueRules
      (fun s i v _ => (hushed_putWell s i (some { v with move := none })).keepsRec _ _) i _ (hasRec_raiseCond _ _ _ _ _)

/-- Settles O35: the miss is charged by `missWell`, and the evaluations behind it leave what it wrote. -/
theorem theMissLimitMakesTheWellSilent : Obligations.TheMissLimitMakesTheWellSilent := by
  unfold Obligations.TheMissLimitMakesTheWellSilent
  intro s g x i w hheld ha hk hanswering hlimit
  have hexec : exec (.replyTimeout g) s = .next (windowCloses g s) := Event.exec_free (.replyTimeout g) hheld
  obtain ⟨opened, hopened⟩ := Option.isSome_iff_exists.mp ha.2.1
  have hcloses := windowCloses_awaiting ha.awaiting hopened
  have hw : s.well i = some w := ha.2.2.2.1
  have hg : w.cfg.seg = g := ha.2.2.2.2.2.1
  generalize hlate : ({ s with timeBase := max s.timeBase (opened + x.timeout) } : State) = late at hcloses
  have hwlate : late.well i = some w := by subst hlate; exact hw
  have haddressed : late.addressedWell g x = some i := by subst hlate; exact ha.addressed
  have hlimitlate : (late.seg g).settings.missLimit ≤ satInc 15 w.missCount := by subst hlate; exact hlimit
  rw [missTxn_poll hk haddressed] at hcloses
  have silent := missWell_silences (s := late.setSeg g { late.seg g with
    txn := none, counters := { (late.seg g).counters with misses := satInc 65535 (late.seg g).counters.misses } })
    hwlate hanswering (by rw [hg, State.seg_setSeg_self]; exact hlimitlate)
  generalize missWell i (late.setSeg g _) = u at silent hcloses
  obtain ⟨written, holds, hmove, hrec⟩ := silent
  have hkey := ((still_runEvals u).key i).trans written.own
  obtain ⟨v, hv, hvkey⟩ := Option.map_eq_some_iff.mp hkey
  have hvmove := (runEvals_move u i).trans hmove
  have hvholds := (congrArg (Option.map Prod.fst) (evalRules_sameTests.runEvals u i))
  rw [Option.map_map, Option.map_map] at hvholds
  have hvholds' := hvholds.trans holds
  rw [hv] at hvmove hvholds'
  refine ⟨_, v, hexec.trans (congrArg _ hcloses), hv, hvkey, ?_, hvmove, ?_, ?_⟩
  · have e : v.holds = w.silenced.holds := Option.some.inj hvholds'
    rw [e]
    rfl
  · exact (evalRules_keepsRec wellSilent_not_line).runEvals u hrec
  · exact hcloses ▸ (keeps_windowCloses g s).undisturbed

end Sys2Proof.Machine
end

section
/-! PROOF. The presence, move and demand timers (three parts of O41), and the three outcomes of an excursion. -/

-- One theorem at a time: the one-text build of the package runs out of threads otherwise.
set_option Elab.async false

namespace Sys2Proof.Machine

/-! ## The presence timer -/

theorem presenceExpiry_some {s : State} {g : Seg} {start : Nat} (hd : s.unit.role = .duty)
    (h : (s.seg g).presenceTimer = some start) :
    presenceExpiry g s =
      { s with
        timeBase := max s.timeBase (start + 500)
        segs := s.segs.put g { s.seg g with presenceTimer := none, presenceDue := true } } := by
  have hduty : s.isDuty = true := by
    unfold State.isDuty
    rw [hd]
    rfl
  unfold presenceExpiry
  rw [h]
  dsimp only
  rw [if_pos hduty, State.advanceTo_eq]
  rfl

theorem sendPresence_due {s : State} {g : Seg} (hd : s.unit.role = .duty) (hq : Quiet s g)
    (h : (s.seg g).presenceDue = true) :
    sendPresence g s = s.setSeg g
      { s.seg g with
        rateInForce := (s.seg g).settings.rate
        txn := some ⟨.presence, none, 255, s.timeBase, (s.seg g).settings.replyTimeout, none,
          ⟨none, (s.seg g).position, (s.seg g).round, decide ((s.seg g).counters.transactions < 65535)⟩⟩
        sending := some (FieldFrame.presence s.ownAddress)
        presenceDue := false
        counters := { (s.seg g).counters with transactions := satInc 65535 (s.seg g).counters.transactions } } := by
  unfold sendPresence beginTxn
  rw [canBegin_of hd hq, h, State.modSeg_eq, State.modSeg_eq, State.setSeg_setSeg, State.seg_setSeg_self]
  rfl

/-! ## The outcomes of an excursion -/

theorem attachedRec_of_find {s : State} {k : CondKind} {src : Nat} {r : CondRec} (h : s.conds.find k src = some r) :
    s.attachedRec k src = r.attached := by
  unfold State.attachedRec
  rw [h]

theorem excursion_recurs {s : State} {i : Slot} {w : Well} (hw : s.well i = some w) {k : ExcKind}
    (h : s.attachedRec k.kind i.val = true) (m n : Option Int) :
    excursion i k m n s = (bumpRec k.kind i.val (setCount i k 0 s), false) := by
  unfold excursion
  rw [hw]
  dsimp only
  rw [if_pos h]

theorem excursion_counts {s : State} {i : Slot} {w : Well} (hw : s.well i = some w) {k : ExcKind}
    (h : s.attachedRec k.kind i.val = false) (hv : ¬ Verifies s i w k) (m n : Option Int) :
    excursion i k m n s = (setCount i k (satInc 15 (w.excursions.get k)) s, false) := by
  have hlow : ¬ s.site.verify.get k ≤ satInc 15 (w.excursions.get k) := fun hle => hv ⟨h, hle⟩
  unfold excursion
  rw [hw]
  dsimp only
  rw [if_neg (by simp [h])]
  exact if_neg hlow

theorem excursion_raises {s : State} {i : Slot} {w : Well} (hw : s.well i = some w) {k : ExcKind} (hv : Verifies s i w k)
    (m n : Option Int) :
    excursion i k m n s =
      (protectiveAction i k (setReason i k.reason true (raiseCond k.kind i.val m n (setCount i k 0 s))), true) := by
  unfold excursion
  rw [hw]
  dsimp only
  rw [if_neg (by simp [hv.1])]
  exact if_pos hv.2

/-- What raising leaves of the pair's record: a new one, or the old one attached with one recurrence more. -/
theorem raiseCond_record {s : State} {k : CondKind} {src : Nat} (m n : Option Int) :
    ∃ r, (raiseCond k src m n s).conds.find k src = some r ∧ r.attached = true ∧
      (s.conds.find k src = none → r.raised = s.timeBase ∧ r.recurrence = 0 ∧ r.limit = n ∧ r.measured = m) ∧
      ∀ old, s.conds.find k src = some old → r.recurrence = satInc 255 old.recurrence := by
  cases h : s.conds.find k src with
  | none =>
    have hrec := recOf_raiseCond_new (hasRec_eq_false.mpr h) m n
    obtain ⟨r, hr, huntaken⟩ := Option.map_eq_some_iff.mp hrec
    have hattached := congrArg CondRec.attached huntaken
    have hraised := congrArg CondRec.raised huntaken
    have hrecurrence := congrArg CondRec.recurrence huntaken
    have hlimit := congrArg CondRec.limit huntaken
    have hmeasured := congrArg CondRec.measured huntaken
    exact ⟨r, hr, hattached, fun _ => ⟨hraised, hrecurrence, hlimit, hmeasured⟩, fun _ e => nomatch e⟩
  | some old =>
    have hknown : s.hasRec k src = true := by
      unfold State.hasRec
      rw [h]
      rfl
    have hfind := find_bumpRec_self s k src
    rw [h] at hfind
    rw [raiseCond_known hknown]
    exact ⟨old.again, hfind, rfl, fun e => (nomatch e), fun x hx => by cases hx; rfl⟩

theorem protectiveAction_actuator (i : Slot) (s : State) : protectiveAction i .actuator s = s := by
  unfold protectiveAction
  split
  · rfl
  · split <;> rfl

/-! ## The move timer -/

/-- With no balancing move outstanding, none comes, and the last balancing end stays. -/
def NoBalancing (s t : State) : Prop :=
  s.balancer.move = none → t.balancer.move = none ∧ t.balancer.lastEnd = s.balancer.lastEnd

theorem NoBalancing.of_balancer {s t : State} (h : t.balancer = s.balancer) : NoBalancing s t := fun hs => by
  rw [h]
  exact ⟨hs, rfl⟩

theorem modWell_balancer (s : State) (i : Slot) (f : Well → Well) : (modWell s i f).balancer = s.balancer := by
  unfold modWell
  split
  · rw [putWell_frame]
  · rfl

theorem outletRules_noBalancing : OutletRules NoBalancing where
  refl := fun _ h => ⟨h, rfl⟩
  trans := fun a b h =>
    have ⟨hm, he⟩ := a h
    have ⟨hm', he'⟩ := b hm
    ⟨hm', he'.trans he⟩
  seg := fun _ _ _ _ => .of_balancer rfl
  pending := fun _ _ _ => .of_balancer (modWell_balancer _ _ _)
  ending := fun r s h => by
    unfold endBalancing
    rw [h]
    exact ⟨h, rfl⟩
  reason := fun _ _ _ => .of_balancer (modWell_balancer _ _ _)
  count := fun _ => .of_balancer rfl

theorem Reports.noBalancing {s t : State} (h : Reports s t) : NoBalancing s t := by
  have hmove := congrArg (fun u => u.balancer.move) h
  have hlast := congrArg (fun u => u.balancer.lastEnd) h
  exact fun hs => ⟨hmove.trans hs, hlast⟩

theorem noBalancing_excursion (i : Slot) (k : ExcKind) (m n : Option Int) (s : State) :
    NoBalancing s (excursion i k m n s).1 := by
  have count (c : Nat) : NoBalancing s (setCount i k c s) := .of_balancer (modWell_balancer _ _ _)
  have rules := outletRules_noBalancing
  unfold excursion
  split
  · exact rules.refl s
  · split
    · exact rules.trans (count 0) (reports_bumpRec _ _ _).noBalancing
    · dsimp only
      split
      · exact rules.trans (rules.trans (rules.trans (count 0) (reports_raiseCond _ _ _ _ _).noBalancing)
          (.of_balancer (modWell_balancer _ _ _))) (rules.protectiveAction _ _ _)
      · exact count _

theorem sameMoves_excursion (i : Slot) (k : ExcKind) (m n : Option Int) (s : State) : SameMoves s (excursion i k m n s).1 :=
  (inner_excursion i k m n s).sameMoves (calm_excursion (d := False) (l := False) i k m n s)

theorem endMove_some {s : State} {i : Slot} {w : Well} {m : MoveRec} (hw : s.well i = some w) (hm : w.move = some m) (r : Ending) :
    endMove i r s = testHead w.cfg.seg (releaseMove i r s) := by
  unfold endMove
  rw [hw]
  dsimp only
  rw [hm]
  rfl

theorem releaseMove_outstanding {s : State} {i : Slot} {w : Well} {m : MoveRec} (hw : s.well i = some w) (hm : w.move = some m)
    (r : Ending) : ((releaseMove i r s).seg w.cfg.seg).outstanding = (s.seg w.cfg.seg).outstanding - m.travel := by
  rw [releaseMove_some hw hm]
  have released : (((putWell s i (some { w with move := none })).modSeg w.cfg.seg fun q =>
      { q with outstanding := q.outstanding - m.travel }).seg w.cfg.seg).outstanding =
      (s.seg w.cfg.seg).outstanding - m.travel := by rw [seg_modSeg_self, putWell_seg]
  generalize ((putWell s i (some { w with move := none })).modSeg w.cfg.seg fun q =>
    { q with outstanding := q.outstanding - m.travel }) = u at released ⊢
  have refreshed : ((refreshBudget w.cfg.seg u).seg w.cfg.seg).outstanding = (u.seg w.cfg.seg).outstanding := by
    rcases (calm_refreshBudget (d := False) (l := False) w.cfg.seg u).outstanding with hf | h
    · exact hf.elim
    · exact h _
  dsimp only
  split
  · have ended : ((endBalancing r (refreshBudget w.cfg.seg u)).seg w.cfg.seg).outstanding =
        ((refreshBudget w.cfg.seg u).seg w.cfg.seg).outstanding := by
      rcases (calm_endBalancing (d := False) (l := False) r (refreshBudget w.cfg.seg u)).outstanding with hf | h
      · exact hf.elim
      · exact h _
    exact ended.trans (refreshed.trans released)
  · exact refreshed.trans released

theorem endMove_outstanding {s : State} {i : Slot} {w : Well} {m : MoveRec} (hw : s.well i = some w) (hm : w.move = some m)
    (r : Ending) : ((endMove i r s).seg w.cfg.seg).outstanding = (s.seg w.cfg.seg).outstanding - m.travel := by
  rw [endMove_some hw hm, ← releaseMove_outstanding hw hm r]
  rcases (calm_testHead (d := False) (l := False) w.cfg.seg (releaseMove i r s)).outstanding with hf | h
  · exact hf.elim
  · exact h _

theorem refreshBudget_balancer (g : Seg) (s : State) : (refreshBudget g s).balancer = s.balancer := by
  unfold refreshBudget
  split <;> rfl

theorem endBalancing_some {s : State} {b : BalMove} (h : s.balancer.move = some b) (r : Ending) :
    endBalancing r s = s.modBalancer fun b => { b with move := none, lastEnd := some (r, s.timeBase) } := by
  unfold endBalancing
  rw [h]

/-- A move that ends takes the balancing move it belongs to with it. -/
theorem endMove_balancing {s : State} {i : Slot} {w : Well} {m : MoveRec} {b : BalMove} (hw : s.well i = some w)
    (hm : w.move = some m) (hb : s.balancer.move = some b) (hi : b.slot = i) (hp : b.phase = .moving) (r : Ending) :
    (endMove i r s).balancer.move = none ∧ (endMove i r s).balancer.lastEnd = some (r, s.timeBase) := by
  have hrelease := releaseMove_some hw hm r
  have htime := (inner_refreshBudget (d := False) w.cfg.seg ((putWell s i (some { w with move := none })).modSeg w.cfg.seg fun q =>
    { q with outstanding := q.outstanding - m.travel })).timeBase
  have hbalancer := refreshBudget_balancer w.cfg.seg ((putWell s i (some { w with move := none })).modSeg w.cfg.seg fun q =>
    { q with outstanding := q.outstanding - m.travel })
  rw [endMove_some hw hm]
  generalize refreshBudget w.cfg.seg ((putWell s i (some { w with move := none })).modSeg w.cfg.seg fun q =>
    { q with outstanding := q.outstanding - m.travel }) = u at hrelease htime hbalancer
  have hframe : (putWell s i (some { w with move := none })).balancer = s.balancer ∧
      (putWell s i (some { w with move := none })).timeBase = s.timeBase := by
    rw [putWell_frame]
    exact ⟨rfl, rfl⟩
  have hmove : u.balancer.move = some b := by
    rw [hbalancer]
    exact (congrArg Balancer.move hframe.1).trans hb
  have htimes : u.timeBase = s.timeBase := htime.trans hframe.2
  have hmoving : u.balancingMoving i = true := by
    unfold State.balancingMoving
    rw [hmove]
    simp [hi, hp]
  dsimp only at hrelease
  rw [if_pos hmoving, endBalancing_some hmove] at hrelease
  have released : (releaseMove i r s).balancer.move = none ∧ (releaseMove i r s).balancer.lastEnd = some (r, s.timeBase) := by
    rw [hrelease, ← htimes]
    exact ⟨rfl, rfl⟩
  have head := outletRules_noBalancing.testHead w.cfg.seg (releaseMove i r s) released.1
  exact ⟨head.1, head.2.trans released.2⟩

/-- The measured value at raise by a move's time-out (R46). -/
def Well.standing (w : Well) : Option Int :=
  match w.last with
  | some q => some (q.position : Int)
  | none => w.target.map fun x => (x : Int)

theorem moveExpiry_none {s : State} {i : Slot} (h : (s.well i).bind (·.move) = none) : moveExpiry i s = s := by
  unfold moveExpiry
  rw [h]

theorem moveExpiry_some {s : State} {i : Slot} {w : Well} {m : MoveRec} (hw : s.well i = some w) (hm : w.move = some m) :
    moveExpiry i s = (excursion i .actuator w.standing (some (m.target : Int))
      (endMove i .timedOut { s with timeBase := max s.timeBase (m.start + (s.seg w.cfg.seg).settings.moveTimeout * 1000) })).1 := by
  have hmove : (s.well i).bind (·.move) = some m := by
    rw [hw]
    exact hm
  have hlate : ({ s with timeBase := max s.timeBase (m.start + (s.seg w.cfg.seg).settings.moveTimeout * 1000) } : State).well i =
      some w := hw
  unfold moveExpiry
  rw [hmove, hw]
  dsimp only
  rw [State.advanceTo_eq]
  unfold timeOutMove
  rw [hlate]
  dsimp only
  rw [hm]
  unfold Well.standing
  rfl

theorem demandExpiry_some {s : State} {d : Nat × Nat} {arrival : Nat} (hd : s.balancer.demand = some d)
    (ha : s.balancer.demandArrival = some arrival) :
    demandExpiry s =
      { s with
        timeBase := max s.timeBase (arrival + s.site.demandTimeout * 1000)
        balancer := { s.balancer with demand := none } } := by
  unfold demandExpiry
  rw [hd, ha]
  dsimp only
  rw [State.advanceTo_eq]
  rfl

theorem setCount_well {s : State} {i : Slot} {w : Well} (hw : s.well i = some w) (k : ExcKind) (n : Nat) :
    (setCount i k n s).well i = some { w with excursions := w.excursions.put k n } := by
  unfold setCount
  rw [modWell_well, hw]
  simp

theorem setReason_well {s : State} {i : Slot} {w : Well} (hw : s.well i = some w) (r : Reason) (x : Bool) :
    (setReason i r x s).well i = some { w with holds := w.holds.put r x } := by
  unfold setReason
  rw [modWell_well, hw]
  simp

theorem setCount_conds (i : Slot) (k : ExcKind) (n : Nat) (s : State) : (setCount i k n s).conds = s.conds :=
  (hushed_modWell s i _).conds

theorem setReason_conds (i : Slot) (r : Reason) (x : Bool) (s : State) : (setReason i r x s).conds = s.conds :=
  (hushed_modWell s i _).conds

/-- An actuator excursion of the well `w`, by its three outcomes. -/
theorem actuatorExcursion {s : State} {i : Slot} {w : Well} (hw : s.well i = some w) (m n : Option Int) :
    ∃ v, (excursion i .actuator m n s).1.well i = some v ∧
      (s.attachedRec .actuatorFault i.val = true →
        v.excursions = w.excursions.put .actuator 0 ∧ v.holds = w.holds ∧
          ((excursion i .actuator m n s).1.conds.find .actuatorFault i.val).map (·.recurrence) =
            (s.conds.find .actuatorFault i.val).map fun r => satInc 255 r.recurrence) ∧
      (s.attachedRec .actuatorFault i.val = false → ¬ Verifies s i w .actuator →
        v.excursions = w.excursions.put .actuator (satInc 15 w.excursions.actuator) ∧ v.holds = w.holds ∧
          (excursion i .actuator m n s).1.conds = s.conds) ∧
      (Verifies s i w .actuator →
        v.excursions = w.excursions.put .actuator 0 ∧ v.holds = w.holds.put .actuator true ∧
          ∃ r, (excursion i .actuator m n s).1.conds.find .actuatorFault i.val = some r ∧ r.attached = true ∧
            (s.conds.find .actuatorFault i.val = none →
              r.raised = s.timeBase ∧ r.recurrence = 0 ∧ r.limit = n ∧ r.measured = m) ∧
            ∀ old, s.conds.find .actuatorFault i.val = some old → r.recurrence = satInc 255 old.recurrence) := by
  have counted (c : Nat) := setCount_well hw .actuator c
  cases h : s.attachedRec .actuatorFault i.val with
  | true =>
    rw [excursion_recurs (k := .actuator) hw h]
    refine ⟨_, (reports_bumpRec _ _ _).well i |>.trans (counted 0), fun _ => ⟨rfl, rfl, ?_⟩, fun e => (nomatch e), fun hv => ?_⟩
    · have e := find_bumpRec_self (setCount i .actuator 0 s) .actuatorFault i.val
      rw [setCount_conds] at e
      rw [show ExcKind.kind .actuator = .actuatorFault from rfl, e, Option.map_map]
      rfl
    · exact absurd (h.symm.trans hv.1) (by simp)
  | false =>
    by_cases hv : Verifies s i w .actuator
    · rw [excursion_raises hw hv, protectiveAction_actuator]
      have raisedWell := (reports_raiseCond ExcKind.actuator.kind i.val m n (setCount i .actuator 0 s)).well i |>.trans (counted 0)
      obtain ⟨r, hr, hattached, hnew, hold⟩ := raiseCond_record (s := setCount i .actuator 0 s) (k := .actuatorFault) (src := i.val) m n
      rw [setCount_conds] at hnew hold
      have htime : (setCount i .actuator 0 s).timeBase = s.timeBase := (inner_setCount (d := False) i .actuator 0 s).timeBase
      rw [htime] at hnew
      refine ⟨_, setReason_well raisedWell _ _, fun e => (nomatch e), fun _ hn => absurd hv hn, fun _ => ⟨rfl, rfl, r, ?_, hattached,
        hnew, hold⟩⟩
      rw [setReason_conds]
      exact hr
    · rw [excursion_counts (k := .actuator) hw h hv]
      exact ⟨_, counted _, fun e => (nomatch e), fun _ _ => ⟨rfl, rfl, setCount_conds _ _ _ _⟩, fun hn => absurd hn hv⟩

theorem endMove_conds (i : Slot) (r : Ending) (s : State) : (endMove i r s).conds = s.conds := (hushed_endMove i r s).conds

/-- The move timer of a well with a move: the move ends TIMED OUT, and its time-out counts as an actuator excursion. -/
theorem moveTimeout_some {s : State} {i : Slot} {w : Well} {m : MoveRec} (hheld : s.held = false) (hw : s.well i = some w)
    (hm : w.move = some m) :
    ∃ t, exec (.moveTimeout i) s = .next t ∧ Undisturbed s t ∧ t.unit = s.unit ∧ (t.well i).bind (·.move) = none ∧
      t.timeBase = max s.timeBase (m.start + (s.seg w.cfg.seg).settings.moveTimeout * 1000) ∧
      (t.seg w.cfg.seg).outstanding = (s.seg w.cfg.seg).outstanding - m.travel ∧
      (∀ b, s.balancer.move = some b → b.slot = i → b.phase = .moving →
        t.balancer.move = none ∧ t.balancer.lastEnd = some (.timedOut, t.timeBase)) ∧
      (∀ j : Slot, (t.well j).map Well.key = (s.well j).map Well.key) ∧
      ∃ v, t.well i = some v ∧
        (s.attachedRec .actuatorFault i.val = true →
          v.excursions = w.excursions.put .actuator 0 ∧ v.holds = w.holds ∧
            (t.conds.find .actuatorFault i.val).map (·.recurrence) =
              (s.conds.find .actuatorFault i.val).map fun r => satInc 255 r.recurrence) ∧
        (s.attachedRec .actuatorFault i.val = false → ¬ Verifies s i w .actuator →
          v.excursions = w.excursions.put .actuator (satInc 15 w.excursions.actuator) ∧ v.holds = w.holds ∧
            t.conds = s.conds) ∧
        (Verifies s i w .actuator →
          v.excursions = w.excursions.put .actuator 0 ∧ v.holds = w.holds.put .actuator true ∧
            ∃ r, t.conds.find .actuatorFault i.val = some r ∧ r.attached = true ∧
              (s.conds.find .actuatorFault i.val = none →
                r.raised = t.timeBase ∧ r.recurrence = 0 ∧ r.limit = some (m.target : Int) ∧ r.measured = w.standing) ∧
              ∀ old, s.conds.find .actuatorFault i.val = some old → r.recurrence = satInc 255 old.recurrence) := by
  have hexec : exec (.moveTimeout i) s = .next (moveExpiry i s) := Event.exec_free (.moveTimeout i) hheld
  have hkeeps := (keeps_moveExpiry i s).undisturbed
  have hexpiry := moveExpiry_some hw hm
  rw [hexpiry] at hexec hkeeps
  generalize max s.timeBase (m.start + (s.seg w.cfg.seg).settings.moveTimeout * 1000) = now at hexec hkeeps ⊢
  have hlate : ({ s with timeBase := now } : State).well i = some w := hw
  have ended := inner_endMove i .timedOut { s with timeBase := now }
  have hconds := endMove_conds i .timedOut { s with timeBase := now }
  have tests := sameTests_endMove i .timedOut { s with timeBase := now } i
  have hmove := endMove_move i .timedOut { s with timeBase := now }
  have hout := endMove_outstanding hlate hm .timedOut
  have hbalancing := fun b hb hi hp => endMove_balancing (b := b) hlate hm hb hi hp .timedOut
  have hkey := ended.key i
  rw [hlate] at tests hkey
  generalize endMove i .timedOut { s with timeBase := now } = u at hexec hkeeps ended hconds tests hmove hout hbalancing hkey
  obtain ⟨w', hw', htests⟩ := Option.map_eq_some_iff.mp tests
  obtain ⟨hholds, hcounts⟩ := Prod.mk.inj htests
  have done := inner_excursion (d := False) i .actuator w.standing (some (m.target : Int)) u
  obtain ⟨v, hv, hrecurs, hbelow, hraises⟩ := actuatorExcursion hw' w.standing (some (m.target : Int))
  have hattached : u.attachedRec .actuatorFault i.val = s.attachedRec .actuatorFault i.val := by
    unfold State.attachedRec
    rw [hconds]
  have hsite : u.site = s.site := ended.keeps.site
  have hverifies : Verifies u i w' .actuator ↔ Verifies s i w .actuator := by
    unfold Verifies
    rw [hsite, hcounts, show ExcKind.kind .actuator = .actuatorFault from rfl, hattached]
  have htime := done.timeBase.trans ended.timeBase
  rw [hattached, hconds, hholds, hcounts] at hrecurs
  rw [hattached, hconds, hholds, hcounts, hverifies] at hbelow
  rw [hverifies, hconds, hholds, hcounts] at hraises
  rw [← done.timeBase] at hraises
  refine ⟨_, hexec, hkeeps, done.unit.trans ended.unit, done.move_none hmove, htime,
    ((sameMoves_excursion i .actuator _ _ u).outstanding _).trans hout, fun b hb hi hp => ?_,
    fun j => (done.key j).trans (ended.key j), v, hv, hrecurs, hbelow, hraises⟩
  obtain ⟨hnone, hlast⟩ := hbalancing b hb hi hp
  obtain ⟨hnone', hlast'⟩ := noBalancing_excursion i .actuator w.standing (some (m.target : Int)) u hnone
  refine ⟨hnone', hlast'.trans (hlast.trans ?_)⟩
  rw [htime]

end Sys2Proof.Machine
end

section
/-! PROOF. The report timer (O41): what an evaluation of a line writes, how it treats the kinds of its line, and the LINE summary. -/

-- One theorem at a time: the one-text build of the package runs out of threads otherwise.
set_option Elab.async false

namespace Sys2Proof.Machine

/-! ## Rosters follow the keys -/

/-- Two states whose records have the same keys. -/
def SameKeys (s t : State) : Prop := ∀ j, (t.well j).map Well.key = (s.well j).map Well.key

theorem SameKeys.cases {s t : State} (h : SameKeys s t) (j : Slot) :
    (s.well j = none ∧ t.well j = none) ∨ ∃ w v, s.well j = some w ∧ t.well j = some v ∧ v.key = w.key := by
  have hj := h j
  cases hs : s.well j with
  | none =>
    rw [hs] at hj
    exact .inl ⟨rfl, Option.map_eq_none_iff.mp hj⟩
  | some w =>
    rw [hs] at hj
    obtain ⟨v, hv, hkey⟩ := Option.map_eq_some_iff.mp hj
    exact .inr ⟨w, v, rfl, hv, hkey⟩

theorem SameKeys.last {s t : State} (h : SameKeys s t) (j : Slot) : (t.well j).bind (·.last) = (s.well j).bind (·.last) := by
  rcases h.cases j with ⟨hs, ht⟩ | ⟨w, v, hs, ht, hkey⟩
  · rw [hs, ht]
  · have hlast := congrArg (fun x => x.2.2.2.1) hkey
    rw [hs, ht]
    exact hlast

theorem SameKeys.rosterLine {s t : State} (h : SameKeys s t) (j : Slot) :
    Machine.rosterLine (t.well j) = Machine.rosterLine (s.well j) := by
  rcases h.cases j with ⟨hs, ht⟩ | ⟨w, v, hs, ht, hkey⟩
  · rw [hs, ht]
  · rw [hs, ht]
    exact rosterLine_key hkey

theorem gasOf_eq (o : Option Well) : gasOf o = (o.bind (·.last)).bind (·.gas) := by
  unfold gasOf
  cases o <;> rfl

theorem SameKeys.leanOrder {s t : State} (h : SameKeys s t) (i j : Slot) :
    Machine.leanOrder t.wells i j = Machine.leanOrder s.wells i j := by
  have gas (k : Slot) : gasOf (t.well k) = gasOf (s.well k) := by rw [gasOf_eq, gasOf_eq, h.last]
  have hi := gas i
  have hj := gas j
  unfold State.well at hi hj
  unfold Machine.leanOrder
  rw [hi, hj]

theorem SameKeys.roster {s t : State} (h : SameKeys s t) (hs : RosterLaw s) (ht : RosterLaw t) (l : Line) :
    t.rosters.get l = s.rosters.get l := by
  obtain ⟨sNodup, sMem, sSorted⟩ := hs l
  obtain ⟨tNodup, tMem, tSorted⟩ := ht l
  have same : ∀ i, i ∈ t.rosters.get l ↔ i ∈ s.rosters.get l := fun i => by rw [sMem, tMem, h.rosterLine]
  have sorted : (t.rosters.get l).Pairwise fun i j => Machine.leanOrder s.wells i j = true :=
    tSorted.imp fun {i j} hij => (h.leanOrder i j).symm.trans hij
  refine List.Perm.eq_of_pairwise (fun i j _ _ hij hji => ?_) sorted sSorted ((List.perm_ext_iff_of_nodup tNodup sNodup).mpr same)
  have hirrefl := leanOrder_trans s.wells i j i hij hji
  have hfalse : Machine.leanOrder s.wells i i = false := leanBefore_irrefl _ _
  rw [hfalse] at hirrefl
  exact nomatch hirrefl

/-! ## What an evaluation writes -/

/-- The flow and the gas a slot brings to its line. -/
def State.gasAt (s : State) (j : Slot) : Option (Nat × GasBlock) :=
  ((s.well j).bind (·.last)).bind fun q =>
    q.gas.bind fun x => if s.timeBase - q.time ≤ s.site.maxSampleAge * 1000 then some (q.flow, x) else none

theorem contribOf_eq (s : State) (j : Slot) :
    s.contribOf j = (s.gasAt j).map fun c => ⟨j, c.1, c.2.ch4, c.2.o2⟩ := by
  unfold State.contribOf State.gasAt State.fresh
  cases (s.well j).bind (·.last) with
  | none => rfl
  | some q =>
    dsimp only [Option.bind_some]
    cases q.gas with
    | none => rfl
    | some x =>
      dsimp only [Option.bind_some]
      by_cases h : s.timeBase - q.time ≤ s.site.maxSampleAge * 1000 <;> simp [h]

/-- The contributions of a line, in roster order. -/
def State.gases (s : State) (l : Line) : List (Nat × GasBlock) := (s.rosters.get l).filterMap s.gasAt

theorem contribs_map {α : Type} (s : State) (l : Line) (f : Contrib → α) (g : Nat × GasBlock → α)
    (h : ∀ j c, f ⟨j, c.1, c.2.ch4, c.2.o2⟩ = g c) : (s.contribs l).map f = (s.gases l).map g := by
  unfold State.contribs State.gases
  rw [List.map_filterMap, List.map_filterMap]
  congr 1
  funext j
  rw [contribOf_eq, Option.map_map]
  cases s.gasAt j with
  | none => rfl
  | some c => exact congrArg some (h j c)

theorem contribs_length (s : State) (l : Line) : (s.contribs l).length = (s.gases l).length := by
  have e := congrArg List.length (contribs_map s l (fun _ => ()) (fun _ => ()) fun _ _ => rfl)
  rwa [List.length_map, List.length_map] at e

/-- The three sums of a line. -/
def State.flowSum (s : State) (l : Line) : Nat := ((s.gases l).map fun c => c.1).sum

def State.ch4Sum (s : State) (l : Line) : Nat := ((s.gases l).map fun c => c.1 * c.2.ch4).sum

def State.o2Sum (s : State) (l : Line) : Nat := ((s.gases l).map fun c => c.1 * c.2.o2).sum

/-- The status of a line by R80. -/
def State.statusAt (s : State) (l : Line) : LineStatus :=
  if l = .engine ∧ s.balancer.lineLost = true then .lost
  else if l = .flare ∧ s.balancer.flareFault = true then .fault
  else if s.flowSum l = 0 then .noFlow
  else if l = .engine ∧ s.limits.engineO2Max < s.o2Sum l / s.flowSum l then .oxygen
  else if s.ch4Sum l / s.flowSum l < (if l = .engine then s.limits.engineMin else s.limits.flareMin) then .low
  else .normal

theorem statusOf_eq (s : State) (l : Line) :
    s.statusOf l (blend (s.ch4Sum l) (s.flowSum l)) (blend (s.o2Sum l) (s.flowSum l)) = s.statusAt l := by
  unfold State.statusOf State.statusAt blend
  by_cases hflow : s.flowSum l = 0
  · cases l with
    | engine =>
      unfold engineStatus
      cases s.balancer.lineLost <;> simp [hflow]
    | flare =>
      unfold flareStatus
      cases s.balancer.flareFault <;> simp [hflow]
  · cases l with
    | engine =>
      unfold engineStatus
      cases s.balancer.lineLost <;> simp [hflow]
    | flare =>
      unfold flareStatus
      cases s.balancer.flareFault <;> simp [hflow]

/-- The blend record of a line by its contributions. -/
def State.recordAt (s : State) (l : Line) : LineRecord :=
  ⟨s.statusAt l, (s.gases l).length, s.flowSum l, s.ch4Sum l, s.o2Sum l, blend (s.ch4Sum l) (s.flowSum l),
    blend (s.o2Sum l) (s.flowSum l), some s.timeBase⟩

theorem lineRecordOf_eq (s : State) (l : Line) : s.lineRecordOf l = s.recordAt l := by
  have hflow : sumFlow (s.contribs l) = s.flowSum l := congrArg List.sum (contribs_map s l _ _ fun _ _ => rfl)
  have hch4 : sumCh4 (s.contribs l) = s.ch4Sum l := congrArg List.sum (contribs_map s l _ _ fun _ _ => rfl)
  have ho2 : sumO2 (s.contribs l) = s.o2Sum l := congrArg List.sum (contribs_map s l _ _ fun _ _ => rfl)
  unfold State.lineRecordOf State.recordAt
  dsimp only
  rw [hflow, hch4, ho2, contribs_length, statusOf_eq]

/-- What the record of a line is made from. -/
structure SameBlend (l : Line) (s t : State) : Prop where
  gases : t.gases l = s.gases l
  timeBase : t.timeBase = s.timeBase
  limits : t.limits = s.limits
  lineLost : t.balancer.lineLost = s.balancer.lineLost
  flareFault : t.balancer.flareFault = s.balancer.flareFault

theorem SameBlend.recordAt {l : Line} {s t : State} (h : SameBlend l s t) : t.recordAt l = s.recordAt l := by
  unfold State.recordAt State.statusAt State.flowSum State.ch4Sum State.o2Sum
  rw [h.gases, h.timeBase, h.limits, h.lineLost, h.flareFault]

theorem gasAt_congr {s t : State} (h : SameKeys s t) (htime : t.timeBase = s.timeBase) (hsite : t.site = s.site) (j : Slot) :
    t.gasAt j = s.gasAt j := by
  unfold State.gasAt
  rw [h.last, htime, hsite]

theorem gases_congr {s t : State} (h : SameKeys s t) (htime : t.timeBase = s.timeBase) (hsite : t.site = s.site) {l : Line}
    (hr : t.rosters.get l = s.rosters.get l) : t.gases l = s.gases l := by
  unfold State.gases
  rw [hr]
  congr 1
  funext j
  exact gasAt_congr h htime hsite j

/-- An evaluation before its balancing pass. -/
def treated (l : Line) (s : State) : State := treatLine l (s.recordAt l) (s.setLine l (s.recordAt l))

theorem evaluateLine_eq (l : Line) (s : State) :
    evaluateLine l s = if (treated l s).passDue then balancingPass (treated l s) else treated l s := by
  unfold evaluateLine treated
  rw [lineRecordOf_eq]

theorem hushed_evaluateLine (l : Line) (s : State) : Hushed (treated l s) (evaluateLine l s) := by
  rw [evaluateLine_eq]
  split
  · unfold balancingPass
    split
    · exact Hushed.trans (t := (treated l s).modBalancer _) ⟨rfl, rfl, rfl, rfl⟩
        (outletRules_hushed.toQueueRules.arriveOther _ _ _ _ _)
    · exact .refl _
  · exact .refl _

theorem Reports.lines {s t : State} (h : Reports s t) : t.lines = s.lines := by
  have e := congrArg State.lines h
  exact e

theorem Reports.site {s t : State} (h : Reports s t) : t.site = s.site := by
  have e := congrArg State.site h
  exact e

theorem Reports.limits {s t : State} (h : Reports s t) : t.limits = s.limits := by
  have e := congrArg State.limits h
  exact e

theorem evaluateLine_lines (l : Line) (s : State) : (evaluateLine l s).lines = s.lines.put l (s.recordAt l) :=
  (hushed_evaluateLine l s).lines.trans (reports_treatLine _ _ _).lines

/-! ## How an evaluation treats a kind -/

/-- An operation on another pair's record: it leaves the pair's own, pending or in service, and the count of its kind. -/
structure Beside (k : CondKind) (src : Nat) (s t : State) : Prop where
  waiting : ∀ r ∈ t.conds.waiting, r.isPair k src = true → r ∈ s.conds.waiting
  stack : ∀ r ∈ s.conds.stack, r.isPair k src = true → r ∈ t.conds.stack
  recOf : CondLaw s.conds → t.conds.recOf k src = s.conds.recOf k src
  law : CondLaw s.conds → CondLaw t.conds
  kinds : t.conds.kinds = s.conds.kinds
  timeBase : t.timeBase = s.timeBase
  count : t.balancer.counts.get k = s.balancer.counts.get k
  site : t.site = s.site

variable {k j : CondKind} {src n : Nat}

theorem Beside.trans {s t u : State} (a : Beside k src s t) (b : Beside k src t u) : Beside k src s u where
  waiting := fun r hr hp => a.waiting r (b.waiting r hr hp) hp
  stack := fun r hr hp => b.stack r (a.stack r hr hp) hp
  recOf := fun h => (b.recOf (a.law h)).trans (a.recOf h)
  law := fun h => b.law (a.law h)
  kinds := b.kinds.trans a.kinds
  timeBase := b.timeBase.trans a.timeBase
  count := b.count.trans a.count
  site := b.site.trans a.site

/-- An operation that leaves the conditions and the counts. -/
theorem Beside.of_conds {s t : State} (conds : t.conds = s.conds) (counts : t.balancer.counts = s.balancer.counts)
    (timeBase : t.timeBase = s.timeBase) (site : t.site = s.site) : Beside k src s t where
  waiting := fun r hr _ => conds ▸ hr
  stack := fun r hr _ => conds.symm ▸ hr
  recOf := fun _ => by rw [conds]
  law := fun h => conds.symm ▸ h
  kinds := by rw [conds]
  timeBase := timeBase
  count := by rw [counts]
  site := site

theorem Hushed.beside {d : Prop} {s t : State} (h : Hushed s t) (a : Inner d s t) : Beside k src s t :=
  .of_conds h.conds h.counts a.timeBase a.keeps.site

theorem evalTaking_waiting {s : State} {r : CondRec} (h : r ∈ (evalTaking s).conds.waiting) : r ∈ s.conds.waiting := by
  unfold evalTaking at h
  split at h
  · split at h
    · exact (List.mem_filter.mp h).1
    · exact h
  · exact h

theorem evalTaking_stack {s : State} {r : CondRec} (h : r ∈ s.conds.stack) : r ∈ (evalTaking s).conds.stack := by
  unfold evalTaking
  split
  · split
    · exact List.mem_cons_of_mem _ h
    · exact h
  · exact h

theorem evalTaking_counts (s : State) : (evalTaking s).balancer.counts = s.balancer.counts := by
  unfold evalTaking
  split
  · split <;> rfl
  · rfl

theorem beside_evalTaking (s : State) : Beside k src s (evalTaking s) where
  waiting := fun _ h _ => evalTaking_waiting h
  stack := fun _ h _ => evalTaking_stack h
  recOf := fun h => recOf_evalTaking (h.lone k src)
  law := (inner_evalTaking (d := False) s).keeps.condLaw
  kinds := (inner_evalTaking (d := False) s).keeps.kinds
  timeBase := (reports_evalTaking s).timeBase
  count := by rw [evalTaking_counts]
  site := (reports_evalTaking s).site

theorem raiseCond_counts (s : State) (m e : Option Int) : (raiseCond k src m e s).balancer.counts = s.balancer.counts := by
  unfold raiseCond
  split
  · rfl
  · exact evalTaking_counts _

theorem withdraw_counts (s : State) : (withdraw k src s).balancer.counts = s.balancer.counts := by
  unfold withdraw
  split
  · exact evalTaking_counts _
  · rfl

theorem beside_bumpRec (s : State) (hne : (k, src) ≠ (j, n)) : Beside k src s (bumpRec j n s) where
  waiting := fun r hr hp => by
    obtain ⟨x, hx, rfl⟩ := List.mem_map.mp hr
    by_cases hxj : x.isPair j n = true
    · have hxk : x.isPair k src = true := by
        rw [if_pos hxj] at hp
        exact hp
      exact absurd hxj (by rw [isPair_of_ne hxk hne]; exact Bool.false_ne_true)
    · rw [if_neg hxj]
      exact hx
  stack := fun r hr hp => List.mem_map.mpr ⟨r, hr, if_neg (by rw [isPair_of_ne hp hne]; exact Bool.false_ne_true)⟩
  recOf := fun _ => congrArg (Option.map CondRec.untaken) (find_bumpRec_other s hne)
  law := (inner_bumpRec (d := False) j n s).keeps.condLaw
  kinds := rfl
  timeBase := rfl
  count := rfl
  site := rfl

theorem beside_raiseCond (s : State) (hne : (k, src) ≠ (j, n)) (m e : Option Int) : Beside k src s (raiseCond j n m e s) where
  waiting := fun r hr hp => by
    cases h : s.hasRec j n with
    | true =>
      rw [raiseCond_known h] at hr
      exact (beside_bumpRec s hne).waiting r hr hp
    | false =>
      rw [raiseCond_new h] at hr
      rcases (mem_placeRec _ _ _).mp (evalTaking_waiting hr) with hnew | hold
      · rw [hnew, isPair_of_ne (newRec_isPair s j n m e) (Ne.symm hne)] at hp
        exact nomatch hp
      · exact hold
  stack := fun r hr hp => by
    cases h : s.hasRec j n with
    | true =>
      rw [raiseCond_known h]
      exact (beside_bumpRec s hne).stack r hr hp
    | false =>
      rw [raiseCond_new h]
      exact evalTaking_stack (s := s.modConds _) hr
  recOf := fun h => recOf_raiseCond_other hne (h.lone k src) m e
  law := (inner_raiseCond (d := False) j n m e s).keeps.condLaw
  kinds := (inner_raiseCond (d := False) j n m e s).keeps.kinds
  timeBase := (reports_raiseCond j n m e s).timeBase
  count := by rw [raiseCond_counts]
  site := (reports_raiseCond j n m e s).site

/-- The conditions without the pair's pending record. -/
def Conditions.without (c : Conditions) (k : CondKind) (src : Nat) : Conditions :=
  { c with waiting := c.waiting.filter fun r => !r.isPair k src }

theorem withdraw_eq (s : State) (k : CondKind) (src : Nat) :
    withdraw k src s = if s.conds.waiting.any (·.isPair k src) then evalTaking (s.modConds (·.without k src)) else s := rfl

theorem find_without (c : Conditions) (hne : (k, src) ≠ (j, n)) : (c.without j n).find k src = c.find k src := by
  have e : (c.without j n).find k src = ((c.waiting.filter fun r => !r.isPair j n) ++ c.stack).find? (·.isPair k src) :=
    Conditions.find_eq _ k src
  rw [e, Conditions.find_eq, List.find?_append, List.find?_append, List.find?_filter]
  congr 2
  funext r
  by_cases h : r.isPair k src = true
  · simp [h, isPair_of_ne h hne]
  · simp [Bool.eq_false_iff.mpr h]

theorem beside_withdraw (s : State) (hne : (k, src) ≠ (j, n)) : Beside k src s (withdraw j n s) where
  waiting := fun r hr _ => by
    rw [withdraw_eq] at hr
    split at hr
    · exact (List.mem_filter.mp (evalTaking_waiting hr)).1
    · exact hr
  stack := fun r hr _ => by
    rw [withdraw_eq]
    split
    · exact evalTaking_stack (s := s.modConds _) hr
    · exact hr
  recOf := fun h => by
    rw [withdraw_eq]
    split
    · rw [recOf_evalTaking (s := s.modConds (·.without j n)) ((h.filterWaiting _).lone k src)]
      exact congrArg (Option.map CondRec.untaken) (find_without s.conds hne)
    · rfl
  law := (inner_withdraw (d := False) j n s).keeps.condLaw
  kinds := (inner_withdraw (d := False) j n s).keeps.kinds
  timeBase := (reports_withdraw j n s).timeBase
  count := by rw [withdraw_counts]
  site := (reports_withdraw j n s).site

/-- One of the three kinds an evaluation treats. -/
def CondKind.OfLine (k : CondKind) : Prop := k = .lineOxygenHigh ∨ k = .engineBlendLow ∨ k = .flareBlendLow

theorem counts_get_put_self (hk : k.OfLine) (c : LineCounts) (x : Nat) : (c.put k x).get k = x := by
  rcases hk with rfl | rfl | rfl <;> rfl

theorem counts_get_put_other (hk : k.OfLine) (hj : j.OfLine) (hne : k ≠ j) (c : LineCounts) (x : Nat) :
    (c.put j x).get k = c.get k := by
  rcases hk with rfl | rfl | rfl <;> rcases hj with rfl | rfl | rfl <;> first | rfl | exact absurd rfl hne

theorem beside_setLineCount (hk : k.OfLine) (hj : j.OfLine) (hne : k ≠ j) (x : Nat) (s : State) :
    Beside k src s (setLineCount j x s) where
  waiting := fun _ h _ => h
  stack := fun _ h _ => h
  recOf := fun _ => rfl
  law := id
  kinds := rfl
  timeBase := rfl
  count := counts_get_put_other hk hj hne _ _
  site := rfl

theorem beside_treatLineKind (hk : k.OfLine) (hj : j.OfLine) (hne : k ≠ j) (b : Bool) (m : Option Nat) (limit : Nat) (s : State) :
    Beside k src s (treatLineKind j b m limit s) := by
  have hpair : (k, src) ≠ (j, j.fixedSource) := fun e => hne (congrArg Prod.fst e)
  have counted (x : Nat) : Beside k src s (setLineCount j x s) := beside_setLineCount hk hj hne x s
  unfold treatLineKind
  dsimp only
  split
  · split
    · exact (counted 0).trans (beside_bumpRec _ hpair)
    · split
      · exact (counted 0).trans (beside_raiseCond _ hpair _ _)
      · exact counted _
  · exact (counted 0).trans (beside_withdraw _ hpair)

theorem withdraw_waiting {s : State} {r : CondRec} (h : r ∈ (withdraw k src s).conds.waiting) : r.isPair k src = false := by
  rw [withdraw_eq] at h
  split at h
  · have hr := (List.mem_filter.mp (evalTaking_waiting h)).2
    simpa using hr
  · next hany =>
    rw [Bool.eq_false_iff]
    exact fun hp => hany (List.any_eq_true.mpr ⟨r, h, hp⟩)

theorem withdraw_stack {s : State} {r : CondRec} (h : r ∈ s.conds.stack) : r ∈ (withdraw k src s).conds.stack := by
  rw [withdraw_eq]
  split
  · exact evalTaking_stack (s := s.modConds _) h
  · exact h

theorem setLineCount_get (hk : k.OfLine) (x : Nat) (s : State) : (setLineCount k x s).balancer.counts.get k = x :=
  counts_get_put_self hk _ _

/-- The treatment of a kind has the outcomes the spec names (R81, R82). -/
theorem treatLineKind_treats (hk : k.OfLine) (hit : Prop) [Decidable hit] (m : Option Nat) (limit : Nat) (s : State) :
    LineKindTreated s (treatLineKind k (decide hit) m limit s) k k.fixedSource hit m limit (s.site.verifyLine k)
      (s.balancer.counts.get k) ((treatLineKind k (decide hit) m limit s).balancer.counts.get k) := by
  have counted (x : Nat) := setLineCount_get hk x s
  have hconds (x : Nat) : (setLineCount k x s).conds = s.conds := rfl
  by_cases hhit : hit
  · by_cases hrec : s.hasRec k k.fixedSource = true
    · have e : treatLineKind k (decide hit) m limit s = bumpRec k k.fixedSource (setLineCount k 0 s) := by
        unfold treatLineKind
        dsimp only
        rw [if_pos (decide_eq_true hhit), if_pos hrec]
      rw [e]
      refine ⟨fun h => absurd hhit h, fun _ _ => ⟨counted 0, ?_⟩, fun _ h => absurd (hrec.symm.trans h) (by simp),
        fun _ h => absurd (hrec.symm.trans h) (by simp)⟩
      rw [find_bumpRec_self, hconds, Option.map_map]
      rfl
    · have hno := Bool.eq_false_iff.mpr hrec
      by_cases hv : s.site.verifyLine k ≤ satInc 15 (s.balancer.counts.get k)
      · have e : treatLineKind k (decide hit) m limit s = raiseCond k k.fixedSource (m.map fun x => (x : Int)) (some (limit : Int))
            (setLineCount k 0 s) := by
          unfold treatLineKind
          dsimp only
          rw [if_pos (decide_eq_true hhit), if_neg hrec]
          exact if_pos hv
        rw [e]
        refine ⟨fun h => absurd hhit h, fun _ h => absurd h hrec, fun _ _ h => absurd hv (Nat.not_le_of_lt h), fun _ _ _ => ⟨?_, ?_⟩⟩
        · rw [raiseCond_counts, counted]
        · have hnew := recOf_raiseCond_new (s := setLineCount k 0 s) hno (m.map fun x => (x : Int)) (some (limit : Int))
          obtain ⟨r, hr, huntaken⟩ := Option.map_eq_some_iff.mp hnew
          have htime := (reports_raiseCond k k.fixedSource (m.map fun x => (x : Int)) (some (limit : Int)) (setLineCount k 0 s)).timeBase
          exact ⟨r, hr, congrArg CondRec.level huntaken, (congrArg CondRec.raised huntaken).trans htime.symm,
            congrArg CondRec.recurrence huntaken, congrArg CondRec.attached huntaken, congrArg CondRec.measured huntaken,
            congrArg CondRec.limit huntaken⟩
      · have e : treatLineKind k (decide hit) m limit s = setLineCount k (satInc 15 (s.balancer.counts.get k)) s := by
          unfold treatLineKind
          dsimp only
          rw [if_pos (decide_eq_true hhit), if_neg hrec]
          exact if_neg hv
        rw [e]
        exact ⟨fun h => absurd hhit h, fun _ h => absurd h hrec, fun _ _ _ => ⟨counted _, hno⟩, fun _ _ h => absurd h hv⟩
  · have e : treatLineKind k (decide hit) m limit s = withdraw k k.fixedSource (setLineCount k 0 s) := by
      unfold treatLineKind
      dsimp only
      rw [if_neg (by simpa using hhit)]
    rw [e]
    refine ⟨fun _ => ⟨?_, fun r hr hp => ?_, fun r hr _ _ => withdraw_stack (s := setLineCount k 0 s) hr⟩, fun h => absurd h hhit, fun h => absurd h hhit,
      fun h => absurd h hhit⟩
    · rw [withdraw_counts, counted]
    · have hno := withdraw_waiting hr
      rw [Bool.eq_false_iff] at hno
      exact hno ((isPair_iff_and _ _ _).mpr hp)

theorem Beside.hasRec {s t : State} (h : Beside k src s t) (hs : CondLaw s.conds) : t.hasRec k src = s.hasRec k src := by
  unfold State.hasRec
  rw [← Conditions.recOf_isSome, ← Conditions.recOf_isSome, h.recOf hs]

/-- What the record of a pair tells besides its taken time. -/
theorem find_map_of_recOf {c e : Conditions} (h : e.recOf k src = c.recOf k src) {α : Type} (f : CondRec → α)
    (hf : ∀ r, f r.untaken = f r) : (e.find k src).map f = (c.find k src).map f := by
  have hcomp : f ∘ CondRec.untaken = f := funext hf
  have hmap := congrArg (Option.map f) h
  unfold Conditions.recOf at hmap
  rwa [Option.map_map, Option.map_map, hcomp] at hmap

variable {s t u : State} {hit : Prop} {measured : Option Nat} {limit verify before after : Nat}

theorem LineKindTreated.later (h : LineKindTreated s t k src hit measured limit verify before after) (b : Beside k src t u)
    (hlaw : CondLaw t.conds) : LineKindTreated s u k src hit measured limit verify before after where
  missed := fun hn => by
    obtain ⟨hafter, hwaiting, hstack⟩ := h.missed hn
    refine ⟨hafter, fun r hr hp => hwaiting r (b.waiting r hr ((isPair_iff_and _ _ _).mpr hp)) hp, fun r hr hk hs => ?_⟩
    exact b.stack r (hstack r hr hk hs) ((isPair_iff_and _ _ _).mpr ⟨hk, hs⟩)
  recurs := fun hh hrec => by
    obtain ⟨hafter, hfind⟩ := h.recurs hh hrec
    exact ⟨hafter, (find_map_of_recOf (b.recOf hlaw) _ fun _ => rfl).trans hfind⟩
  counts := fun hh hrec hv => by
    obtain ⟨hafter, hno⟩ := h.counts hh hrec hv
    exact ⟨hafter, (b.hasRec hlaw).trans hno⟩
  raised := fun hh hrec hv => by
    obtain ⟨hafter, r, hr, hlevel, hraised, hrecurrence, hattached, hmeasured, hlimit⟩ := h.raised hh hrec hv
    have hrec' := b.recOf hlaw
    unfold Conditions.recOf at hrec'
    rw [hr] at hrec'
    obtain ⟨x, hx, huntaken⟩ := Option.map_eq_some_iff.mp hrec'
    exact ⟨hafter, x, hx, (congrArg CondRec.level huntaken).trans hlevel,
      (congrArg CondRec.raised huntaken).trans (hraised.trans b.timeBase.symm), (congrArg CondRec.recurrence huntaken).trans hrecurrence,
      (congrArg CondRec.attached huntaken).trans hattached, (congrArg CondRec.measured huntaken).trans hmeasured,
      (congrArg CondRec.limit huntaken).trans hlimit⟩

theorem LineKindTreated.earlier (h : LineKindTreated t u k src hit measured limit verify before after) (b : Beside k src s t)
    (hlaw : CondLaw s.conds) : LineKindTreated s u k src hit measured limit verify before after where
  missed := fun hn => by
    obtain ⟨hafter, hwaiting, hstack⟩ := h.missed hn
    exact ⟨hafter, hwaiting, fun r hr hk hs => hstack r (b.stack r hr ((isPair_iff_and _ _ _).mpr ⟨hk, hs⟩)) hk hs⟩
  recurs := fun hh hrec => by
    obtain ⟨hafter, hfind⟩ := h.recurs hh ((b.hasRec hlaw).trans hrec)
    exact ⟨hafter, hfind.trans (find_map_of_recOf (b.recOf hlaw) _ fun _ => rfl)⟩
  counts := fun hh hrec => h.counts hh ((b.hasRec hlaw).trans hrec)
  raised := fun hh hrec hv => by
    obtain ⟨hafter, r, hr, hlevel, hrest⟩ := h.raised hh ((b.hasRec hlaw).trans hrec) hv
    have hsetting : t.conds.setting k = s.conds.setting k := by
      unfold Conditions.setting
      rw [b.kinds]
    exact ⟨hafter, r, hr, hsetting ▸ hlevel, hrest⟩

/-! ## The report timer -/

theorem treated_inner (l : Line) (s : State) : Inner False s (treated l s) := (inner_setLine s l _).trans (inner_treatLine l _ _)

theorem treated_evaluated (l : Line) (s : State) : Beside k src (treated l s) (evaluateLine l s) :=
  .of_conds (hushed_evaluateLine l s).conds (hushed_evaluateLine l s).counts
    ((inner_evaluateLine (d := False) l s).timeBase.trans (treated_inner l s).timeBase.symm)
    ((inner_evaluateLine (d := False) l s).keeps.site.trans (treated_inner l s).keeps.site.symm)

theorem evaluateLine_law (l : Line) {s : State} (h : CondLaw s.conds) : CondLaw (evaluateLine l s).conds :=
  (inner_evaluateLine (d := False) l s).keeps.condLaw h

theorem treated_law (l : Line) {s : State} (h : CondLaw s.conds) : CondLaw (treated l s).conds := (treated_inner l s).keeps.condLaw h

theorem evaluateLine_counts (l : Line) (s : State) (k : CondKind) :
    (evaluateLine l s).balancer.counts.get k = (treated l s).balancer.counts.get k := by
  rw [(hushed_evaluateLine l s).counts]

theorem lineOxygen_ofLine : CondKind.OfLine .lineOxygenHigh := .inl rfl

theorem engineLow_ofLine : CondKind.OfLine .engineBlendLow := .inr (.inl rfl)

theorem flareLow_ofLine : CondKind.OfLine .flareBlendLow := .inr (.inr rfl)

/-- The ENGINE line with its record written and its oxygen treated. -/
def oxygenTreated (s : State) : State :=
  treatLineKind .lineOxygenHigh (decide ((s.recordAt .engine).status = .oxygen)) (s.recordAt .engine).o2 s.limits.engineO2Max
    (s.setLine .engine (s.recordAt .engine))

theorem treated_engine (s : State) : treated .engine s =
    treatLineKind .engineBlendLow (decide ((s.recordAt .engine).status = .low)) (s.recordAt .engine).ch4 s.limits.engineMin
      (oxygenTreated s) := by
  have hlimits : (oxygenTreated s).limits = s.limits := (reports_treatLineKind _ _ _ _ _).limits
  rw [← hlimits]
  rfl

theorem treated_flare (s : State) : treated .flare s =
    treatLineKind .flareBlendLow (decide ((s.recordAt .flare).status = .low)) (s.recordAt .flare).ch4 s.limits.flareMin
      (s.setLine .flare (s.recordAt .flare)) := rfl

theorem beside_evaluateFlare (hk : k.OfLine) (hne : k ≠ .flareBlendLow) (s : State) : Beside k src s (evaluateLine .flare s) := by
  have written : Beside k src s (s.setLine .flare (s.recordAt .flare)) := .of_conds rfl rfl rfl rfl
  have treats := written.trans (beside_treatLineKind hk flareLow_ofLine hne (decide ((s.recordAt .flare).status = .low))
    (s.recordAt .flare).ch4 s.limits.flareMin _)
  rw [← treated_flare] at treats
  exact treats.trans (treated_evaluated .flare s)

theorem beside_evaluateEngine (s : State) : Beside .flareBlendLow src s (evaluateLine .engine s) := by
  have written : Beside .flareBlendLow src s (s.setLine .engine (s.recordAt .engine)) := .of_conds rfl rfl rfl rfl
  have oxygen : Beside .flareBlendLow src s (oxygenTreated s) :=
    written.trans (beside_treatLineKind flareLow_ofLine lineOxygen_ofLine (by decide) _ _ _ _)
  have treats := oxygen.trans (beside_treatLineKind flareLow_ofLine engineLow_ofLine (by decide)
    (decide ((s.recordAt .engine).status = .low)) (s.recordAt .engine).ch4 s.limits.engineMin _)
  rw [← treated_engine] at treats
  exact treats.trans (treated_evaluated .engine s)

theorem evaluateEngine_oxygen {s : State} (h : CondLaw s.conds) :
    LineKindTreated s (evaluateLine .engine s) .lineOxygenHigh 96 ((s.recordAt .engine).status = .oxygen) (s.recordAt .engine).o2
      s.limits.engineO2Max s.site.verifyLineOxygen s.balancer.counts.lineOxygen
      ((evaluateLine .engine s).balancer.counts.get .lineOxygenHigh) := by
  have treats := treatLineKind_treats lineOxygen_ofLine ((s.recordAt .engine).status = .oxygen) (s.recordAt .engine).o2
    s.limits.engineO2Max (s.setLine .engine (s.recordAt .engine))
  have hlaw : CondLaw (oxygenTreated s).conds := (inner_treatLineKind (d := False) _ _ _ _ (s.setLine .engine _)).keeps.condLaw h
  have low : Beside .lineOxygenHigh 96 (oxygenTreated s) (treated .engine s) := by
    rw [treated_engine]
    exact beside_treatLineKind lineOxygen_ofLine engineLow_ofLine (by decide) _ _ _ _
  have written : Beside .lineOxygenHigh 96 s (s.setLine .engine (s.recordAt .engine)) := .of_conds rfl rfl rfl rfl
  have later := (LineKindTreated.earlier treats written h).later (low.trans (treated_evaluated .engine s)) hlaw
  rw [(low.trans (treated_evaluated .engine s)).count]
  exact later

theorem evaluateEngine_low {s : State} (h : CondLaw s.conds) :
    LineKindTreated s (evaluateLine .engine s) .engineBlendLow 96 ((s.recordAt .engine).status = .low) (s.recordAt .engine).ch4
      s.limits.engineMin s.site.verifyEngineLow s.balancer.counts.engineLow
      ((evaluateLine .engine s).balancer.counts.get .engineBlendLow) := by
  have oxygen : Beside .engineBlendLow 96 s (oxygenTreated s) :=
    Beside.trans (t := s.setLine .engine (s.recordAt .engine)) (.of_conds rfl rfl rfl rfl)
      (beside_treatLineKind engineLow_ofLine lineOxygen_ofLine (by decide) _ _ _ _)
  have treats := treatLineKind_treats engineLow_ofLine ((s.recordAt .engine).status = .low) (s.recordAt .engine).ch4
    s.limits.engineMin (oxygenTreated s)
  rw [← treated_engine, oxygen.site, oxygen.count] at treats
  have later := (LineKindTreated.earlier treats oxygen h).later (treated_evaluated .engine s) (treated_law .engine h)
  rw [evaluateLine_counts]
  exact later

theorem evaluateFlare_low {s : State} (h : CondLaw s.conds) :
    LineKindTreated s (evaluateLine .flare s) .flareBlendLow 97 ((s.recordAt .flare).status = .low) (s.recordAt .flare).ch4
      s.limits.flareMin s.site.verifyFlareLow s.balancer.counts.flareLow
      ((evaluateLine .flare s).balancer.counts.get .flareBlendLow) := by
  have treats := treatLineKind_treats flareLow_ofLine ((s.recordAt .flare).status = .low) (s.recordAt .flare).ch4
    s.limits.flareMin (s.setLine .flare (s.recordAt .flare))
  rw [← treated_flare] at treats
  have written : Beside .flareBlendLow 97 s (s.setLine .flare (s.recordAt .flare)) := .of_conds rfl rfl rfl rfl
  have later := (LineKindTreated.earlier treats written h).later (treated_evaluated .flare s) (treated_law .flare h)
  rw [evaluateLine_counts]
  exact later

/-- The routine queue's discards of a link that is sending. -/
def Discards (s t : State) : Prop :=
  s.link.transmitter ≠ none →
    t.link.transmitter = s.link.transmitter ∧ t.link.counters.routineDiscards = s.link.counters.routineDiscards

theorem Discards.of_link {s t : State} (h : t.link = s.link) : Discards s t := fun _ => by rw [h]; exact ⟨rfl, rfl⟩

theorem Discards.trans {s t u : State} (a : Discards s t) (b : Discards t u) : Discards s u := fun hs =>
  have ⟨ht, hd⟩ := a hs
  have ⟨ht', hd'⟩ := b (ht ▸ hs)
  ⟨ht'.trans ht, hd'.trans hd⟩

theorem discards_offerUrgent (f : Uplink) (s : State) : Discards s (offerUrgent f s) := fun hs => by
  have e : (offerUrgent f s).link = s.link.offerUrgent f := rfl
  rw [e, Link.offerUrgent_sending hs]
  split <;> exact ⟨rfl, rfl⟩

theorem discards_evalTaking (s : State) : Discards s (evalTaking s) := by
  unfold evalTaking
  split
  · split
    · exact discards_offerUrgent _ (s.modConds _)
    · exact .of_link rfl
  · exact .of_link rfl

theorem discards_treatLineKind (k : CondKind) (b : Bool) (m : Option Nat) (n : Nat) (s : State) :
    Discards s (treatLineKind k b m n s) := by
  unfold treatLineKind
  dsimp only
  split
  · split
    · exact .of_link rfl
    · split
      · unfold raiseCond
        split
        · exact .of_link rfl
        · exact discards_evalTaking ((setLineCount k 0 s).modConds _)
      · exact .of_link rfl
  · rw [withdraw_eq]
    split
    · exact discards_evalTaking ((setLineCount k 0 s).modConds _)
    · exact .of_link rfl

theorem discards_evaluateLine (l : Line) (s : State) : Discards s (evaluateLine l s) := by
  have passed : Discards (treated l s) (evaluateLine l s) := .of_link (hushed_evaluateLine l s).link
  have written : Discards s (s.setLine l (s.recordAt l)) := .of_link rfl
  have treats : Discards (s.setLine l (s.recordAt l)) (treated l s) := by
    cases l with
    | engine =>
      have oxygen : Discards (s.setLine .engine (s.recordAt .engine)) (oxygenTreated s) := discards_treatLineKind _ _ _ _ _
      rw [treated_engine]
      exact oxygen.trans (discards_treatLineKind _ _ _ _ _)
    | flare => exact discards_treatLineKind _ _ _ _ _
  exact (written.trans treats).trans passed

theorem evaluateLine_routine (l : Line) {s : State} (h : s.link.transmitter ≠ none) :
    (evaluateLine l s).link.routine = s.link.routine := by
  rcases (calm_evaluateLine (d := False) (l := False) l s).routine with hf | hr
  · exact hf.elim
  · exact hr h

theorem sameBlend_evaluateEngine {s : State} (h : RosterLaw s) : SameBlend .flare s (evaluateLine .engine s) := by
  have inner := inner_evaluateLine (d := False) .engine s
  have calm := calm_evaluateLine (d := False) (l := False) .engine s
  have lost : (evaluateLine .engine s).balancer.lineLost = s.balancer.lineLost := calm.lineLost.elim False.elim id
  have fault : (evaluateLine .engine s).balancer.flareFault = s.balancer.flareFault := calm.flareFault.elim False.elim id
  exact ⟨gases_congr inner.key inner.timeBase inner.keeps.site (SameKeys.roster inner.key h (inner.keeps.rosterLaw h) .flare),
    inner.timeBase, inner.keeps.limits, lost, fault⟩

/-- Both lines evaluated. -/
def bothEvaluated (s : State) : State := evaluateLine .flare (evaluateLine .engine s)

theorem inner_bothEvaluated (s : State) : Inner False s (bothEvaluated s) :=
  (inner_evaluateLine .engine s).trans (inner_evaluateLine .flare _)

theorem bothEvaluated_lines (s : State) :
    (bothEvaluated s).lines = ⟨s.recordAt .engine, (evaluateLine .engine s).recordAt .flare⟩ := by
  unfold bothEvaluated
  rw [evaluateLine_lines, evaluateLine_lines]
  rfl

theorem bothEvaluated_line {s : State} (h : RosterLaw s) (l : Line) : (bothEvaluated s).lines.get l = s.recordAt l := by
  rw [bothEvaluated_lines, (sameBlend_evaluateEngine h).recordAt]
  cases l <;> rfl

theorem bothEvaluated_oxygen {s : State} (h : CondLaw s.conds) :
    LineKindTreated s (bothEvaluated s) .lineOxygenHigh 96 ((s.recordAt .engine).status = .oxygen) (s.recordAt .engine).o2
      s.limits.engineO2Max s.site.verifyLineOxygen s.balancer.counts.lineOxygen (bothEvaluated s).balancer.counts.lineOxygen := by
  have flare : Beside .lineOxygenHigh 96 (evaluateLine .engine s) (bothEvaluated s) :=
    beside_evaluateFlare lineOxygen_ofLine (by decide) _
  have later := (evaluateEngine_oxygen h).later flare (evaluateLine_law .engine h)
  rw [← flare.count] at later
  exact later

theorem bothEvaluated_low {s : State} (h : CondLaw s.conds) :
    LineKindTreated s (bothEvaluated s) .engineBlendLow 96 ((s.recordAt .engine).status = .low) (s.recordAt .engine).ch4
      s.limits.engineMin s.site.verifyEngineLow s.balancer.counts.engineLow (bothEvaluated s).balancer.counts.engineLow := by
  have flare : Beside .engineBlendLow 96 (evaluateLine .engine s) (bothEvaluated s) :=
    beside_evaluateFlare engineLow_ofLine (by decide) _
  have later := (evaluateEngine_low h).later flare (evaluateLine_law .engine h)
  rw [← flare.count] at later
  exact later

theorem bothEvaluated_flareLow {s : State} (hr : RosterLaw s) (h : CondLaw s.conds) :
    LineKindTreated s (bothEvaluated s) .flareBlendLow 97 ((s.recordAt .flare).status = .low) (s.recordAt .flare).ch4
      s.limits.flareMin s.site.verifyFlareLow s.balancer.counts.flareLow (bothEvaluated s).balancer.counts.flareLow := by
  have engine : Beside .flareBlendLow 97 s (evaluateLine .engine s) := beside_evaluateEngine s
  have low := evaluateFlare_low (evaluateLine_law .engine h)
  have blend := sameBlend_evaluateEngine hr
  have hcount : (evaluateLine .engine s).balancer.counts.flareLow = s.balancer.counts.flareLow := engine.count
  rw [blend.recordAt, blend.limits, engine.site, hcount] at low
  exact low.earlier engine h

/-- The treatment of a kind tells of conditions and of the time at the end alone. -/
theorem LineKindTreated.congr {s' t' : State} (h : LineKindTreated s t k src hit measured limit verify before after)
    (hs : s'.conds = s.conds) (ht : t'.conds = t.conds) (htime : t'.timeBase = t.timeBase) :
    LineKindTreated s' t' k src hit measured limit verify before after := by
  obtain ⟨hmissed, hrecurs, hcounts, hraised⟩ := h
  unfold State.hasRec at hrecurs hcounts hraised
  rw [← hs, ← ht] at hmissed hrecurs hcounts hraised
  rw [← htime] at hraised
  exact ⟨hmissed, hrecurs, hcounts, hraised⟩

/-- The state at the expiry of the report timer, before the evaluations. -/
def reportDue (s : State) : State :=
  { s with
    timeBase := max s.timeBase (s.balancer.reportTimer + s.site.reportInterval * 1000)
    balancer := { s.balancer with reportTimer := s.balancer.reportTimer + s.site.reportInterval * 1000 } }

theorem reportExpiry_eq (s : State) : reportExpiry s = offerLine (bothEvaluated (reportDue s)) := by
  unfold reportExpiry
  dsimp only
  rw [State.advanceTo_eq]
  rfl

theorem offerLine_link (s : State) : (offerLine s).link = s.link.offerRoutine (.line s.lineSummary) := rfl

theorem bothEvaluated_link {s : State} (h : s.link.transmitter ≠ none) :
    (bothEvaluated s).link.transmitter ≠ none ∧ (bothEvaluated s).link.routine = s.link.routine ∧
      (bothEvaluated s).link.reserved = s.link.reserved ∧
      (bothEvaluated s).link.counters.routineDiscards = s.link.counters.routineDiscards := by
  have discards := (discards_evaluateLine .engine s).trans (discards_evaluateLine .flare _)
  have engine : (evaluateLine .engine s).link.transmitter ≠ none := fun e => h ((discards_evaluateLine .engine s h).1.symm.trans e)
  exact ⟨fun e => h ((discards h).1.symm.trans e), (evaluateLine_routine .flare engine).trans (evaluateLine_routine .engine h),
    (inner_bothEvaluated s).keeps.reserved, (discards h).2⟩

/-- A LINE summary offered by a link that is sending joins the routine queue, or is discarded at a full one (R204). -/
theorem offerLine_sending {s : State} (h : s.link.transmitter ≠ none) :
    (64 ≤ s.link.routineFill → (offerLine s).link.routine = s.link.routine ∧
      (offerLine s).link.counters.routineDiscards = satInc 65535 s.link.counters.routineDiscards) ∧
    (s.link.routineFill < 64 → (offerLine s).link.routine = s.link.routine ++ [.line s.lineSummary]) := by
  rw [offerLine_link, Link.offerRoutine_sending h]
  refine ⟨fun hfull => ?_, fun hroom => ?_⟩
  · have hfull' : ¬ s.link.routineFill < Config.routineCap := Nat.not_lt_of_le hfull
    rw [if_neg hfull']
    exact ⟨rfl, rfl⟩
  · have hroom' : s.link.routineFill < Config.routineCap := hroom
    rw [if_pos hroom']

/-- Settles O41: the timers one by one; the report timer by `bothEvaluated`. -/
theorem presenceMoveDemandAndReportTimersExpire : Obligations.PresenceMoveDemandAndReportTimersExpire := by
  unfold Obligations.PresenceMoveDemandAndReportTimersExpire
  refine ⟨fun s g hheld hd => ⟨fun start h => ?_, fun hq h => ?_⟩, fun s i hheld => ⟨fun h => ?_, fun w m hw hm => ?_⟩,
    fun s d arrival hheld hd ha => ?_, fun s hheld => ?_⟩
  · exact (Event.exec_free (.presenceTimerExpiry g) hheld).trans (congrArg _ (presenceExpiry_some hd h))
  · exact (Event.exec_free (.presence g) hheld).trans (congrArg _ (sendPresence_due hd hq h))
  · exact (Event.exec_free (.moveTimeout i) hheld).trans (congrArg _ (moveExpiry_none h))
  · exact moveTimeout_some hheld hw hm
  · exact (Event.exec_free .demandTimeout hheld).trans (congrArg _ (demandExpiry_some hd ha))
  · have hexec : exec .reportTimer s = .next (reportExpiry s) := Event.exec_free .reportTimer hheld
    have hkeeps := (keeps_reportExpiry s).undisturbed
    rw [reportExpiry_eq] at hexec hkeeps
    have inner := inner_bothEvaluated (reportDue s)
    have calm := (calm_evaluateLine (d := False) (l := False) .engine (reportDue s)).trans
      (calm_evaluateLine .flare (evaluateLine .engine (reportDue s)))
    have htime : (evaluateLine .engine (reportDue s)).timeBase = (reportDue s).timeBase :=
      (inner_evaluateLine (d := False) .engine (reportDue s)).timeBase
    have hengine : (bothEvaluated (reportDue s)).lines.engine.evaluated = some (reportDue s).timeBase :=
      congrArg (fun p => p.engine.evaluated) (bothEvaluated_lines (reportDue s))
    have hflare : (bothEvaluated (reportDue s)).lines.flare.evaluated = some (reportDue s).timeBase :=
      (congrArg (fun p => p.flare.evaluated) (bothEvaluated_lines (reportDue s))).trans (congrArg some htime)
    have hline := fun (h : RosterLaw s) => bothEvaluated_line (s := reportDue s) h
    have hoxygen := fun (h : CondLaw s.conds) => bothEvaluated_oxygen (s := reportDue s) h
    have hlow := fun (h : CondLaw s.conds) => bothEvaluated_low (s := reportDue s) h
    have hflareLow := fun (hr : RosterLaw s) (h : CondLaw s.conds) => bothEvaluated_flareLow (s := reportDue s) hr h
    have hlink := fun (h : s.link.transmitter ≠ none) => bothEvaluated_link (s := reportDue s) h
    have hlost := calm.lineLost.elim False.elim id
    have hfault := calm.flareFault.elim False.elim id
    change _ = (reportDue s).balancer.lineLost at hlost
    change _ = (reportDue s).balancer.flareFault at hfault
    have hduetime : (reportDue s).timeBase = max s.timeBase (s.balancer.reportTimer + s.site.reportInterval * 1000) := rfl
    change (bothEvaluated (reportDue s)).balancer.lineLost = _ at hlost
    change (bothEvaluated (reportDue s)).balancer.flareFault = _ at hfault
    clear calm htime
    generalize bothEvaluated (reportDue s) = u at *
    have time : (offerLine u).timeBase = (reportDue s).timeBase := inner.timeBase
    refine ⟨offerLine u, hexec, hkeeps, inner.unit, inner.trips, time, inner.reportTimer, ?_, ?_, inner.key, fun hroster hcond => ?_,
      fun hsending => ?_⟩
    · exact hengine.trans (congrArg some time.symm)
    · exact hflare.trans (congrArg some time.symm)
    · rw [time]
      exact ⟨hline hroster, (hoxygen hcond).congr rfl rfl rfl, (hlow hcond).congr rfl rfl rfl,
        (hflareLow hroster hcond).congr rfl rfl rfl⟩
    · obtain ⟨hsends, hroutine, hreserved, hdiscards⟩ := hlink hsending
      obtain ⟨hfull, hroom⟩ := offerLine_sending hsends
      have hfill : u.link.routineFill = s.link.routineFill := by
        unfold Link.routineFill
        rw [hroutine, hreserved]
        rfl
      rw [hfill] at hfull hroom
      refine ⟨fun h => ?_, fun h => ?_⟩
      · obtain ⟨hr, hd⟩ := hfull h
        exact ⟨hr.trans hroutine, hd.trans (congrArg _ hdiscards)⟩
      · have hsummary : u.lineSummary =
            { time := (offerLine u).timeBase
              role := s.unit.role
              mode := s.link.mode
              lines := ⟨u.lineBlock .engine, u.lineBlock .flare⟩
              counts := (offerLine u).balancer.counts
              demand := (offerLine u).demandNow
              demandAge := s.balancer.demandArrival.map ((offerLine u).timeBase - ·)
              lineLost := s.balancer.lineLost
              flareFault := s.balancer.flareFault
              accepted := .ofFn fun k => (s.trips.get k).accepted
              candidates := .ofFn fun k => (s.trips.get k).candidate.isSome
              combination := s.combination
              balancing := (offerLine u).balancer.move
              lastEnd := (offerLine u).balancer.lastEnd.map fun e => (e.1, (offerLine u).timeBase - e.2) } := by
          have hunit : u.unit.role = s.unit.role := congrArg RoleUnit.role inner.unit
          have hmode : u.link.mode = s.link.mode := inner.keeps.mode
          have hcombination : u.combination = s.combination := by
            unfold State.combination
            rw [inner.keeps.limits, inner.trips]
            rfl
          have hage : u.demandAge = s.balancer.demandArrival.map (u.timeBase - ·) := by
            unfold State.demandAge
            rw [inner.demandArrival]
            rfl
          have htrips : u.trips = s.trips := inner.trips
          unfold State.lineSummary
          rw [hunit, hmode, hcombination, hage, hlost, hfault, htrips]
          rfl
        have e := (hroom h).trans (congrArg (· ++ [Uplink.line u.lineSummary]) hroutine)
        rw [hsummary] at e
        exact e

end Sys2Proof.Machine
end

section
/-! PROOF. Line-lost status and its record follow the combination (O43), across every event of the trips and the limits. -/

-- One theorem at a time: the one-text build of the package runs out of threads otherwise.
set_option Elab.async false

namespace Sys2Proof.Machine

/-! ## A record that stands -/

variable {k j : CondKind} {src n : Nat}

/-- Where at most one pending record is of the pair, that stays so and the pair keeps its record. -/
def Stands (k : CondKind) (src : Nat) (s t : State) : Prop :=
  s.conds.Lone k src → t.conds.Lone k src ∧ t.conds.recOf k src = s.conds.recOf k src

theorem Stands.trans {s t u : State} (a : Stands k src s t) (b : Stands k src t u) : Stands k src s u := fun h =>
  have ⟨ht, hrec⟩ := a h
  have ⟨hu, hrec'⟩ := b ht
  ⟨hu, hrec'.trans hrec⟩

theorem Stands.of_conds {s t : State} (h : t.conds = s.conds) : Stands k src s t := fun hs => by
  rw [h]
  exact ⟨hs, rfl⟩

theorem Conditions.Lone.mono {c e : Conditions} (h : c.Lone k src)
    (hsub : ∀ r ∈ e.waiting, r.isPair k src = true → r ∈ c.waiting) : e.Lone k src := fun x hx y hy hxp hyp =>
  h x (hsub x hx hxp) y (hsub y hy hyp) hxp hyp

theorem stands_evalTaking (s : State) : Stands k src s (evalTaking s) := fun h =>
  ⟨h.mono fun _ hr _ => evalTaking_waiting hr, recOf_evalTaking h⟩

theorem stands_bumpRec (s : State) (hne : (k, src) ≠ (j, n)) : Stands k src s (bumpRec j n s) := fun h =>
  ⟨h.mono (beside_bumpRec s hne).waiting, congrArg (Option.map CondRec.untaken) (find_bumpRec_other s hne)⟩

theorem stands_raiseCond (s : State) (hne : (k, src) ≠ (j, n)) (m e : Option Int) : Stands k src s (raiseCond j n m e s) := fun h =>
  ⟨h.mono (beside_raiseCond s hne m e).waiting, recOf_raiseCond_other hne h m e⟩

theorem stands_withdraw (s : State) (hne : (k, src) ≠ (j, n)) : Stands k src s (withdraw j n s) := fun h => by
  refine ⟨h.mono (beside_withdraw s hne).waiting, ?_⟩
  rw [withdraw_eq]
  split
  · have hlone : (s.conds.without j n).Lone k src := h.mono fun r hr _ => (List.mem_filter.mp hr).1
    rw [recOf_evalTaking (s := s.modConds (·.without j n)) hlone]
    exact congrArg (Option.map CondRec.untaken) (find_without s.conds hne)
  · rfl

theorem stands_treatLineKind (hne : (k, src) ≠ (j, j.fixedSource)) (b : Bool) (m : Option Nat) (limit : Nat) (s : State) :
    Stands k src s (treatLineKind j b m limit s) := by
  have counted (x : Nat) : Stands k src s (setLineCount j x s) := .of_conds rfl
  unfold treatLineKind
  dsimp only
  split
  · split
    · exact (counted 0).trans (stands_bumpRec _ hne)
    · split
      · exact (counted 0).trans (stands_raiseCond _ hne _ _)
      · exact counted _
  · exact (counted 0).trans (stands_withdraw _ hne)

theorem stands_treatLine (hk : k ≠ .lineOxygenHigh ∧ k ≠ .engineBlendLow ∧ k ≠ .flareBlendLow) (l : Line) (r : LineRecord)
    (s : State) : Stands k src s (treatLine l r s) := by
  obtain ⟨hoxygen, hengine, hflare⟩ := hk
  have other {j : CondKind} (hj : k ≠ j) : (k, src) ≠ (j, j.fixedSource) := fun e => hj (congrArg Prod.fst e)
  cases l with
  | engine => exact (stands_treatLineKind (other hoxygen) _ _ _ _).trans (stands_treatLineKind (other hengine) _ _ _ _)
  | flare => exact stands_treatLineKind (other hflare) _ _ _ _

theorem evalRules_stands (hk : k ≠ .lineOxygenHigh ∧ k ≠ .engineBlendLow ∧ k ≠ .flareBlendLow) : EvalRules (Stands k src) where
  refl := fun _ => .of_conds rfl
  trans := .trans
  seg := fun _ _ _ _ => .of_conds rfl
  pending := fun _ _ s => .of_conds (hushed_modWell s _ _).conds
  ending := fun r s => .of_conds (hushed_endBalancing r s).conds
  line := fun _ _ _ => .of_conds rfl
  treat := stands_treatLine hk
  balance := fun _ _ => .of_conds rfl
  asked := fun _ _ => .of_conds rfl

/-! ## What leaves line-lost status alone -/

/-- From `s` to `t` line-lost status stays, and ENGINE LINE LOST keeps its record. -/
structure LostKept (s t : State) : Prop where
  lineLost : t.balancer.lineLost = s.balancer.lineLost
  keepsRec : KeepsRec .engineLineLost 96 s t
  stands : Stands .engineLineLost 96 s t

theorem LostKept.trans {s t u : State} (a : LostKept s t) (b : LostKept t u) : LostKept s u :=
  ⟨b.lineLost.trans a.lineLost, fun h => b.keepsRec (a.keepsRec h), a.stands.trans b.stands⟩

/-- Flare fault status stays with it. -/
structure LostSame (s t : State) : Prop extends LostKept s t where
  flareFault : t.balancer.flareFault = s.balancer.flareFault

theorem LostSame.trans {s t u : State} (a : LostSame s t) (b : LostSame t u) : LostSame s u :=
  ⟨a.toLostKept.trans b.toLostKept, b.flareFault.trans a.flareFault⟩

theorem LostSame.of_calm {d : Prop} {s t : State} (c : Calm d False s t) (h : KeepsRec .engineLineLost 96 s t)
    (h' : Stands .engineLineLost 96 s t) : LostSame s t :=
  ⟨⟨c.lineLost.elim False.elim id, h, h'⟩, c.flareFault.elim False.elim id⟩

theorem LostSame.of_hushed {d : Prop} {s t : State} (h : Hushed s t) (c : Calm d False s t) : LostSame s t :=
  .of_calm c (h.keepsRec _ _) (.of_conds h.conds)

theorem LostSame.refl (s : State) : LostSame s s := ⟨⟨rfl, id, .of_conds rfl⟩, rfl⟩

theorem lineLost_not_line : CondKind.engineLineLost ≠ .lineOxygenHigh ∧ CondKind.engineLineLost ≠ .engineBlendLow ∧
    CondKind.engineLineLost ≠ .flareBlendLow := by decide

theorem lostSame_evaluateLine (l : Line) (s : State) : LostSame s (evaluateLine l s) :=
  .of_calm (d := False) (calm_evaluateLine l s) ((evalRules_keepsRec lineLost_not_line).evaluateLine l s)
    ((evalRules_stands lineLost_not_line).evaluateLine l s)

theorem lostSame_runEvals (s : State) : LostSame s (runEvals s) :=
  .of_calm (d := False) (calm_runEvals s) ((evalRules_keepsRec lineLost_not_line).runEvals s)
    ((evalRules_stands lineLost_not_line).runEvals s)

theorem lostSame_evalTaking (s : State) : LostSame s (evalTaking s) :=
  .of_calm (d := False) (calm_evalTaking s) hasRec_evalTaking (stands_evalTaking s)

theorem lostSame_examineSite (b : Bool) (s : State) : LostSame s (examineSite b s) := by
  refine .of_calm (d := False) (calm_examineSite b s) (fun h => ?_) ?_
  · unfold examineSite
    split
    · split
      · split
        · rw [hasRec_bumpRec]
          exact h
        · exact h
      · exact hasRec_raiseCond_mono h _ _ _ _
    · exact h
  · unfold examineSite
    split
    · split
      · split
        · exact stands_bumpRec s (by decide)
        · exact .of_conds rfl
      · exact stands_raiseCond s (by decide) _ _
    · exact .of_conds rfl

theorem lostSame_outletRuleAll (b : Bool) (s : State) : LostSame s (outletRuleAll b s) :=
  (LostSame.of_hushed (d := False) (outletRules_hushed.applyOutletRules s.members s) (calm_applyOutletRules _ s)).trans
    (lostSame_examineSite b _)

theorem lostSame_diversion (s : State) : LostSame s (diversion s) :=
  .of_hushed (d := False) (outletRules_hushed.diversion s) (calm_diversion s)

theorem lostSame_freeDiverted (slots : List Slot) (s : State) : LostSame s (freeDiverted slots s) :=
  (LostSame.of_hushed (d := False) (outletRules_hushed.applyOutletRules slots s) (calm_applyOutletRules slots s)).trans
    (lostSame_examineSite false _)

theorem lostSame_examineAll (s : State) : LostSame s (examineAll s) :=
  .of_hushed (d := False) (outletRules_hushed.examineAll s) (calm_examineAll s)

theorem lostSame_offerLine (s : State) : LostSame s (offerLine s) := ⟨⟨rfl, id, .of_conds rfl⟩, rfl⟩

theorem hushed_leaveAll (entries : List Entry) (s : State) : Hushed s (leaveAll entries s) := by
  induction entries generalizing s with
  | nil => exact .refl s
  | cons e rest ih => exact (outletRules_hushed.leaveEffects e s).trans (ih _)

theorem hushed_turnQueue (s : State) (g : Seg) : Hushed s (turnQueue s g) :=
  Hushed.trans (t := s.modSeg g _) ⟨rfl, rfl, rfl, rfl⟩ (hushed_leaveAll _ _)

theorem hushed_turnPending (slots : List Slot) (s : State) : Hushed s (turnPending slots s) := by
  induction slots generalizing s with
  | nil => exact .refl s
  | cons i rest ih =>
    unfold turnPending
    split
    · exact ih s
    · split
      · exact ih s
      · split
        · exact (hushed_modWell s i _).trans (ih _)
        · exact ih s

theorem hushed_foldSegs {f : State → Seg → State} (h : ∀ s g, Hushed s (f s g)) (segs : List Seg) (s : State) :
    Hushed s (segs.foldl f s) := by
  induction segs generalizing s with
  | nil => exact .refl s
  | cons g rest ih => exact (h s g).trans (ih _)

theorem lostSame_lostTurned (s : State) : LostSame s (lostTurned s) :=
  .of_hushed (d := False) ((hushed_foldSegs hushed_turnQueue Seg.all s).trans (hushed_turnPending allSlots _))
    ((calm_foldSegs _ calm_turnQueue Seg.all s).trans (calm_turnPending allSlots _))

theorem lostSame_lostDiverted (s : State) : LostSame s (lostDiverted s) := by
  unfold lostDiverted
  split
  · exact lostSame_diversion s
  · exact .refl s

/-! ## The end of line-lost status, its onset and flare fault -/

/-- From `s` to `t` the ENGINE line's record stays, or a new one is written at the time of `t`. -/
def EngineRecord (s t : State) : Prop :=
  t.lines.engine = s.lines.engine ∨ t.lines.engine.evaluated = some t.timeBase

theorem EngineRecord.of_lines {s t : State} (h : t.lines = s.lines) : EngineRecord s t := .inl (by rw [h])

theorem EngineRecord.evaluated {s t : State} (h : EngineRecord s t) (htime : t.timeBase = s.timeBase)
    (hs : s.lines.engine.evaluated = some s.timeBase) : t.lines.engine.evaluated = some t.timeBase := by
  rcases h with h | h
  · rw [h, hs, htime]
  · exact h

theorem EngineRecord.trans {s t u : State} (a : EngineRecord s t) (b : EngineRecord t u) (htime : u.timeBase = t.timeBase) :
    EngineRecord s u := by
  rcases b with hb | hb
  · rcases a with ha | ha
    · exact .inl (hb.trans ha)
    · exact .inr (by rw [hb, ha, htime])
  · exact .inr hb

theorem evaluateLine_timeBase (l : Line) (s : State) : (evaluateLine l s).timeBase = s.timeBase :=
  (inner_evaluateLine (d := False) l s).timeBase

theorem evaluateEngine_evaluated (s : State) : (evaluateLine .engine s).lines.engine.evaluated = some (evaluateLine .engine s).timeBase := by
  rw [evaluateLine_lines, evaluateLine_timeBase]
  rfl

theorem engineRecord_evaluateLine (l : Line) (s : State) : EngineRecord s (evaluateLine l s) := by
  cases l with
  | engine => exact .inr (evaluateEngine_evaluated s)
  | flare =>
    refine .inl ?_
    rw [evaluateLine_lines]
    rfl

theorem engineRecord_runEvals (s : State) : EngineRecord s (runEvals s) := by
  have engine : EngineRecord s (if s.evalAsked.engine then evaluateLine .engine { s with evalAsked := .all false }
      else { s with evalAsked := .all false }) := by
    split
    · exact engineRecord_evaluateLine .engine { s with evalAsked := .all false }
    · exact .inl rfl
  unfold runEvals
  dsimp only
  split
  · exact engine.trans (engineRecord_evaluateLine .flare _) (evaluateLine_timeBase _ _)
  · exact engine

theorem engineRecord_outletRuleAll (b : Bool) (s : State) : EngineRecord s (outletRuleAll b s) :=
  .of_lines ((reports_examineSite b _).lines.trans (outletRules_hushed.applyOutletRules s.members s).lines)

/-- Line-lost status cleared, before what follows it (R98). -/
def lostCleared (s : State) : State := s.modBalancer fun b => { b with lineLost := false }

theorem lineLostEnd_eq (s : State) : lineLostEnd s = offerLine (evaluateLine .engine (outletRuleAll true (lostCleared s))) := rfl

/-- What follows the clearing of the status leaves it and the record. -/
theorem lineLostEnd_after (s : State) : LostSame (lostCleared s) (lineLostEnd s) := by
  rw [lineLostEnd_eq]
  exact ((lostSame_outletRuleAll true _).trans (lostSame_evaluateLine .engine _)).trans (lostSame_offerLine _)

theorem lineLostEnd_lineLost (s : State) : (lineLostEnd s).balancer.lineLost = false := (lineLostEnd_after s).lineLost

theorem lineLostEnd_flareFault (s : State) : (lineLostEnd s).balancer.flareFault = s.balancer.flareFault := (lineLostEnd_after s).flareFault

theorem lineLostEnd_evaluated (s : State) : (lineLostEnd s).lines.engine.evaluated = some (lineLostEnd s).timeBase := by
  rw [lineLostEnd_eq]
  exact evaluateEngine_evaluated _

/-- What follows the raising of ENGINE LINE LOST leaves it and the status. -/
theorem lineLostOnset_after (s : State) : LostSame (lostRaised s) (lineLostOnset s) := by
  rw [lineLostOnset_eq]
  exact (((((lostSame_lostDiverted _).trans (lostSame_lostTurned _)).trans (lostSame_examineAll _)).trans
    (lostSame_outletRuleAll true _)).trans (lostSame_evaluateLine .engine _)).trans (lostSame_offerLine _)

theorem lostRaised_status (s : State) :
    (lostRaised s).balancer.lineLost = true ∧ (lostRaised s).balancer.flareFault = s.balancer.flareFault := by
  have c := calm_raiseCond (d := False) (l := False) .engineLineLost Config.engineSource (some (maskValue s.limits.mask)) none
    (s.modBalancer fun b => { b with lineLost := true })
  exact ⟨c.lineLost.elim False.elim id, c.flareFault.elim False.elim id⟩

theorem lineLostOnset_status (s : State) :
    (lineLostOnset s).balancer.lineLost = true ∧ (lineLostOnset s).balancer.flareFault = s.balancer.flareFault :=
  ⟨(lineLostOnset_after s).lineLost.trans (lostRaised_status s).1, (lineLostOnset_after s).flareFault.trans (lostRaised_status s).2⟩

/-- FLARE FAULT accepted anew, before what follows it (R99). -/
def faultSet (s : State) : State := s.modBalancer fun b => { b with flareFault := s.trips.flareFault.accepted }

theorem flareFaultChanged_same {s : State} (h : s.trips.flareFault.accepted = s.balancer.flareFault) : flareFaultChanged s = s := by
  unfold flareFaultChanged
  dsimp only
  rw [if_pos h]

/-- The diversion behind the end of a flare fault, with line-lost status set (R99). -/
def faultDiverted (now : Bool) (s : State) : State :=
  if !now && s.balancer.lineLost && s.isDuty then freeDiverted (s.rosters.engine.filter s.diverts) (diversion s) else s

theorem flareFaultChanged_eq {s : State} (h : s.trips.flareFault.accepted ≠ s.balancer.flareFault) :
    flareFaultChanged s =
      offerLine (evaluateLine .flare (faultDiverted s.trips.flareFault.accepted (outletRuleAll true (faultSet s)))) := by
  unfold flareFaultChanged
  dsimp only
  rw [if_neg h]
  rfl

theorem lostSame_faultDiverted (b : Bool) (s : State) : LostSame s (faultDiverted b s) := by
  unfold faultDiverted
  split
  · exact (lostSame_diversion s).trans (lostSame_freeDiverted _ _)
  · exact .refl s

theorem engineRecord_faultDiverted (b : Bool) (s : State) : EngineRecord s (faultDiverted b s) := by
  unfold faultDiverted
  split
  · exact .of_lines ((reports_examineSite false _).lines.trans
      ((outletRules_hushed.applyOutletRules _ _).lines.trans (outletRules_hushed.diversion s).lines))
  · exact .inl rfl

/-- What follows the change of flare fault status leaves both, and ENGINE's record as it was or evaluated now. -/
theorem flareFaultChanged_after (s : State) : LostSame (faultSet s) (flareFaultChanged s) := by
  by_cases h : s.trips.flareFault.accepted = s.balancer.flareFault
  · rw [flareFaultChanged_same h]
    exact ⟨⟨rfl, id, .of_conds rfl⟩, h.symm⟩
  · rw [flareFaultChanged_eq h]
    exact (((lostSame_outletRuleAll true _).trans (lostSame_faultDiverted _ _)).trans (lostSame_evaluateLine .flare _)).trans
      (lostSame_offerLine _)

theorem flareFaultChanged_engine (s : State) : (flareFaultChanged s).lines.engine = s.lines.engine := by
  by_cases h : s.trips.flareFault.accepted = s.balancer.flareFault
  · rw [flareFaultChanged_same h]
  · rw [flareFaultChanged_eq h]
    have ruled : (outletRuleAll true (faultSet s)).lines = s.lines :=
      (reports_examineSite true _).lines.trans (outletRules_hushed.applyOutletRules (faultSet s).members (faultSet s)).lines
    have diverted : (faultDiverted s.trips.flareFault.accepted (outletRuleAll true (faultSet s))).lines =
        (outletRuleAll true (faultSet s)).lines := by
      unfold faultDiverted
      split
      · exact (reports_examineSite false _).lines.trans
          ((outletRules_hushed.applyOutletRules _ _).lines.trans (outletRules_hushed.diversion _).lines)
      · rfl
    change (evaluateLine .flare _).lines.engine = _
    rw [evaluateLine_lines, diverted, ruled]
    rfl

/-! ## The combination -/

theorem combinationChanged_stays {before : Bool} {s : State} (h : (before = true ∧ s.combination = true) ∨
    (s.combination = false ∧ (s.hasRec .engineLineLost 96 = true ∨ s.balancer.lineLost = false))) :
    combinationChanged before s = s := by
  unfold combinationChanged
  rcases h with ⟨hb, hc⟩ | ⟨hc, hr⟩
  · rw [hc, hb]
    rfl
  · rw [hc]
    rcases hr with hr | hl
    · have hr' : s.hasRec .engineLineLost Config.engineSource = true := hr
      rw [hr']
      simp
    · rw [hl]
      simp

theorem combinationChanged_onset {s : State} (hc : s.combination = true) (hl : s.balancer.lineLost = false) :
    combinationChanged false s = lineLostOnset s := by
  unfold combinationChanged
  rw [hc, hl]
  rfl

theorem combinationChanged_again {s : State} (hc : s.combination = true) (hl : s.balancer.lineLost = true) :
    combinationChanged false s = bumpRec .engineLineLost 96 s := by
  unfold combinationChanged
  rw [hc, hl]
  rfl

theorem combinationChanged_ends {before : Bool} {s : State} (hc : s.combination = false) (hl : s.balancer.lineLost = true)
    (hr : s.hasRec .engineLineLost 96 = false) : combinationChanged before s = lineLostEnd s := by
  have hr' : s.hasRec .engineLineLost Config.engineSource = false := hr
  unfold combinationChanged
  rw [hc, hl, hr']
  rfl

/-- A record that is kept is found again, the same one where the pair has no second pending record. -/
theorem LostKept.find {s t : State} (h : LostKept s t) {r : CondRec} (hr : s.conds.find .engineLineLost 96 = some r) :
    ∃ x, t.conds.find .engineLineLost 96 = some x ∧ (s.conds.Lone .engineLineLost 96 → x.untaken = r.untaken) := by
  have hrec : s.hasRec .engineLineLost 96 = true := by
    unfold State.hasRec
    rw [hr]
    rfl
  obtain ⟨x, hx⟩ := Option.isSome_iff_exists.mp (h.keepsRec hrec)
  refine ⟨x, hx, fun hl => ?_⟩
  have e := (h.stands hl).2
  unfold Conditions.recOf at e
  rw [hr, hx] at e
  exact Option.some.inj e

theorem lone_raiseCond_new {s : State} (h : s.hasRec k src = false) (m e : Option Int) :
    (raiseCond k src m e s).conds.Lone k src := by
  rw [raiseCond_new h]
  exact Conditions.Lone.mono (lone_placing_new (hasRec_eq_false.mp h)) fun r hr _ => evalTaking_waiting hr

/-- ENGINE LINE LOST as the onset raises it. -/
theorem lostRaised_record (s : State) :
    ∃ r, (lostRaised s).conds.find .engineLineLost 96 = some r ∧
      (s.hasRec .engineLineLost 96 = false → (lostRaised s).conds.Lone .engineLineLost 96 ∧ r.untaken =
        newRec (s.modBalancer fun b => { b with lineLost := true }) .engineLineLost 96 (some (maskValue s.limits.mask)) none) := by
  have raised : (lostRaised s).hasRec .engineLineLost 96 = true := hasRec_raiseCond _ _ _ _ _
  obtain ⟨r, hr⟩ := Option.isSome_iff_exists.mp raised
  refine ⟨r, hr, fun hrec => ⟨lone_raiseCond_new (s := s.modBalancer fun b => { b with lineLost := true }) hrec _ _, ?_⟩⟩
  have hnew : (lostRaised s).conds.recOf .engineLineLost 96 = _ :=
    recOf_raiseCond_new (s := s.modBalancer fun b => { b with lineLost := true }) hrec (some (maskValue s.limits.mask)) none
  unfold Conditions.recOf at hnew
  rw [hr] at hnew
  exact Option.some.inj hnew

theorem combination_congr {s t : State} (h : t.limits = s.limits) (h' : t.trips = s.trips) : t.combination = s.combination := by
  unfold State.combination
  rw [h, h']

theorem maskValue_cast (m : PerTrip Bool) : ((maskValue m : Nat) : Int) =
    (if m.trip0 then 1 else 0) + (if m.trip1 then 2 else 0) + (if m.trip2 then 4 else 0) + (if m.trip3 then 8 else 0) := by
  unfold maskValue
  push_cast
  rfl

/-- Line-lost status follows the combination, from the state before an event to that behind `tripsChanged`; `b` is the state with the
event's own values written. -/
theorem tripsChanged_follows {s b : State} (hconds : b.conds = s.conds) (hlost : b.balancer.lineLost = s.balancer.lineLost) :
    LineLostFollows s (tripsChanged s.combination b) := by
  have all := inner_tripsChanged (d := False) s.combination b
  have hcombination : (tripsChanged s.combination b).combination = b.combination :=
    combination_congr all.keeps.limits all.trips
  have hrec : b.hasRec .engineLineLost 96 = s.hasRec .engineLineLost 96 := by
    unfold State.hasRec
    rw [hconds]
  have after := flareFaultChanged_after (combinationChanged s.combination b)
  have engine := flareFaultChanged_engine (combinationChanged s.combination b)
  have first := inner_combinationChanged (d := False) s.combination b
  have hfault : (tripsChanged s.combination b).balancer.flareFault = (tripsChanged s.combination b).trips.flareFault.accepted := by
    rw [all.trips, ← first.trips]
    exact after.flareFault
  have hsame : (tripsChanged s.combination b).balancer.lineLost = (combinationChanged s.combination b).balancer.lineLost := after.lineLost
  refine ⟨fun hs hu hl => ?_, fun hs hu hl => ?_, fun hu hl hr => ?_, fun h => ?_, hfault⟩
  · have e := combinationChanged_onset (hcombination.symm.trans hu) (hlost.trans hl)
    rw [← hs] at e
    have begun : LostKept (lostRaised b) (combinationChanged s.combination b) := e ▸ (lineLostOnset_after b).toLostKept
    have fault : LostKept (combinationChanged s.combination b) (faultSet (combinationChanged s.combination b)) :=
      ⟨rfl, id, .of_conds rfl⟩
    have onset : LostKept (lostRaised b) (tripsChanged s.combination b) := (begun.trans fault).trans after.toLostKept
    obtain ⟨r, hr, hnew⟩ := lostRaised_record b
    obtain ⟨x, hx, huntaken⟩ := onset.find hr
    refine ⟨onset.lineLost.trans (lostRaised_status b).1, x, hx, fun hno => ?_⟩
    obtain ⟨hlone, hr'⟩ := hnew (hrec.trans hno)
    have hx' := (huntaken hlone).trans hr'
    have htime : (tripsChanged s.combination b).timeBase = b.timeBase := all.timeBase
    rw [htime, all.keeps.limits]
    exact ⟨congrArg CondRec.raised hx', congrArg CondRec.recurrence hx', congrArg CondRec.limit hx',
      (congrArg CondRec.measured hx').trans (congrArg some (maskValue_cast _))⟩
  · have e := combinationChanged_again (hcombination.symm.trans hu) (hlost.trans hl)
    rw [← hs] at e
    refine ⟨hsame.trans (by rw [e]; exact hlost.trans hl), fun hlaw => ?_⟩
    have hlaw' : CondLaw (combinationChanged s.combination b).conds := first.keeps.condLaw (hconds ▸ hlaw)
    have hstands := (after.stands (hlaw'.lone _ _)).2
    have hfind := find_map_of_recOf hstands (·.recurrence) fun _ => rfl
    refine hfind.trans ?_
    change ((combinationChanged s.combination b).conds.find .engineLineLost 96).map (·.recurrence) = _
    rw [e, find_bumpRec_self, hconds, Option.map_map]
    rfl
  · have e := combinationChanged_ends (before := s.combination) (hcombination.symm.trans hu) (hlost.trans hl) (hrec.trans hr)
    have hends : (tripsChanged s.combination b).balancer.lineLost = false := hsame.trans (by rw [e]; exact lineLostEnd_lineLost b)
    refine ⟨hends, ?_, ?_⟩
    · unfold State.isOpen
      rw [hends]
      rfl
    · have htime : (tripsChanged s.combination b).timeBase = (lineLostEnd b).timeBase := by
        rw [all.timeBase, ← e, first.timeBase]
      rw [htime, ← lineLostEnd_evaluated, ← e]
      exact congrArg LineRecord.evaluated engine
  · rw [hcombination] at h
    have e := combinationChanged_stays (before := s.combination) (s := b) (h.imp id fun ⟨hc, hr⟩ => ⟨hc, hr.imp hrec.trans hlost.trans⟩)
    exact hsame.trans (by rw [e]; exact hlost)

theorem tripEvent_follows {s : State} {k : Trip} {c : Instr} (hheld : s.held = false) (h : TripEvent s k c) :
    ∃ u, exec c s = .next u ∧ LineLostFollows s u := by
  rcases h with ⟨rfl, hon⟩ | ⟨high, rfl, hoff⟩
  · obtain ⟨ms, hms⟩ := Option.ne_none_iff_exists'.mp (mt (ms_eq_none_iff _).mp hon)
    refine ⟨_, Event.exec_free (.tripFilterExpiry k) hheld, ?_⟩
    rw [filterExpiry_some hms, State.advanceTo_eq]
    exact tripsChanged_follows rfl rfl
  · refine ⟨_, Event.exec_eq (.tripInputChange k high) s, ?_⟩
    rw [inputChange_off hheld hoff]
    exact tripsChanged_follows rfl rfl

/-! ## The CLEAR of ENGINE LINE LOST -/

theorem removalEffects_lineLost {r : CondRec} {s : State} (hk : r.kind = .engineLineLost) (hl : s.balancer.lineLost = true)
    (hc : s.combination = false) : removalEffects r s = lineLostEnd s := by
  unfold removalEffects
  rw [hk]
  dsimp only [CondKind.reason]
  rw [hl, hc]
  rfl

theorem evalTaking_lines (s : State) : (evalTaking s).lines = s.lines := (reports_evalTaking s).lines

/-- What a CLEAR of ENGINE LINE LOST leaves of the ENGINE line, with the combination not satisfied (R98, R116). -/
theorem clearTop_lineLost {s : State} {r : CondRec} {below : List CondRec} (hs : s.conds.stack = r :: below)
    (hk : r.kind = .engineLineLost) (hl : s.balancer.lineLost = true) (hc : s.combination = false) :
    (clearTop r s).balancer.lineLost = false ∧ (clearTop r s).lines.engine.evaluated = some (clearTop r s).timeBase := by
  have he : clearing r below s = lineLostEnd { s with conds := { s.conds with stack := below } } := removalEffects_lineLost hk hl hc
  rw [clearTop_eq hs, he, evalTaking_lines, (reports_evalTaking _).timeBase]
  exact ⟨(lostSame_evalTaking _).lineLost.trans (lineLostEnd_lineLost _), lineLostEnd_evaluated _⟩

theorem finishExecution_lines (f : PlantFrame) (a : Answer) : (finishExecution f a).lines = (runEvals a.state).lines := rfl

theorem finishExecution_lineLost (f : PlantFrame) (a : Answer) :
    (finishExecution f a).balancer.lineLost = a.state.balancer.lineLost := (lostSame_runEvals a.state).lineLost

theorem finishExecution_engine (f : PlantFrame) {a : Answer} (h : a.state.lines.engine.evaluated = some a.state.timeBase) :
    (finishExecution f a).lines.engine.evaluated = some a.state.timeBase := by
  have time := (inner_runEvals (d := False) a.state).timeBase
  rw [finishExecution_lines, (engineRecord_runEvals a.state).evaluated time h]
  exact congrArg some time

/-- Settles O43: the events by `tripsChanged_follows`, the CLEAR by `lineLostEnd`. -/
theorem lineLostBeginsAndEnds : Obligations.LineLostBeginsAndEnds := by
  unfold Obligations.LineLostBeginsAndEnds
  refine ⟨fun s k c hheld h => tripEvent_follows hheld h, fun s f rest r below h hk hp hstack hkind hsource hc hl => ?_⟩
  have hbegin : (beginExecution s).conds.stack = r :: below := hstack
  have hactive : (beginExecution s).stillActive r.kind = false := by
    rw [hkind]
    exact hc
  have hrun : runClear f (beginExecution s) = accept (clearTop r (beginExecution s)) :=
    runClear_accepted (by rw [hkind, hsource]; exact hp) hbegin hactive
  obtain ⟨hlost, hevaluated⟩ := clearTop_lineLost hbegin hkind hl hc
  have htime : (clearTop r (beginExecution s)).timeBase = s.timeBase := (inner_clearTop (d := False) r (beginExecution s)).timeBase
  have hexec := Row.exec_ready .clear h hk
  rw [hrun] at hexec
  have hends : (finishExecution f (accept (clearTop r (beginExecution s)))).balancer.lineLost = false :=
    (finishExecution_lineLost f _).trans hlost
  refine ⟨_, hexec, hends, ?_, ?_, ?_⟩
  · unfold State.isOpen
    rw [hends]
    rfl
  · rw [← htime]
    exact finishExecution_engine f hevaluated
  · have hkeeps := keeps_runClear f (beginExecution s)
    rw [hrun] at hkeeps
    exact finishExecution_undisturbed f _ hkeeps

end Sys2Proof.Machine
end

section
/-! PROOF. LOAD LIMITS (O8), LOAD SITE and LOAD SEGMENT (O9): their payloads read back, and what a load writes. -/

-- One theorem at a time: the one-text build of the package runs out of threads otherwise.
set_option Elab.async false

namespace Sys2Proof.Machine

/-! ## The payloads -/

theorem withinInt_eq_some_iff {lo hi x y : Int} : withinInt lo hi x = some y ↔ (lo ≤ x ∧ x ≤ hi) ∧ x = y := by
  unfold withinInt
  split <;> simp_all

theorem leSigned_one (x : Int) : leSigned 1 x = [BitVec.ofNat 8 (x % 256).toNat] := rfl

theorem leSigned_two (x : Int) :
    leSigned 2 x = [BitVec.ofNat 8 (x % 65536).toNat, BitVec.ofNat 8 ((x % 65536).toNat / 256)] := rfl

theorem signed16_word {x : Int} (hlo : -32768 ≤ x) (hhi : x < 32768) : signed16 (x % 65536).toNat = x := by
  unfold signed16
  split <;> omega

theorem maskOfCode_code {m : PerTrip Bool} (h : m.flareFault = false) : maskOfCode (BitVec.ofNat 8 (PerTrip.code m)) = some m := by
  obtain ⟨t0, t1, t2, t3, ff⟩ := m
  subst h
  revert t0 t1 t2 t3
  decide

theorem polaritiesOfCode_code (m : PerTrip Bool) : polaritiesOfCode (BitVec.ofNat 8 (PerTrip.code m)) = some m := by
  obtain ⟨t0, t1, t2, t3, ff⟩ := m
  revert t0 t1 t2 t3 ff
  decide

theorem maskOfCode_flareFault {b : Byte} {m : PerTrip Bool} (h : maskOfCode b = some m) : m.flareFault = false := by
  unfold maskOfCode at h
  split at h
  · obtain rfl := Option.some.inj h
    rfl
  · exact nomatch h

theorem rateOfCode_code (r : BitRate) : rateOfCode r.code = some r := by cases r <;> rfl

theorem BitRate.code_lt (r : BitRate) : r.code < 256 := by cases r <;> decide

theorem intervalOfCode_code (x : TripInterval) : intervalOfCode x.code = some x := by cases x <;> rfl

theorem TripInterval.code_lt (x : TripInterval) : x.code < 256 := by cases x <;> decide

theorem patternOfCode_eq_some_iff {b c : Byte} : patternOfCode b = some c ↔ (b ≠ 0#8 ∧ b ≠ 0xFF#8) ∧ b = c := by
  unfold patternOfCode
  by_cases h : b = 0#8 ∨ b = 0xFF#8
  · rw [if_pos h]
    exact ⟨fun e => (nomatch e), fun e => absurd h (not_or.mpr e.1)⟩
  · rw [if_neg h, Option.some.injEq]
    exact ⟨fun e => ⟨not_or.mp h, e⟩, And.right⟩

theorem parseLimits_inRange {p : List Byte} {x : Limits} (h : parseLimits p = some x) : x.InRange := by
  obtain ⟨hot, hhot, h⟩ := Option.bind_eq_some_iff.mp h
  obtain ⟨oxygen, hoxygen, h⟩ := Option.bind_eq_some_iff.mp h
  obtain ⟨vacuum, hvacuum, h⟩ := Option.bind_eq_some_iff.mp h
  obtain ⟨engine, hengine, h⟩ := Option.bind_eq_some_iff.mp h
  obtain ⟨o2, ho2, h⟩ := Option.bind_eq_some_iff.mp h
  obtain ⟨flare, hflare, h⟩ := Option.bind_eq_some_iff.mp h
  obtain ⟨mask, hmask, h⟩ := Option.bind_eq_some_iff.mp h
  obtain ⟨low, -, h⟩ := Option.bind_eq_some_iff.mp h
  obtain rfl := Option.some.inj h
  rw [within_eq_some_iff] at hhot hoxygen hengine ho2 hflare
  rw [withinInt_eq_some_iff] at hvacuum
  refine ⟨?_, ?_, ?_, ?_, ?_, ?_, maskOfCode_flareFault hmask⟩ <;> dsimp only <;> omega

theorem Limits.bytes_eq (x : Limits) :
    x.bytes = [BitVec.ofNat 8 (x.hotGas % 256).toNat, BitVec.ofNat 8 x.oxygenHard, BitVec.ofNat 8 (x.oxygenHard / 256),
      BitVec.ofNat 8 (x.vacuumLoss % 65536).toNat, BitVec.ofNat 8 ((x.vacuumLoss % 65536).toNat / 256),
      BitVec.ofNat 8 x.engineMin, BitVec.ofNat 8 (x.engineMin / 256), BitVec.ofNat 8 x.engineO2Max,
      BitVec.ofNat 8 x.flareMin, BitVec.ofNat 8 (x.flareMin / 256), BitVec.ofNat 8 (PerTrip.code x.mask),
      BitVec.ofNat 8 (PerTrip.code x.activeLow)] := by
  simp only [Limits.bytes, byte1, byte2, leSigned_one, leSigned_two, leBytes_one, leBytes_two, List.cons_append, List.nil_append]

theorem parseLimits_bytes {x : Limits} (h : x.InRange) : parseLimits x.bytes = some x := by
  obtain ⟨hhot, hoxygen, hvacuum, hengine, ho2, hflare, hmask⟩ := h
  rw [Limits.bytes_eq]
  generalize hp : ([_, _, _, _, _, _, _, _, _, _, _, _] : List Byte) = p
  have hot : byteAt p 0 = (x.hotGas % 256).toNat := hp ▸ byte_toNat (n := (x.hotGas % 256).toNat) (by omega)
  have oxygen : wordAt p 1 = x.oxygenHard := hp ▸ word_toNat (n := x.oxygenHard) (by omega)
  have vacuum : wordAt p 3 = (x.vacuumLoss % 65536).toNat := hp ▸ word_toNat (n := (x.vacuumLoss % 65536).toNat) (by omega)
  have engine : wordAt p 5 = x.engineMin := hp ▸ word_toNat (n := x.engineMin) (by omega)
  have o2 : byteAt p 7 = x.engineO2Max := hp ▸ byte_toNat (n := x.engineO2Max) (by omega)
  have flare : wordAt p 8 = x.flareMin := hp ▸ word_toNat (n := x.flareMin) (by omega)
  have mask : maskOfCode (p.getD 10 0) = some x.mask := hp ▸ maskOfCode_code hmask
  have low : polaritiesOfCode (p.getD 11 0) = some x.activeLow := hp ▸ polaritiesOfCode_code x.activeLow
  have hhot' : within 20 120 (x.hotGas % 256).toNat = some (x.hotGas % 256).toNat := within_eq_some (by omega) (by omega)
  have hvacuum' : withinInt (-30000) 0 x.vacuumLoss = some x.vacuumLoss := withinInt_eq_some_iff.mpr ⟨hvacuum, rfl⟩
  have hback : (((x.hotGas % 256).toNat : Nat) : Int) = x.hotGas := by omega
  unfold parseLimits
  rw [hot, oxygen, vacuum, engine, o2, flare, mask, low, signed16_word (by omega) (by omega), hhot', hvacuum',
    within_eq_some hoxygen.1 hoxygen.2, within_eq_some hengine.1 hengine.2, within_eq_some ho2.1 ho2.2,
    within_eq_some hflare.1 hflare.2]
  exact congrArg some (congrArg (fun n => Limits.mk n x.oxygenHard x.vacuumLoss x.engineMin x.engineO2Max x.flareMin x.mask x.activeLow) hback)

theorem parseSite_inRange {p : List Byte} {x : SiteSettings} (h : parseSite p = some x) : x.InRange := by
  obtain ⟨age, hage, h⟩ := Option.bind_eq_some_iff.mp h
  obtain ⟨hot, hhot, h⟩ := Option.bind_eq_some_iff.mp h
  obtain ⟨oxygen, hoxygen, h⟩ := Option.bind_eq_some_iff.mp h
  obtain ⟨vacuum, hvacuum, h⟩ := Option.bind_eq_some_iff.mp h
  obtain ⟨actuator, hactuator, h⟩ := Option.bind_eq_some_iff.mp h
  obtain ⟨hysteresis, hhysteresis, h⟩ := Option.bind_eq_some_iff.mp h
  obtain ⟨balance, hbalance, h⟩ := Option.bind_eq_some_iff.mp h
  obtain ⟨demand, hdemand, h⟩ := Option.bind_eq_some_iff.mp h
  obtain ⟨report, hreport, h⟩ := Option.bind_eq_some_iff.mp h
  obtain ⟨lineOxygen, hlineOxygen, h⟩ := Option.bind_eq_some_iff.mp h
  obtain ⟨engineLow, hengineLow, h⟩ := Option.bind_eq_some_iff.mp h
  obtain ⟨flareLow, hflareLow, h⟩ := Option.bind_eq_some_iff.mp h
  obtain ⟨t0, -, h⟩ := Option.bind_eq_some_iff.mp h
  obtain ⟨t1, -, h⟩ := Option.bind_eq_some_iff.mp h
  obtain ⟨t2, -, h⟩ := Option.bind_eq_some_iff.mp h
  obtain ⟨t3, -, h⟩ := Option.bind_eq_some_iff.mp h
  obtain ⟨ff, -, h⟩ := Option.bind_eq_some_iff.mp h
  obtain ⟨silence, hsilence, h⟩ := Option.bind_eq_some_iff.mp h
  obtain rfl := Option.some.inj h
  rw [within_eq_some_iff] at hage hhot hoxygen hvacuum hactuator hhysteresis hbalance
  rw [within_eq_some_iff] at hdemand hreport hlineOxygen hengineLow hflareLow hsilence
  refine ⟨?_, fun k => ?_, ?_, ?_, ?_, ?_, ?_, ?_, ?_, ?_⟩
  case refine_2 => cases k <;> dsimp only [PerExc.get] <;> omega
  all_goals dsimp only; omega

theorem SiteSettings.bytes_eq (x : SiteSettings) :
    x.bytes = [BitVec.ofNat 8 x.maxSampleAge, BitVec.ofNat 8 (x.maxSampleAge / 256), BitVec.ofNat 8 x.verify.hot,
      BitVec.ofNat 8 x.verify.oxygen, BitVec.ofNat 8 x.verify.vacuum, BitVec.ofNat 8 x.verify.actuator,
      BitVec.ofNat 8 x.hysteresis, BitVec.ofNat 8 x.balanceInterval, BitVec.ofNat 8 (x.balanceInterval / 256),
      BitVec.ofNat 8 x.demandTimeout, BitVec.ofNat 8 (x.demandTimeout / 256), BitVec.ofNat 8 x.reportInterval,
      BitVec.ofNat 8 (x.reportInterval / 256), BitVec.ofNat 8 x.verifyLineOxygen, BitVec.ofNat 8 x.verifyEngineLow,
      BitVec.ofNat 8 x.verifyFlareLow, BitVec.ofNat 8 x.intervals.trip0.code, BitVec.ofNat 8 x.intervals.trip1.code,
      BitVec.ofNat 8 x.intervals.trip2.code, BitVec.ofNat 8 x.intervals.trip3.code,
      BitVec.ofNat 8 x.intervals.flareFault.code, BitVec.ofNat 8 x.silence] := by
  simp only [SiteSettings.bytes, byte1, byte2, leBytes_one, leBytes_two, List.cons_append, List.nil_append]

theorem parseSite_bytes {x : SiteSettings} (h : x.InRange) : parseSite x.bytes = some x := by
  obtain ⟨hage, hverify, hhysteresis, hbalance, hdemand, hreport, hlineOxygen, hengineLow, hflareLow, hsilence⟩ := h
  obtain ⟨hhot, hoxygen, hvacuum, hactuator⟩ := And.intro (hverify .hot) (And.intro (hverify .oxygen)
    (And.intro (hverify .vacuum) (hverify .actuator)))
  dsimp only [PerExc.get] at hhot hoxygen hvacuum hactuator
  rw [SiteSettings.bytes_eq]
  generalize hp : ([_, _, _, _, _, _, _, _, _, _, _, _, _, _, _, _, _, _, _, _, _, _] : List Byte) = p
  have age : wordAt p 0 = x.maxSampleAge := hp ▸ word_toNat (n := x.maxSampleAge) (by omega)
  have hot : byteAt p 2 = x.verify.hot := hp ▸ byte_toNat (n := x.verify.hot) (by omega)
  have oxygen : byteAt p 3 = x.verify.oxygen := hp ▸ byte_toNat (n := x.verify.oxygen) (by omega)
  have vacuum : byteAt p 4 = x.verify.vacuum := hp ▸ byte_toNat (n := x.verify.vacuum) (by omega)
  have actuator : byteAt p 5 = x.verify.actuator := hp ▸ byte_toNat (n := x.verify.actuator) (by omega)
  have hysteresis : byteAt p 6 = x.hysteresis := hp ▸ byte_toNat (n := x.hysteresis) (by omega)
  have balance : wordAt p 7 = x.balanceInterval := hp ▸ word_toNat (n := x.balanceInterval) (by omega)
  have demand : wordAt p 9 = x.demandTimeout := hp ▸ word_toNat (n := x.demandTimeout) (by omega)
  have report : wordAt p 11 = x.reportInterval := hp ▸ word_toNat (n := x.reportInterval) (by omega)
  have lineOxygen : byteAt p 13 = x.verifyLineOxygen := hp ▸ byte_toNat (n := x.verifyLineOxygen) (by omega)
  have engineLow : byteAt p 14 = x.verifyEngineLow := hp ▸ byte_toNat (n := x.verifyEngineLow) (by omega)
  have flareLow : byteAt p 15 = x.verifyFlareLow := hp ▸ byte_toNat (n := x.verifyFlareLow) (by omega)
  have interval (t : TripInterval) : intervalOfCode (BitVec.ofNat 8 t.code).toNat = some t :=
    (congrArg intervalOfCode (byte_toNat (TripInterval.code_lt t))).trans (intervalOfCode_code t)
  have t0 : intervalOfCode (byteAt p 16) = some x.intervals.trip0 := hp ▸ interval _
  have t1 : intervalOfCode (byteAt p 17) = some x.intervals.trip1 := hp ▸ interval _
  have t2 : intervalOfCode (byteAt p 18) = some x.intervals.trip2 := hp ▸ interval _
  have t3 : intervalOfCode (byteAt p 19) = some x.intervals.trip3 := hp ▸ interval _
  have ff : intervalOfCode (byteAt p 20) = some x.intervals.flareFault := hp ▸ interval _
  have silence : byteAt p 21 = x.silence := hp ▸ byte_toNat (n := x.silence) (by omega)
  unfold parseSite
  rw [age, hot, oxygen, vacuum, actuator, hysteresis, balance, demand, report, lineOxygen, engineLow, flareLow, t0, t1, t2, t3,
    ff, silence, within_eq_some hage.1 hage.2, within_eq_some hhot.1 hhot.2, within_eq_some hoxygen.1 hoxygen.2,
    within_eq_some hvacuum.1 hvacuum.2, within_eq_some hactuator.1 hactuator.2, within_eq_some (Nat.zero_le _) hhysteresis,
    within_eq_some hbalance.1 hbalance.2, within_eq_some hdemand.1 hdemand.2, within_eq_some hreport.1 hreport.2,
    within_eq_some hlineOxygen.1 hlineOxygen.2, within_eq_some hengineLow.1 hengineLow.2,
    within_eq_some hflareLow.1 hflareLow.2, within_eq_some hsilence.1 hsilence.2]
  rfl

theorem parseSegment_inRange {p : List Byte} {g : Seg} {x : SegSettings} (h : parseSegment p = some (g, x)) : x.InRange := by
  obtain ⟨seg, -, h⟩ := Option.bind_eq_some_iff.mp h
  obtain ⟨pattern, hpattern, h⟩ := Option.bind_eq_some_iff.mp h
  obtain ⟨rate, -, h⟩ := Option.bind_eq_some_iff.mp h
  obtain ⟨reply, hreply, h⟩ := Option.bind_eq_some_iff.mp h
  obtain ⟨miss, hmiss, h⟩ := Option.bind_eq_some_iff.mp h
  obtain ⟨budget, hbudget, h⟩ := Option.bind_eq_some_iff.mp h
  obtain ⟨move, hmove, h⟩ := Option.bind_eq_some_iff.mp h
  obtain ⟨settle, hsettle, h⟩ := Option.bind_eq_some_iff.mp h
  obtain ⟨-, rfl⟩ := Prod.mk.inj (Option.some.inj h)
  rw [within_eq_some_iff] at hreply hmiss hbudget hmove hsettle
  obtain ⟨hmixed, rfl⟩ := patternOfCode_eq_some_iff.mp hpattern
  refine ⟨hmixed, ?_, ?_, ?_, ?_, ?_⟩ <;> dsimp only <;> omega

theorem segmentBytes_eq (g : Seg) (x : SegSettings) :
    leBytes 1 (segCode g) ++ x.bytes = [BitVec.ofNat 8 (segCode g), BitVec.ofNat 8 x.pattern.toNat, BitVec.ofNat 8 x.rate.code,
      BitVec.ofNat 8 x.replyTimeout, BitVec.ofNat 8 (x.replyTimeout / 256), BitVec.ofNat 8 x.missLimit,
      BitVec.ofNat 8 x.budget, BitVec.ofNat 8 (x.budget / 256), BitVec.ofNat 8 x.moveTimeout,
      BitVec.ofNat 8 (x.moveTimeout / 256), BitVec.ofNat 8 x.settleTolerance] := by
  simp only [SegSettings.bytes, byte1, byte2, leBytes_one, leBytes_two, List.cons_append, List.nil_append]

theorem parseSegment_bytes (g : Seg) {x : SegSettings} (h : x.InRange) :
    parseSegment (leBytes 1 (segCode g) ++ x.bytes) = some (g, x) := by
  obtain ⟨hpattern, hreply, hmiss, hbudget, hmove, hsettle⟩ := h
  rw [segmentBytes_eq]
  generalize hp : ([_, _, _, _, _, _, _, _, _, _, _] : List Byte) = p
  have seg : segOfCode (byteAt p 0) = some g := hp ▸ (congrArg segOfCode (byte_toNat (segCode_lt _))).trans (segOfCode_segCode _)
  have pattern : p.getD 1 0 = x.pattern := hp ▸ ofNat_tag x.pattern
  have rate : rateOfCode (byteAt p 2) = some x.rate := hp ▸
    (congrArg rateOfCode (byte_toNat (BitRate.code_lt _))).trans (rateOfCode_code _)
  have reply : wordAt p 3 = x.replyTimeout := hp ▸ word_toNat (n := x.replyTimeout) (by omega)
  have miss : byteAt p 5 = x.missLimit := hp ▸ byte_toNat (n := x.missLimit) (by omega)
  have budget : wordAt p 6 = x.budget := hp ▸ word_toNat (n := x.budget) (by omega)
  have move : wordAt p 8 = x.moveTimeout := hp ▸ word_toNat (n := x.moveTimeout) (by omega)
  have settle : byteAt p 10 = x.settleTolerance := hp ▸ byte_toNat (n := x.settleTolerance) (by omega)
  unfold parseSegment
  rw [seg, pattern, rate, reply, miss, budget, move, settle, patternOfCode_eq_some_iff.mpr ⟨hpattern, rfl⟩,
    within_eq_some hreply.1 hreply.2, within_eq_some hmiss.1 hmiss.2, within_eq_some hbudget.1 hbudget.2,
    within_eq_some hmove.1 hmove.2, within_eq_some (Nat.zero_le _) hsettle]
  rfl

/-! ## What follows a load -/

/-- Line-lost status after an event is not changed by what comes behind it and leaves the status, its record and the trips. -/
theorem LineLostFollows.later {s u t : State} (h : LineLostFollows s u) (same : LostSame u t) (engine : EngineRecord u t)
    (htime : t.timeBase = u.timeBase) (hlimits : t.limits = u.limits) (htrips : t.trips = u.trips)
    (hlaw : CondLaw s.conds → CondLaw u.conds) (hnew : s.hasRec .engineLineLost 96 = false → u.conds.Lone .engineLineLost 96) :
    LineLostFollows s t where
  onset := fun hs ht hl => by
    rw [combination_congr hlimits htrips] at ht
    obtain ⟨hlost, r, hr, hvalues⟩ := h.onset hs ht hl
    obtain ⟨x, hx, huntaken⟩ := same.find hr
    refine ⟨same.lineLost.trans hlost, x, hx, fun hno => ?_⟩
    have e := huntaken (hnew hno)
    obtain ⟨hraised, hrecurrence, hlimit, hmeasured⟩ := hvalues hno
    rw [htime, hlimits]
    exact ⟨(congrArg CondRec.raised e).trans hraised, (congrArg CondRec.recurrence e).trans hrecurrence,
      (congrArg CondRec.limit e).trans hlimit, (congrArg CondRec.measured e).trans hmeasured⟩
  again := fun hs ht hl => by
    rw [combination_congr hlimits htrips] at ht
    obtain ⟨hlost, hcount⟩ := h.again hs ht hl
    refine ⟨same.lineLost.trans hlost, fun hc => ?_⟩
    exact (find_map_of_recOf (same.stands ((hlaw hc).lone _ _)).2 (·.recurrence) fun _ => rfl).trans (hcount hc)
  ends := fun ht hl hr => by
    rw [combination_congr hlimits htrips] at ht
    obtain ⟨hlost, -, hevaluated⟩ := h.ends ht hl hr
    have hlost' := same.lineLost.trans hlost
    refine ⟨hlost', ?_, engine.evaluated htime hevaluated⟩
    unfold State.isOpen
    rw [hlost']
    rfl
  stays := fun hc => by
    rw [combination_congr hlimits htrips] at hc
    exact same.lineLost.trans (h.stays hc)
  flareFault := by rw [same.flareFault, htrips, h.flareFault]

end Sys2Proof.Machine
end

section
/-! PROOF. LOAD LIMITS (O8), LOAD SITE and LOAD SEGMENT (O9), executed. -/

-- One theorem at a time: the one-text build of the package runs out of threads otherwise.
set_option Elab.async false

namespace Sys2Proof.Machine

/-! ## One record of ENGINE LINE LOST -/

theorem lone_bumpRec {s : State} {k : CondKind} {src : Nat} (h : s.conds.Lone k src) (j : CondKind) (n : Nat) :
    (bumpRec j n s).conds.Lone k src := by
  have pre : ∀ x ∈ (bumpRec j n s).conds.waiting, x.isPair k src = true →
      ∃ y ∈ s.conds.waiting, y.isPair k src = true ∧ x = if y.isPair j n then y.again else y := fun x hx hp => by
    obtain ⟨y, hy, rfl⟩ := List.mem_map.mp hx
    refine ⟨y, hy, ?_, rfl⟩
    split at hp <;> exact hp
  intro x hx y hy hxp hyp
  obtain ⟨x', hx', hxp', rfl⟩ := pre x hx hxp
  obtain ⟨y', hy', hyp', rfl⟩ := pre y hy hyp
  rw [h x' hx' y' hy' hxp' hyp']

/-- With no record before the event, at most one is pending behind it. -/
theorem tripsChanged_lone {b : State} (h : b.hasRec .engineLineLost 96 = false) (before : Bool) :
    (tripsChanged before b).conds.Lone .engineLineLost 96 := by
  have hb : b.conds.Lone .engineLineLost 96 := Conditions.lone_of_find_none (hasRec_eq_false.mp h)
  have first : (combinationChanged before b).conds.Lone .engineLineLost 96 := by
    unfold combinationChanged
    split
    · split
      · exact hb
      · split
        · exact lone_bumpRec hb _ _
        · obtain ⟨r, -, hnew⟩ := lostRaised_record b
          exact ((lineLostOnset_after b).stands (hnew h).1).1
    · split
      · exact ((lineLostEnd_after b).stands hb).1
      · exact hb
  exact ((flareFaultChanged_after (combinationChanged before b)).stands first).1

/-! ## A takeover leaves line-lost status -/

theorem LostSame.of_link {s t : State} (conds : t.conds = s.conds) (balancer : t.balancer = s.balancer) : LostSame s t := by
  refine ⟨⟨by rw [balancer], fun h => ?_, .of_conds conds⟩, by rw [balancer]⟩
  unfold State.hasRec at *
  rw [conds]
  exact h

theorem lostSame_offerUrgent (f : Uplink) (s : State) : LostSame s (offerUrgent f s) := .of_link rfl rfl

theorem offerUrgent_lines (f : Uplink) (s : State) : (offerUrgent f s).lines = s.lines := rfl

theorem lostSame_becomeDuty (s : State) : LostSame s (becomeDuty s) := .of_link rfl rfl

theorem lostSame_takeover (s : State) : LostSame s (takeover s) := by
  have started : LostSame s (takeoverStart s) :=
    (lostSame_becomeDuty s).trans (.of_hushed (hushed_releaseMoves .abandoned s.moving _) (calm_releaseMoves .abandoned s.moving _))
  have diverted : LostSame s (if (takeoverStart s).balancer.lineLost && (takeoverStart s).isOpen .flare
      then diversion (takeoverStart s) else takeoverStart s) := by
    split
    · exact started.trans (lostSame_diversion _)
    · exact started
  have made : LostSame s (takeoverMade s) := (diverted.trans (lostSame_outletRuleAll false _)).trans
    (.of_hushed (d := False) (outletRules_hushed.takeoverSets allSlots _) (calm_takeoverSets allSlots _))
  have taken : LostSame s (takeoverTaken s) := (made.trans (lostSame_examineAll _)).trans (lostSame_evalTaking _)
  rw [takeover_eq]
  exact taken.trans (lostSame_offerUrgent _ _)

theorem takeover_lines (s : State) : (takeover s).lines = s.lines := by
  have started : Hushed s (takeoverStart s) :=
    Hushed.trans (t := becomeDuty s) ⟨rfl, rfl, rfl, rfl⟩ (hushed_releaseMoves .abandoned s.moving (becomeDuty s))
  have diverted : Hushed s (if (takeoverStart s).balancer.lineLost && (takeoverStart s).isOpen .flare
      then diversion (takeoverStart s) else takeoverStart s) := by
    split
    · exact started.trans (outletRules_hushed.diversion _)
    · exact started
  have ruled (t : State) : (takeoverSets allSlots (outletRuleAll false t)).lines = t.lines :=
    (outletRules_hushed.takeoverSets allSlots (outletRuleAll false t)).lines.trans
      ((reports_examineSite false _).lines.trans (outletRules_hushed.applyOutletRules t.members t).lines)
  have made : (takeoverMade s).lines = s.lines := by
    have e : takeoverMade s = takeoverSets allSlots (outletRuleAll false
      (if (takeoverStart s).balancer.lineLost && (takeoverStart s).isOpen .flare then diversion (takeoverStart s)
        else takeoverStart s)) := rfl
    exact (congrArg State.lines e).trans ((ruled _).trans diverted.lines)
  have taken : (takeoverTaken s).lines = s.lines :=
    (evalTaking_lines _).trans ((outletRules_hushed.examineAll _).lines.trans made)
  rw [takeover_eq, offerUrgent_lines]
  exact taken

/-! ## The answer behind a load -/

/-- What an execution leaves besides the uplink, where nothing is left to evaluate. -/
theorem finishExecution_eq {f : PlantFrame} {a : Answer} (h : Settled a.state) :
    finishExecution f a = { a.state with link := (finishExecution f a).link } := by
  rw [finishExecution_settled f h]
  rfl

theorem LineLostFollows.of_link {s u : State} (h : LineLostFollows s u) (k : Link) : LineLostFollows s { u with link := k } :=
  ⟨h.onset, h.again, h.ends, h.stays, h.flareFault⟩

theorem LineLostFollows.of_begin {s u : State} (h : LineLostFollows (beginExecution s) u) : LineLostFollows s u :=
  ⟨h.onset, h.again, h.ends, h.stays, h.flareFault⟩

theorem finishExecution_follows {s : State} {f : PlantFrame} {a : Answer} (hset : Settled a.state)
    (h : LineLostFollows (beginExecution s) a.state) : LineLostFollows s (finishExecution f a) := by
  rw [finishExecution_eq hset]
  exact h.of_begin.of_link _

theorem refilter_eq (s : State) (k : Trip) (i p : Bool) :
    s.refilter k i p = if i || p then (s.trips.get k).reloaded (s.site.intervals.get k) (s.limits.activeLow.get k) s.timeBase
      else s.trips.get k := by
  unfold State.refilter TripFilter.reloaded
  generalize s.site.intervals.get k = x
  cases x <;> rfl

theorem limitsWritten_trips (x : Limits) (s : State) (k : Trip) :
    (limitsWritten x s).trips.get k = if x.activeLow.get k = s.limits.activeLow.get k then s.trips.get k
      else (s.trips.get k).reloaded (s.site.intervals.get k) (x.activeLow.get k) s.timeBase := by
  have e : (limitsWritten x s).trips.get k = State.refilter { s with limits := x } k false
      (!decide (s.limits.activeLow.get k = x.activeLow.get k)) := PerTrip.get_ofFn _ k
  rw [e, refilter_eq]
  by_cases h : x.activeLow.get k = s.limits.activeLow.get k
  · simp [h]
  · simp [h, Ne.symm h]

theorem runLoadLimits_locked {f : PlantFrame} {s : State} (h : s.link.unlocked = false) :
    runLoadLimits f s = refuse .protectedGroup (s.modLinkCounters fun c => { c with protectionErrors := counterInc c.protectionErrors }) := by
  unfold runLoadLimits
  rw [h]
  rfl

theorem runLoadLimits_unlocked {f : PlantFrame} {s : State} (h : s.link.unlocked = true) :
    runLoadLimits f s = match parseLimits f.payload with
      | none => refuse .range s
      | some x => accept (loadLimits x s) := by
  unfold runLoadLimits
  rw [h]
  rfl

theorem settled_tripsChanged {b : Bool} {s : State} (h : Settled s) : Settled (tripsChanged b s) :=
  (inner_tripsChanged (d := False) b s).settled h

theorem PerTrip.ext_get {α : Type} {x y : PerTrip α} (h : ∀ k : Trip, x.get k = y.get k) : x = y := by
  obtain ⟨a0, a1, a2, a3, af⟩ := x
  obtain ⟨b0, b1, b2, b3, bf⟩ := y
  obtain rfl : a0 = b0 := h .trip0
  obtain rfl : a1 = b1 := h .trip1
  obtain rfl : a2 = b2 := h .trip2
  obtain rfl : a3 = b3 := h .trip3
  obtain rfl : af = bf := h .flareFault
  rfl

/-- A load that repeats mask and polarities writes the other limits alone. -/
theorem loadLimits_same {x : Limits} {s : State} (hmask : x.mask = s.limits.mask) (hlow : x.activeLow = s.limits.activeLow)
    (hlost : s.balancer.lineLost = s.combination) (hfault : s.balancer.flareFault = s.trips.flareFault.accepted) :
    loadLimits x s = { s with limits := x } := by
  have htrips : (limitsWritten x s).trips = s.trips := PerTrip.ext_get fun k => by
    rw [limitsWritten_trips, if_pos (by rw [hlow])]
  have hwritten : limitsWritten x s = { s with limits := x } := by
    have e : limitsWritten x s = { s with limits := x, trips := (limitsWritten x s).trips } := rfl
    rw [e, htrips]
  have hcombination : ({ s with limits := x } : State).combination = s.combination := by
    unfold State.combination
    rw [hmask]
  rw [loadLimits_eq, hwritten]
  exact tripsChanged_unchanged hcombination hlost hfault

/-- Settles O8: the payload by `parseLimits_bytes`, the load by `limitsWritten` and `tripsChanged_follows`. -/
theorem loadLimitsWritesTheGroup : Obligations.LoadLimitsWritesTheGroup := by
  unfold Obligations.LoadLimitsWritesTheGroup
  refine ⟨⟨fun p x => parseLimits_inRange, fun x => parseLimits_bytes⟩, fun s f rest h hk => ⟨fun hlocked => ?_,
    fun hunlocked hp => ?_, fun x hunlocked hp => ⟨?_, fun hmask hlow hlost hfault => ?_⟩⟩⟩
  · exact Row.loadLimits.exec_answer (u := { s with link := { s.link with counters := { s.link.counters with
      protectionErrors := satInc 65535 s.link.counters.protectionErrors } } }) h hk h (runLoadLimits_locked hlocked) (.inl (by decide))
  · refine Row.loadLimits.exec_refuse h hk ?_ (by decide)
    have hbegin : (beginExecution s).link.unlocked = true := hunlocked
    rw [runLoadLimits_unlocked hbegin, hp]
  · have hbegin : (beginExecution s).link.unlocked = true := hunlocked
    have hrun : runLoadLimits f (beginExecution s) = accept (loadLimits x (beginExecution s)) := by
      rw [runLoadLimits_unlocked hbegin, hp]
    have hexec := Row.exec_ready .loadLimits h hk
    rw [hrun] at hexec
    have inner := inner_tripsChanged (d := False) (beginExecution s).combination (limitsWritten x (beginExecution s))
    have hset : Settled (limitsWritten x (beginExecution s)) := h.2.2.2
    have hsettled : Settled (accept (loadLimits x (beginExecution s))).state := settled_tripsChanged hset
    have follows : LineLostFollows (beginExecution s) (accept (loadLimits x (beginExecution s))).state :=
      tripsChanged_follows rfl rfl
    have hfour : f.isKind 4 = false := PlantFrame.isKind_eq_false hk (by decide)
    refine ⟨_, hexec, ?_, ?_, ?_, finishExecution_follows hsettled follows, fun k => ?_⟩
    · rw [finishExecution_eq hsettled]
      exact inner.keeps.limits
    · rw [finishExecution_eq hsettled]
      exact inner.keeps.site
    · rw [finishExecution_unlocked, hfour]
      rfl
    · rw [finishExecution_eq hsettled]
      exact (congrArg (fun p => p.get k) inner.trips).trans (limitsWritten_trips x (beginExecution s) k)
  · have hbegin : (beginExecution s).link.unlocked = true := hunlocked
    have hload : loadLimits x (beginExecution s) = { beginExecution s with limits := x } := loadLimits_same hmask hlow hlost hfault
    have hfour : f.isKind 4 = false := PlantFrame.isKind_eq_false hk (by decide)
    refine Row.loadLimits.exec_answer (u := { s with limits := x }) h hk h ?_ (.inr hfour)
    rw [runLoadLimits_unlocked hbegin, hp]
    exact congrArg accept hload

end Sys2Proof.Machine
end

section
/-! PROOF. LOAD SITE and LOAD SEGMENT (O9), executed. -/

-- One theorem at a time: the one-text build of the package runs out of threads otherwise.
set_option Elab.async false

namespace Sys2Proof.Machine

/-! ## The settings of LOAD SITE -/

theorem siteWritten_trips (x : SiteSettings) (s : State) (k : Trip) :
    (siteWritten x s).trips.get k = if x.intervals.get k = s.site.intervals.get k then s.trips.get k
      else (s.trips.get k).reloaded (x.intervals.get k) (s.limits.activeLow.get k) s.timeBase := by
  have e : (siteWritten x s).trips.get k = State.refilter { s with site := x } k
      (!decide (s.site.intervals.get k = x.intervals.get k)) false := PerTrip.get_ofFn _ k
  rw [e, refilter_eq]
  by_cases h : x.intervals.get k = s.site.intervals.get k
  · simp [h]
  · simp [h, Ne.symm h]

/-- A filter keeps its accepted state where its interval stays or stays on (R93). -/
theorem siteWritten_accepted {x : SiteSettings} {s : State} {k : Trip}
    (h : x.intervals.get k = s.site.intervals.get k ∨ x.intervals.get k ≠ .off) :
    ((siteWritten x s).trips.get k).accepted = (s.trips.get k).accepted := by
  rw [siteWritten_trips]
  split
  · rfl
  · next hk => rw [TripFilter.reloaded, if_neg (h.resolve_left hk)]

theorem combinationOf_congr {mask : PerTrip Bool} {x y : PerTrip TripFilter}
    (h : ∀ k : Trip, (x.get k).accepted = (y.get k).accepted) : combinationOf mask x = combinationOf mask y := by
  have h0 : x.trip0.accepted = y.trip0.accepted := h .trip0
  have h1 : x.trip1.accepted = y.trip1.accepted := h .trip1
  have h2 : x.trip2.accepted = y.trip2.accepted := h .trip2
  have h3 : x.trip3.accepted = y.trip3.accepted := h .trip3
  unfold combinationOf
  rw [h0, h1, h2, h3]

/-- The demand held is aged by the timeout before the load and then by the one loaded (R84). -/
theorem demandNow_aged (x : SiteSettings) (s : State) :
    State.demandNow { s with site := x, balancer := { s.balancer with demand := s.demandNow } } =
      if s.demandNow = none then none else State.demandNow { s with site := x } := by
  by_cases hnone : s.demandNow = none
  · rw [if_pos hnone, hnone]
    rfl
  · have held : s.demandNow = s.balancer.demand := by
      unfold State.demandNow at hnone ⊢
      split at hnone
      · next d t hd ht =>
        split at hnone
        · next hage => simp [hd, hage]
        · exact absurd rfl hnone
      · exact absurd rfl hnone
    rw [if_neg hnone, held]

theorem siteWritten_balancer (x : SiteSettings) (s : State) : (siteWritten x s).balancer =
    { s.balancer with
      reportTimer := if x.reportInterval = s.site.reportInterval then s.balancer.reportTimer else s.timeBase
      demand :=
        if x.demandTimeout = s.site.demandTimeout then s.balancer.demand
        else if s.demandNow = none then none else State.demandNow { s with site := x } } := by
  rw [← demandNow_aged]
  rfl

/-! ## The silence timer at the load -/

theorem silenceAtLoad_cases (s : State) : silenceAtLoad s = s ∨ silenceAtLoad s = takeover s := by
  unfold silenceAtLoad
  split
  · split
    · exact .inr rfl
    · exact .inl rfl
  · exact .inl rfl

theorem silenceAtLoad_expired {s : State} {start : Nat} (hrole : s.unit.role = .standby)
    (hstart : s.unit.silenceStart = some start) (hdue : s.silenceInForce ≤ s.timeBase - start) : silenceAtLoad s = takeover s := by
  unfold silenceAtLoad
  rw [hrole, hstart]
  exact if_pos hdue

/-- What the silence timer leaves of a load: the site and the limits, the trips, the time base, and nothing left to evaluate. -/
structure LoadStands (s t : State) : Prop where
  site : t.site = s.site
  limits : t.limits = s.limits
  trips : t.trips = s.trips
  timeBase : t.timeBase = s.timeBase
  evalAsked : t.evalAsked = s.evalAsked

theorem loadStands_takeover (s : State) : LoadStands s (takeover s) :=
  have inner := takeover_inner s
  ⟨inner.keeps.site, inner.keeps.limits, inner.trips, inner.timeBase, inner.evalAsked⟩

theorem loadStands_silenceAtLoad (s : State) : LoadStands s (silenceAtLoad s) := by
  rcases silenceAtLoad_cases s with h | h <;> rw [h]
  · exact ⟨rfl, rfl, rfl, rfl, rfl⟩
  · exact loadStands_takeover s

theorem loadSite_stands (x : SiteSettings) (s : State) :
    LoadStands (tripsChanged s.combination (siteWritten x s)) (loadSite x s) := by
  rw [loadSite_eq]
  split
  · exact ⟨rfl, rfl, rfl, rfl, rfl⟩
  · exact loadStands_silenceAtLoad _

theorem loadSite_follows (x : SiteSettings) (s : State) : LineLostFollows s (loadSite x s) := by
  have follows : LineLostFollows s (tripsChanged s.combination (siteWritten x s)) := tripsChanged_follows rfl rfl
  rw [loadSite_eq]
  split
  · exact follows
  · rcases silenceAtLoad_cases (tripsChanged s.combination (siteWritten x s)) with h | h <;> rw [h]
    · exact follows
    · have stands := loadStands_takeover (tripsChanged s.combination (siteWritten x s))
      refine follows.later (lostSame_takeover _) (.of_lines (takeover_lines _)) stands.timeBase stands.limits stands.trips
        (inner_tripsChanged (d := False) _ (siteWritten x s)).keeps.condLaw fun hno => tripsChanged_lone ?_ _
      exact hno

theorem runLoadSite_some {f : PlantFrame} {s : State} {x : SiteSettings} (h : parseSite f.payload = some x) :
    runLoadSite f s = accept (loadSite x s) := by
  unfold runLoadSite
  rw [h]

theorem loadSite_settled {x : SiteSettings} {s : State} (h : Settled s) : Settled (loadSite x s) := by
  have written : (siteWritten x s).evalAsked = .all false := h
  exact ((loadSite_stands x s).evalAsked.trans (inner_tripsChanged (d := False) _ (siteWritten x s)).evalAsked).trans written

/-- LOAD SITE executed: what it writes, and what follows of line-lost status. -/
theorem exec_loadSite {s : State} {f : PlantFrame} {rest : List PlantFrame} {x : SiteSettings} (h : Ready s f rest)
    (hk : f.isKind 3 = true) (hp : parseSite f.payload = some x) :
    ∃ k : Link, exec .loadSite s = .next { loadSite x (beginExecution s) with link := k } := by
  have hbegin : Settled (beginExecution s) := h.2.2.2
  have hsettled : Settled (accept (loadSite x (beginExecution s))).state := loadSite_settled hbegin
  have hexec := Row.exec_ready .loadSite h hk
  rw [runLoadSite_some hp, finishExecution_eq hsettled] at hexec
  exact ⟨_, hexec⟩

/-- A load that leaves the silence time and every filter's accepted state writes the settings alone. -/
theorem loadSite_quiet {x : SiteSettings} {s : State} (hsilence : x.silence = s.site.silence)
    (hlost : s.balancer.lineLost = s.combination) (hfault : s.balancer.flareFault = s.trips.flareFault.accepted)
    (hoff : ∀ k : Trip, x.intervals.get k = s.site.intervals.get k ∨ x.intervals.get k ≠ .off) :
    loadSite x s = siteWritten x s := by
  have hcombination : (siteWritten x s).combination = s.combination :=
    combinationOf_congr fun k => siteWritten_accepted (hoff k)
  have haccepted : (siteWritten x s).trips.flareFault.accepted = s.trips.flareFault.accepted :=
    siteWritten_accepted (hoff .flareFault)
  rw [loadSite_eq, if_pos hsilence]
  exact tripsChanged_unchanged hcombination hlost (hfault.trans haccepted.symm)

/-! ## LOAD SEGMENT -/

theorem runLoadSegment_some {f : PlantFrame} {s : State} {g : Seg} {x : SegSettings}
    (h : parseSegment f.payload = some (g, x)) : runLoadSegment f s = accept (loadSegment g x s) := by
  unfold runLoadSegment
  rw [h]

/-- The segment a load leaves with no transaction in flight (R130, R131, R162). -/
def segmentLoaded (g : Seg) (x : SegSettings) (s : State) : Segment :=
  { s.seg g with
    settings := x
    pointer := 0
    rateInForce := if x = (s.seg g).settings then (s.seg g).rateInForce else x.rate
    budgetInForce := budgetAfterLoad (s.seg g) (s.nonProtTravel g) x }

/-- A load with no transaction in flight and no shorter move timeout writes the segment alone. -/
theorem loadSegment_free {g : Seg} {x : SegSettings} {s : State} (hfree : (s.seg g).txn = none)
    (hmove : (s.seg g).settings.moveTimeout ≤ x.moveTimeout) :
    loadSegment g x s = { s with segs := s.segs.put g (segmentLoaded g x s) } := by
  have hlowered : decide (x.moveTimeout < (s.seg g).settings.moveTimeout) = false := decide_eq_false (Nat.not_lt.mpr hmove)
  have hrate : rateAfterLoad (s.seg g) x = if x = (s.seg g).settings then (s.seg g).rateInForce else x.rate := by
    unfold rateAfterLoad
    by_cases hx : x = (s.seg g).settings <;> simp [hx, hfree]
  unfold loadSegment
  dsimp only
  rw [hlowered, if_neg Bool.false_ne_true]
  unfold writeSegment State.modSeg
  unfold segmentLoaded
  rw [← hrate]
  have hkept : (s.segs.get g).txn = none := hfree
  dsimp only
  rw [hkept, hfree]
  rfl

/-- Settles O9: LOAD SITE through `siteWritten` and `loadSite_follows`, LOAD SEGMENT through `loadSegment_free`. -/
theorem loadSiteAndLoadSegmentWriteTheSettings : Obligations.LoadSiteAndLoadSegmentWriteTheSettings := by
  unfold Obligations.LoadSiteAndLoadSegmentWriteTheSettings
  refine ⟨⟨⟨fun p x => parseSite_inRange, fun x => parseSite_bytes⟩, fun p g x => parseSegment_inRange,
    fun g _ => parseSegment_bytes g⟩, ⟨fun s f rest h hk => ⟨fun hp => ?_, fun x hp => ⟨?_, fun hsilence hlost hfault hoff => ?_⟩⟩,
    fun s f rest x start h hk hp hrole hstart hsilence hdue => ?_⟩, fun s f rest h hk => ⟨fun hp => ?_,
    fun g x hp hfree hmove => ?_⟩⟩
  · exact Row.loadSite.exec_refuse h hk (by unfold runLoadSite; rw [hp]) (by decide)
  · obtain ⟨k, hexec⟩ := exec_loadSite h hk hp
    have stands := loadSite_stands x (beginExecution s)
    have inner := inner_tripsChanged (d := False) (beginExecution s).combination (siteWritten x (beginExecution s))
    refine ⟨_, hexec, stands.site.trans inner.keeps.site, stands.limits.trans inner.keeps.limits,
      (loadSite_follows x (beginExecution s)).of_begin.of_link k, fun k => ?_⟩
    exact (congrArg (fun p => p.get k) (stands.trips.trans inner.trips)).trans (siteWritten_trips x (beginExecution s) k)
  · have hload : loadSite x (beginExecution s) = siteWritten x (beginExecution s) := loadSite_quiet hsilence hlost hfault hoff
    have hthree : f.isKind 4 = false := PlantFrame.isKind_eq_false hk (by decide)
    have hexec : exec .loadSite s = .next ((siteWritten x s).answer f rest .accepted none) := by
      refine Row.loadSite.exec_answer (u := siteWritten x s) h hk h ?_ (.inr hthree)
      rw [runLoadSite_some hp, hload]
      rfl
    refine ⟨_, hexec, rfl, siteWritten_balancer x s, fun k => (siteWritten_trips x s k).trans ?_⟩
    split
    · rfl
    · next hk => exact if_neg ((hoff k).resolve_left hk)
  · obtain ⟨k, hexec⟩ := exec_loadSite h hk hp
    have inner := inner_tripsChanged (d := False) (beginExecution s).combination (siteWritten x (beginExecution s))
    have stands := loadSite_stands x (beginExecution s)
    have hchanged : ¬ x.silence = (beginExecution s).site.silence := hsilence
    have htaken : loadSite x (beginExecution s) =
        takeover (tripsChanged (beginExecution s).combination (siteWritten x (beginExecution s))) := by
      rw [loadSite_eq, if_neg hchanged]
      refine silenceAtLoad_expired ((congrArg RoleUnit.role inner.unit).trans hrole)
        ((congrArg RoleUnit.silenceStart inner.unit).trans hstart) ?_
      unfold State.silenceInForce
      rw [inner.unit, inner.keeps.site, inner.timeBase]
      exact hdue
    have hunit := congrArg State.unit htaken
    rw [takeover_unit] at hunit
    exact ⟨_, hexec, congrArg RoleUnit.role hunit, congrArg RoleUnit.silenceStart hunit, stands.site.trans inner.keeps.site⟩
  · exact Row.loadSegment.exec_refuse h hk (by unfold runLoadSegment; rw [hp]) (by decide)
  · have hthree : f.isKind 4 = false := PlantFrame.isKind_eq_false hk (by decide)
    intro after
    refine Row.loadSegment.exec_answer (u := { s with segs := s.segs.put g (segmentLoaded g x s) }) h hk h ?_ (.inr hthree)
    rw [runLoadSegment_some hp, loadSegment_free (s := beginExecution s) hfree hmove]
    rfl

end Sys2Proof.Machine
end

section
/-! PROOF. What the operations on other slots leave of one slot's record and entries. -/

-- One theorem at a time: the one-text build of the package runs out of threads otherwise.
set_option Elab.async false

namespace Sys2Proof.Machine

/-! ## The entries of one slot -/

/-- The entries a queue holds for slot `i`. -/
def entriesOf (i : Slot) (queue : List Entry) : List Entry := queue.filter fun e => decide (e.slot = i)

theorem mem_entriesOf {i : Slot} {queue : List Entry} {e : Entry} : e ∈ entriesOf i queue ↔ e ∈ queue ∧ e.slot = i := by
  simp [entriesOf]

theorem Segment.entryOf_eq_head? (q : Segment) (i : Slot) : q.entryOf i = (entriesOf i q.queue).head? := by
  rw [Segment.entryOf, entriesOf, List.head?_filter]

theorem Segment.entryOf_eq_none_iff {q : Segment} {i : Slot} : q.entryOf i = none ↔ entriesOf i q.queue = [] := by
  rw [Segment.entryOf_eq_head?, List.head?_eq_none_iff]

theorem entriesOf_dropSlot_self (i : Slot) (queue : List Entry) : entriesOf i (dropSlot i queue) = [] := by
  unfold entriesOf dropSlot
  simp

theorem entriesOf_dropSlot {i j : Slot} (h : j ≠ i) (queue : List Entry) : entriesOf i (dropSlot j queue) = entriesOf i queue := by
  unfold entriesOf dropSlot
  rw [List.filter_filter]
  refine List.filter_congr fun e _ => ?_
  by_cases he : e.slot = i
  · simp [he, Ne.symm h]
  · simp [he]

theorem entriesOf_joinProt {i : Slot} {e : Entry} (h : e.slot ≠ i) (queue : List Entry) :
    entriesOf i (joinProt e queue) = entriesOf i queue := by
  have hsplit := congrArg (entriesOf i) (List.takeWhile_append_dropWhile (p := (·.isProt)) (l := queue))
  unfold entriesOf joinProt at *
  rw [List.filter_append] at hsplit ⊢
  rw [List.filter_cons_of_neg (by simpa using h)]
  exact hsplit

theorem entriesOf_joinProt_self {e : Entry} {queue : List Entry} (h : entriesOf e.slot queue = []) :
    entriesOf e.slot (joinProt e queue) = [e] := by
  have hsplit := congrArg (entriesOf e.slot) (List.takeWhile_append_dropWhile (p := (·.isProt)) (l := queue))
  rw [h] at hsplit
  unfold entriesOf joinProt at *
  rw [List.filter_append, List.append_eq_nil_iff] at hsplit
  rw [List.filter_append, hsplit.1, List.filter_cons_of_pos (by simp), hsplit.2]
  rfl

theorem entriesOf_replaceSlot {i j : Slot} {e : Entry} (h : j ≠ i) (he : e.slot ≠ i) (queue : List Entry) :
    entriesOf i (replaceSlot j e queue) = entriesOf i queue := by
  induction queue with
  | nil => rfl
  | cons x rest ih =>
    unfold entriesOf replaceSlot at *
    by_cases hx : x.slot = j
    · have hxi : x.slot ≠ i := hx ▸ h
      simp only [List.map_cons, if_pos hx]
      rw [List.filter_cons_of_neg (by simpa using he), List.filter_cons_of_neg (by simpa using hxi), ih]
    · simp only [List.map_cons, if_neg hx, List.filter_cons]
      rw [ih]

theorem entriesOf_append {i : Slot} {e : Entry} (h : e.slot ≠ i) (queue : List Entry) :
    entriesOf i (queue ++ [e]) = entriesOf i queue := by
  unfold entriesOf
  rw [List.filter_append, List.filter_cons_of_neg (by simpa using h)]
  simp

theorem lastEvictable_other {queue : List Entry} {v : Entry} (h : lastEvictable queue = some v) : v ∈ queue ∧ v.isProt = false := by
  have hmem := List.mem_of_getLast? h
  simp only [List.mem_filter, Bool.and_eq_true, Bool.not_eq_true'] at hmem
  exact ⟨hmem.1, hmem.2.1⟩

/-! ## Apart from one slot -/

/-- From `s` to `t` slot `i` keeps its record, and each queue in which all its entries are PROTECTIVE keeps them. -/
structure Apart (i : Slot) (s t : State) : Prop where
  well : t.well i = s.well i
  queued : ∀ g, (∀ e ∈ entriesOf i (s.seg g).queue, e.isProt = true) →
    entriesOf i (t.seg g).queue = entriesOf i (s.seg g).queue

namespace Apart

variable {i j : Slot}

theorem refl (s : State) : Apart i s s := ⟨rfl, fun _ _ => rfl⟩

theorem trans {s t u : State} (a : Apart i s t) (b : Apart i t u) : Apart i s u :=
  ⟨b.well.trans a.well, fun g h => by
    have first := a.queued g h
    exact (b.queued g (first ▸ h)).trans first⟩

theorem of_same {s t : State} (wells : t.wells = s.wells) (segs : t.segs = s.segs) : Apart i s t :=
  ⟨by unfold State.well; rw [wells], fun g _ => by unfold State.seg; rw [segs]⟩

/-- A slot without entries stays without. -/
theorem absent {s t : State} (a : Apart i s t) {g : Seg} (h : entriesOf i (s.seg g).queue = []) :
    entriesOf i (t.seg g).queue = [] := by
  rw [a.queued g (by simp [h]), h]

end Apart

variable {i j : Slot}

theorem Reports.apart {s t : State} (h : Reports s t) : Apart i s t := by
  rw [h]
  exact .of_same rfl rfl

theorem apart_putWell (s : State) (w : Option Well) (h : j ≠ i) : Apart i s (putWell s j w) :=
  ⟨by rw [putWell_well, if_neg h.symm], fun g _ => by rw [putWell_seg]⟩

theorem apart_modWell (s : State) (f : Well → Well) (h : j ≠ i) : Apart i s (modWell s j f) := by
  unfold modWell
  split
  · exact apart_putWell s _ h
  · exact .refl s

theorem apart_setPending (p : Option PendingProt) (s : State) (h : j ≠ i) : Apart i s (setPending j p s) := apart_modWell s _ h

theorem apart_endBalancing (r : Ending) (s : State) : Apart i s (endBalancing r s) := by
  unfold endBalancing
  split
  · exact .of_same rfl rfl
  · exact .refl s

theorem apart_leaveEffects (e : Entry) (s : State) : Apart i s (leaveEffects e s) := by
  unfold leaveEffects
  split
  · exact apart_endBalancing _ _
  · exact .refl s

theorem apart_modSeg {s : State} {g : Seg} {f : Segment → Segment}
    (h : (∀ e ∈ entriesOf i (s.seg g).queue, e.isProt = true) → entriesOf i (f (s.seg g)).queue = entriesOf i (s.seg g).queue) :
    Apart i s (s.modSeg g f) := by
  refine ⟨rfl, fun k hk => ?_⟩
  rw [State.seg_modSeg]
  split
  · next e => subst e; exact h hk
  · rfl

theorem apart_protEnter {g : Seg} {e : Entry} {s t : State} (he : e.slot ≠ i) (h : protEnter g e s = some t) : Apart i s t := by
  unfold protEnter at h
  split at h
  · cases h
    exact apart_modSeg fun _ => entriesOf_joinProt he _
  · split at h
    · next v hv =>
      cases h
      refine (apart_modSeg fun hprot => ?_).trans (apart_leaveEffects _ _)
      obtain ⟨hmem, hnot⟩ := lastEvictable_other hv
      have hvi : v.slot ≠ i := fun hvi => by
        rw [hprot v (mem_entriesOf.mpr ⟨hmem, hvi⟩)] at hnot
        exact nomatch hnot
      exact (entriesOf_joinProt he _).trans (entriesOf_dropSlot hvi _)
    · exact nomatch h

theorem apart_protReplace (g : Seg) (old : Entry) {e : Entry} (s : State) (he : e.slot ≠ i) :
    Apart i s (protReplace g old e s) := by
  refine (apart_modSeg fun _ => ?_).trans (apart_leaveEffects _ _)
  dsimp only
  split
  · exact entriesOf_replaceSlot he he _
  · exact (entriesOf_joinProt he _).trans (entriesOf_dropSlot he _)

/-- The examination of the pending protective fields passes a slot by whose field is empty. -/
theorem apart_examineFrom (g : Seg) (slots : List Slot) {s : State} (h : (s.well i).bind (·.pendingProt) = none) :
    Apart i s (examineFrom g slots s) := by
  induction slots generalizing s with
  | nil => exact .refl s
  | cons j rest ih =>
    have onward {u : State} (a : Apart i s u) : Apart i s (examineFrom g rest u) := a.trans (ih (by rw [a.well]; exact h))
    unfold examineFrom
    split
    · exact onward (.refl s)
    · next w hw =>
      split
      · split
        · exact onward (.refl s)
        · next p hp =>
          have hj : j ≠ i := fun hj => by
            rw [← hj, hw] at h
            exact nomatch hp.symm.trans h
          dsimp only
          split
          · exact onward ((apart_protReplace g _ s hj).trans (apart_setPending none _ hj))
          · split
            · next u hu => exact onward ((apart_protEnter hj hu).trans (apart_setPending none u hj))
            · exact .refl s
      · exact onward (.refl s)

theorem apart_examinePending (g : Seg) {s : State} (h : (s.well i).bind (·.pendingProt) = none) :
    Apart i s (examinePending g s) := by
  unfold examinePending
  split
  · exact apart_examineFrom g _ h
  · exact .refl s

theorem apart_departed (g : Seg) (e : Entry) {s : State} (h : (s.well i).bind (·.pendingProt) = none) :
    Apart i s (departed g e s) := by
  have a : Apart i s (leaveEffects e s) := apart_leaveEffects e s
  exact a.trans (apart_examinePending g (by rw [a.well]; exact h))

theorem apart_arriveOther {s : State} (h : (s.well i).bind (·.pendingProt) = none) (hj : j ≠ i) (target : Nat) (outlet : Line)
    (cls : Cls) : Apart i s (arriveOther j target outlet cls s) := by
  unfold arriveOther
  split
  · exact .refl s
  · dsimp only
    split
    · split
      · exact apart_leaveEffects _ _
      · refine (apart_modSeg fun _ => entriesOf_replaceSlot hj hj _).trans (apart_departed _ _ h)
    · split
      · exact apart_modSeg fun _ => entriesOf_append hj _
      · exact (apart_modSeg fun _ => rfl).trans (apart_departed _ _ h)

/-! ## The balancing pass chooses contributors -/

theorem State.candidate_contributes {s : State} {j : Slot} {l : Line} (h : s.candidate j l = true) : (s.contribOf j).isSome = true := by
  unfold State.candidate at h
  split at h
  · simp only [Bool.and_eq_true] at h
    exact h.1.1.1.1.1
  · exact nomatch h

theorem bestO2_mem {cs : List Contrib} {c : Contrib} (h : bestO2 cs = some c) : c ∈ cs := by
  induction cs generalizing c with
  | nil => exact nomatch h
  | cons d rest ih =>
    unfold bestO2 at h
    split at h
    · next e he =>
      split at h
      · cases h
        exact List.mem_cons_self
      · cases h
        exact List.mem_cons_of_mem d (ih he)
    · cases h
      exact List.mem_cons_self

theorem State.actionO2_candidate {s : State} {b : BalMove} (h : s.actionO2 = some b) : s.candidate b.slot .flare = true := by
  unfold State.actionO2 at h
  split at h
  · split at h
    · obtain ⟨c, hc, rfl⟩ := Option.map_eq_some_iff.mp h
      have hmem := (List.mem_filter.mp (bestO2_mem hc)).2
      simp only [Bool.and_eq_true] at hmem
      exact hmem.2
    · exact nomatch h
  · exact nomatch h

theorem State.actionLow_candidate {s : State} {b : BalMove} (h : s.actionLow = some b) : s.candidate b.slot .flare = true := by
  unfold State.actionLow at h
  split at h
  · split at h
    · obtain ⟨j, hj, rfl⟩ := Option.map_eq_some_iff.mp h
      have hfound := List.find?_some hj
      simp only [Bool.and_eq_true] at hfound
      exact hfound.2
    · exact nomatch h
  · exact nomatch h

theorem State.actionPromote_candidate {s : State} {b : BalMove} (h : s.actionPromote = some b) :
    s.candidate b.slot .engine = true := by
  unfold State.actionPromote at h
  split at h
  · obtain ⟨j, hj, rfl⟩ := Option.map_eq_some_iff.mp h
    have hfound := List.find?_some hj
    simp only [Bool.and_eq_true] at hfound
    exact hfound.1.2
  · exact nomatch h

theorem State.actionThrottle_candidate {s : State} {b : BalMove} (h : s.actionThrottle = some b) :
    s.candidate b.slot .flare = true := by
  unfold State.actionThrottle at h
  split at h
  · split at h
    · obtain ⟨j, hj, rfl⟩ := Option.map_eq_some_iff.mp h
      have hfound := List.find?_some hj
      simp only [Bool.and_eq_true] at hfound
      exact hfound.2
    · exact nomatch h
  · exact nomatch h

theorem State.chooseBalance_cases {s : State} {b : BalMove} (h : s.chooseBalance = some b) :
    s.actionO2 = some b ∨ s.actionLow = some b ∨ s.actionPromote = some b ∨ s.actionThrottle = some b := by
  unfold State.chooseBalance at h
  cases h1 : s.actionO2 with
  | some c => rw [h1] at h; exact .inl h
  | none =>
    cases h2 : s.actionLow with
    | some c => rw [h1, h2] at h; exact .inr (.inl h)
    | none =>
      cases h3 : s.actionPromote with
      | some c => rw [h1, h2, h3] at h; exact .inr (.inr (.inl h))
      | none => rw [h1, h2, h3] at h; exact .inr (.inr (.inr h))

theorem State.chooseBalance_contributes {s : State} {b : BalMove} (h : s.chooseBalance = some b) :
    (s.contribOf b.slot).isSome = true := by
  rcases State.chooseBalance_cases h with h | h | h | h
  · exact State.candidate_contributes (State.actionO2_candidate h)
  · exact State.candidate_contributes (State.actionLow_candidate h)
  · exact State.candidate_contributes (State.actionPromote_candidate h)
  · exact State.candidate_contributes (State.actionThrottle_candidate h)

/-- A slot without a sample is no contributor. -/
theorem State.contribOf_last_none {s : State} (h : (s.well i).bind (·.last) = none) : s.contribOf i = none := by
  unfold State.contribOf
  rw [h]

/-! ## Evaluations pass by a slot that has neither a sample nor a pending protective field -/

/-- Slot `i` has neither a sample nor a pending protective field. -/
structure Idle (i : Slot) (s : State) : Prop where
  last : (s.well i).bind (·.last) = none
  pending : (s.well i).bind (·.pendingProt) = none

theorem Idle.of_apart {s t : State} (h : Idle i s) (a : Apart i s t) : Idle i t :=
  ⟨by rw [a.well]; exact h.last, by rw [a.well]; exact h.pending⟩

theorem apart_balancingPass {s : State} (h : Idle i s) : Apart i s (balancingPass s) := by
  unfold balancingPass
  split
  · next b hb =>
    have hj : b.slot ≠ i := fun hj => by
      have hc := State.chooseBalance_contributes hb
      rw [hj, State.contribOf_last_none h.last] at hc
      exact nomatch hc
    have a : Apart i s (s.modBalancer fun x => { x with move := some b }) := .of_same rfl rfl
    exact a.trans (apart_arriveOther (h.of_apart a).pending hj _ _ _)
  · exact .refl s

theorem apart_evaluateLine (l : Line) {s : State} (h : Idle i s) : Apart i s (evaluateLine l s) := by
  have a : Apart i s (s.setLine l (s.lineRecordOf l)) := .of_same rfl rfl
  have treated := a.trans (reports_treatLine l (s.lineRecordOf l) _).apart
  unfold evaluateLine
  dsimp only
  split
  · exact treated.trans (apart_balancingPass (h.of_apart treated))
  · exact treated

theorem apart_runEvals {s : State} (h : Idle i s) : Apart i s (runEvals s) := by
  have start : Apart i s { s with evalAsked := .all false } := .of_same rfl rfl
  have engine : Apart i s (if s.evalAsked.engine then evaluateLine .engine { s with evalAsked := .all false }
      else { s with evalAsked := .all false }) := by
    split
    · exact start.trans (apart_evaluateLine _ (h.of_apart start))
    · exact start
  unfold runEvals
  dsimp only
  split
  · exact engine.trans (apart_evaluateLine _ (h.of_apart engine))
  · exact engine

end Sys2Proof.Machine
end

section
/-! PROOF. LOAD WELL on a working slot (O13): parked with its whole record, or changed while it works. -/

-- One theorem at a time: the one-text build of the package runs out of threads otherwise.
set_option Elab.async false

namespace Sys2Proof.Machine

/-! ## The PROTECTIVE command of a slot -/

theorem isProt_iff {e : Entry} : e.isProt = true ↔ e.cls = .protective := decide_eq_true_iff

theorem protEntryOf_some {s : State} {i : Slot} {w : Well} {e : Entry} (hw : s.well i = some w)
    (he : (s.seg w.cfg.seg).entryOf i = some e) (hp : e.cls = .protective) : s.protEntryOf i = some e := by
  unfold State.protEntryOf
  rw [entryOf_of_well hw, he, Option.filter_some, hp]
  rfl

theorem protCommand_of_entry {s : State} {i : Slot} {w : Well} {e : Entry} (hw : s.well i = some w)
    (he : (s.seg w.cfg.seg).entryOf i = some e) (hp : e.cls = .protective) :
    s.protCommand i = some ⟨e.target, e.outlet⟩ := by
  unfold State.protCommand
  rw [protEntryOf_some hw he hp]

theorem protCommand_of_pending {s : State} {i : Slot} {w : Well} (hw : s.well i = some w)
    (he : (s.seg w.cfg.seg).entryOf i = none) : s.protCommand i = w.pendingProt := by
  unfold State.protCommand State.protEntryOf
  rw [entryOf_of_well hw, he, hw]
  rfl

/-- A PROTECTIVE entry of the slot stands, whatever the examination of the other slots brings. -/
theorem protCommand_apart {s t : State} {i : Slot} {w : Well} {e : Entry} (a : Apart i s t) (hw : s.well i = some w)
    (hentries : ∀ x ∈ entriesOf i (s.seg w.cfg.seg).queue, x.isProt = true)
    (he : (s.seg w.cfg.seg).entryOf i = some e) : t.protCommand i = some ⟨e.target, e.outlet⟩ := by
  have hhead : (entriesOf i (s.seg w.cfg.seg).queue).head? = some e := (Segment.entryOf_eq_head? _ _).symm.trans he
  have hprot := isProt_iff.mp (hentries e (List.mem_of_head? hhead))
  refine protCommand_of_entry (a.well.trans hw) ?_ hprot
  rw [Segment.entryOf_eq_head?, a.queued _ hentries, hhead]

theorem setPending_well {s : State} {i : Slot} {w : Well} (hw : s.well i = some w) (p : Option PendingProt) :
    (setPending i p s).well i = some { w with pendingProt := p } := by
  unfold setPending
  rw [modWell_well, hw, Option.map_some, if_pos rfl]

theorem setPending_seg (i : Slot) (p : Option PendingProt) (s : State) (g : Seg) : (setPending i p s).seg g = s.seg g := by
  unfold setPending modWell
  split
  · rw [putWell_seg]
  · rfl

theorem leaveEffects_seg (e : Entry) (s : State) (g : Seg) : (leaveEffects e s).seg g = s.seg g := by
  unfold State.seg
  rw [leaveEffects_segs]

/-- The queue of a protective arrival holds its entry alone for the slot. -/
theorem protEnter_entries {s t : State} {g : Seg} {e : Entry} (h : protEnter g e s = some t)
    (he : entriesOf e.slot (s.seg g).queue = []) : entriesOf e.slot (t.seg g).queue = [e] := by
  unfold protEnter at h
  split at h
  · cases h
    rw [State.seg_modSeg, if_pos rfl]
    exact entriesOf_joinProt_self he
  · split at h
    · next v hv =>
      cases h
      have hvi : v.slot ≠ e.slot := fun hvi => by
        have hmem : v ∈ entriesOf e.slot (s.seg g).queue := mem_entriesOf.mpr ⟨lastEvictable_mem hv, hvi⟩
        rw [he] at hmem
        exact nomatch hmem
      have hdropped : entriesOf e.slot (dropSlot v.slot (s.seg g).queue) = [] := (entriesOf_dropSlot hvi _).trans he
      rw [leaveEffects_seg, State.seg_modSeg, if_pos rfl]
      exact entriesOf_joinProt_self hdropped
    · exact nomatch h

theorem protEnter_well {s t : State} {g : Seg} {e : Entry} (h : protEnter g e s = some t) (j : Slot) : t.well j = s.well j := by
  unfold protEnter at h
  split at h
  · cases h
    rfl
  · split at h
    · cases h
      rw [leaveEffects_well]
      rfl
    · exact nomatch h

/-- A protective arrival for a well without an entry leaves its command, in the queue or in the pending field. -/
theorem arriveProt_protCommand {s : State} {i : Slot} {w : Well} {n : Nat} {o : Line} (hw : s.well i = some w)
    (he : (s.seg w.cfg.seg).entryOf i = none) : (arriveProt i n o s).protCommand i = some ⟨n, o⟩ := by
  have held : (setPending i (some ⟨n, o⟩) s).protCommand i = some ⟨n, o⟩ :=
    protCommand_of_pending (setPending_well hw _) (by rw [setPending_seg]; exact he)
  unfold arriveProt
  rw [hw]
  dsimp only
  rw [he]
  split
  · exact held
  · dsimp only
    split
    · exact held
    · split
      · next u hu =>
        have hentries : entriesOf i (u.seg w.cfg.seg).queue = [⟨i, n, o, .protective, false⟩] :=
          protEnter_entries hu (Segment.entryOf_eq_none_iff.mp he)
        have hentered : entriesOf i ((setPending i none u).seg w.cfg.seg).queue = [⟨i, n, o, .protective, false⟩] := by
          rw [setPending_seg]; exact hentries
        have hwell : (setPending i none u).well i = some { w with pendingProt := none } :=
          setPending_well ((protEnter_well hu i).trans hw) none
        have commanded {t : State} (a : Apart i (setPending i none u) t) : t.protCommand i = some ⟨n, o⟩ :=
          protCommand_apart (e := ⟨i, n, o, .protective, false⟩) a hwell
            (fun x hx => by rw [hentered] at hx; exact List.mem_singleton.mp hx ▸ rfl)
            (by rw [Segment.entryOf_eq_head?]; exact congrArg List.head? hentered)
        split
        · exact commanded (.refl _)
        · exact commanded (apart_examinePending _ (by rw [hwell]; rfl))
      · exact held

/-- With room the arrival joins the protective group, and the record loses its pending field. -/
theorem arriveProt_joins_room {s : State} {i : Slot} {w : Well} {n : Nat} {o : Line} (hduty : s.isDuty = true)
    (hw : s.well i = some w) (he : (s.seg w.cfg.seg).entryOf i = none) (hans : w.answering = true)
    (hroom : (s.seg w.cfg.seg).queue.length < 16) :
    arriveProt i n o s = setPending i none (s.modSeg w.cfg.seg fun q =>
      { q with queue := joinProt ⟨i, n, o, .protective, false⟩ q.queue }) := by
  have hroom' : (s.seg w.cfg.seg).queue.length < Config.queueCap := hroom
  unfold arriveProt protEnter
  rw [hw]
  dsimp only
  rw [he, hduty, hans]
  dsimp only
  simp only [if_pos hroom', Bool.not_true, Bool.false_eq_true, if_false]

/-! ## Parking (R25) -/

/-- The removal of the entry of a slot whose pending field is empty leaves its record, and no entry. -/
theorem removeEntry_takes (g : Seg) {i : Slot} {s : State} (h : (s.well i).bind (·.pendingProt) = none) :
    (removeEntry g i s).well i = s.well i ∧ entriesOf i ((removeEntry g i s).seg g).queue = [] := by
  unfold removeEntry
  split
  · next e _ =>
    have a : Apart i (s.modSeg g fun q => { q with queue := dropSlot i q.queue })
        (departed g e (s.modSeg g fun q => { q with queue := dropSlot i q.queue })) := apart_departed g e h
    refine ⟨a.well, a.absent ?_⟩
    rw [State.seg_modSeg, if_pos rfl]
    exact entriesOf_dropSlot_self _ _
  · next he => exact ⟨rfl, Segment.entryOf_eq_none_iff.mp he⟩

theorem withdrawSlot_waiting {i : Slot} {s : State} {r : CondRec} (h : r ∈ (withdrawSlot i s).conds.waiting) :
    r.source ≠ i.val := by
  have withdrawn {x : CondRec} (hx : x ∈ s.conds.waiting.filter fun r => !decide (r.source = i.val)) : x.source ≠ i.val := by
    simpa using (List.mem_filter.mp hx).2
  unfold withdrawSlot at h
  dsimp only at h
  split at h
  · exact withdrawn (evalTaking_waiting h)
  · exact withdrawn h

/-- The state of a parking when the record has been cleared. -/
def parkStart (i : Slot) (w : Well) (c : WellCfg) (s : State) : State :=
  putWell (forgetPoll i s) i (some (Well.fresh c w.outlet))

theorem park_eq (i : Slot) (w : Well) (c : WellCfg) (s : State) :
    park i w c s = withdrawSlot i (runEvals (removeEntry c.seg i (parkStart i w c s))) := rfl

theorem parkStart_well (i : Slot) (w : Well) (c : WellCfg) (s : State) :
    (parkStart i w c s).well i = some (Well.fresh c w.outlet) := by
  unfold parkStart
  rw [putWell_well, if_pos rfl]

theorem park_removed (i : Slot) (w : Well) (c : WellCfg) (s : State) :
    (removeEntry c.seg i (parkStart i w c s)).well i = some (Well.fresh c w.outlet) ∧
      entriesOf i ((removeEntry c.seg i (parkStart i w c s)).seg c.seg).queue = [] := by
  have hstart := parkStart_well i w c s
  obtain ⟨hwell, hnone⟩ := removeEntry_takes c.seg (i := i) (s := parkStart i w c s) (by rw [hstart]; rfl)
  exact ⟨hwell.trans hstart, hnone⟩

theorem park_apart (i : Slot) (w : Well) (c : WellCfg) (s : State) :
    Apart i (removeEntry c.seg i (parkStart i w c s)) (park i w c s) := by
  have hwell := (park_removed i w c s).1
  rw [park_eq]
  exact (apart_runEvals ⟨by rw [hwell]; rfl, by rw [hwell]; rfl⟩).trans (reports_withdrawSlot i _).apart

theorem park_well (i : Slot) (w : Well) (c : WellCfg) (s : State) :
    (park i w c s).well i = some (Well.fresh c w.outlet) := (park_apart i w c s).well.trans (park_removed i w c s).1

theorem park_entryOf (i : Slot) (w : Well) (c : WellCfg) (s : State) : (park i w c s).entryOf i = none := by
  rw [entryOf_of_well (park_well i w c s)]
  exact Segment.entryOf_eq_none_iff.mpr ((park_apart i w c s).absent (park_removed i w c s).2)

theorem park_waiting {i : Slot} {w : Well} {c : WellCfg} {s : State} {r : CondRec} (h : r ∈ (park i w c s).conds.waiting) :
    r.source ≠ i.val := withdrawSlot_waiting h

theorem park_settled (i : Slot) (w : Well) (c : WellCfg) (s : State) : Settled (park i w c s) :=
  (inner_withdrawSlot (d := False) i _).settled (settled_runEvals _)

/-- From the cleared record on, parking leaves the keys and the segments' transactions. -/
theorem park_inner (i : Slot) (w : Well) (c : WellCfg) (s : State) :
    (∀ j, ((park i w c s).well j).map Well.key = ((parkStart i w c s).well j).map Well.key) ∧
      ∀ g, ((park i w c s).seg g).core = ((parkStart i w c s).seg g).core := by
  have removed := inner_removeEntry (d := False) c.seg i (parkStart i w c s)
  have evaluated := inner_runEvals (d := False) (removeEntry c.seg i (parkStart i w c s))
  have withdrawn := inner_withdrawSlot (d := False) i (runEvals (removeEntry c.seg i (parkStart i w c s)))
  exact ⟨fun j => ((withdrawn.key j).trans (evaluated.key j)).trans (removed.key j),
    fun g => ((withdrawn.core g).trans (evaluated.core g)).trans (removed.core g)⟩

theorem park_key {i j : Slot} (h : j ≠ i) (w : Well) (c : WellCfg) (s : State) :
    ((park i w c s).well j).map Well.key = (s.well j).map Well.key := by
  rw [(park_inner i w c s).1 j, parkStart, putWell_well, if_neg h, forgetPoll_well]

theorem park_txn {i : Slot} {w : Well} {c : WellCfg} {s : State} {g : Seg} {y : Txn} (h : ((park i w c s).seg g).txn = some y) :
    y.slot ≠ some i := by
  have hcore := congrArg (fun q => q.2.2.2.2.1) ((park_inner i w c s).2 g)
  have hforgot : ((parkStart i w c s).seg g).txn =
      (s.seg g).txn.map fun t => if t.slot = some i then { t with slot := none } else t := by
    unfold parkStart
    rw [putWell_seg]
    unfold State.seg forgetPoll
    rw [PerSeg.get_map]
  obtain ⟨x, -, rfl⟩ := Option.map_eq_some_iff.mp (hforgot.symm.trans (hcore.symm.trans h))
  split
  · exact nofun
  · next hx => exact hx

/-! ## The live change (R22 to R24) -/

/-- The record a change of range leaves: the new configuration, and the pending field clamped. -/
def Well.ranged (w : Well) (c : WellCfg) : Well :=
  { w with cfg := c, pendingProt := w.pendingProt.map fun p => { p with target := clampNat c.pmin c.pmax p.target } }

/-- The queue a change of range leaves. -/
def rangedQueue (i : Slot) (c : WellCfg) (queue : List Entry) : List Entry :=
  queue.map fun e =>
    if e.slot = i ∧ clampNat c.pmin c.pmax e.target ≠ e.target then
      { e with target := clampNat c.pmin c.pmax e.target, sent := false }
    else e

/-- The state of a change of range behind its two clamps. -/
def rangeClamped (i : Slot) (w : Well) (c : WellCfg) (s : State) : State :=
  clampPending i c (clampEntry i c (putWell s i (some { w with cfg := c })))

theorem liveChange_range {i : Slot} {w : Well} {c : WellCfg} {s : State} (h : c.pmin ≠ w.cfg.pmin ∨ c.pmax ≠ w.cfg.pmax) :
    liveChange i w c s = rangeChangeSet i (rangeClamped i w c s) := by
  have hnot : ¬ (c.pmin = w.cfg.pmin ∧ c.pmax = w.cfg.pmax) := fun e => h.elim (· e.1) (· e.2)
  unfold liveChange
  exact if_neg hnot

theorem liveChange_same_range {i : Slot} {w : Well} {c : WellCfg} {s : State} (h : c.pmin = w.cfg.pmin ∧ c.pmax = w.cfg.pmax) :
    liveChange i w c s = putWell s i (some { w with cfg := c }) := by
  unfold liveChange
  exact if_pos h

theorem rosterLine_cfg {w : Well} {c : WellCfg} (h : c.inService = w.cfg.inService) :
    rosterLine (some { w with cfg := c }) = rosterLine (some w) := by
  rw [rosterLine_some, rosterLine_some]
  dsimp only
  rw [h]

theorem putWell_cfg {i : Slot} {w : Well} {c : WellCfg} {s : State} (hw : s.well i = some w) (h : c.inService = w.cfg.inService) :
    putWell s i (some { w with cfg := c }) =
      { s with wells := (putWell s i (some { w with cfg := c })).wells, rosters := (putWell s i (some { w with cfg := c })).rosters } := by
  rw [putWell_of_line (by rw [hw]; exact (rosterLine_cfg h).symm)]

theorem rangeClamped_frame {i : Slot} {w : Well} {c : WellCfg} {s : State} (hw : s.well i = some w)
    (h : c.inService = w.cfg.inService) :
    rangeClamped i w c s =
      { s with
        wells := (rangeClamped i w c s).wells
        rosters := (rangeClamped i w c s).rosters
        segs := s.segs.put c.seg { s.seg c.seg with queue := rangedQueue i c (s.seg c.seg).queue } } := by
  have hqueue : (fun e : Entry => if e.slot = i && !decide (clampNat c.pmin c.pmax e.target = e.target) then
      { e with target := clampNat c.pmin c.pmax e.target, sent := false } else e) = fun e =>
      if e.slot = i ∧ clampNat c.pmin c.pmax e.target ≠ e.target then
        { e with target := clampNat c.pmin c.pmax e.target, sent := false } else e := by
    funext e
    simp
  have pending := modWell_frame (clampEntry i c (putWell s i (some { w with cfg := c }))) i
    (fun w => { w with pendingProt := w.pendingProt.map fun p => { p with target := clampNat c.pmin c.pmax p.target } }) fun _ => rfl
  have hclamp : clampEntry i c (putWell s i (some { w with cfg := c })) =
      { s with
        wells := (putWell s i (some { w with cfg := c })).wells
        rosters := (putWell s i (some { w with cfg := c })).rosters
        segs := s.segs.put c.seg { s.seg c.seg with queue := rangedQueue i c (s.seg c.seg).queue } } := by
    rw [putWell_cfg hw h]
    unfold clampEntry rangedQueue
    rw [hqueue]
    rfl
  rw [hclamp] at pending
  refine Eq.trans ?_ (pending.trans ?_)
  · unfold rangeClamped clampPending
    rw [hclamp]
  · unfold rangeClamped clampPending
    rw [hclamp]

theorem rangeClamped_well (i : Slot) (w : Well) (c : WellCfg) (s : State) (j : Slot) :
    (rangeClamped i w c s).well j = if j = i then some (w.ranged c) else s.well j := by
  unfold rangeClamped clampPending
  have hclamp : (clampEntry i c (putWell s i (some { w with cfg := c }))).well j =
      (putWell s i (some { w with cfg := c })).well j := rfl
  rw [modWell_well, hclamp, putWell_well]
  by_cases hj : j = i
  · simp only [if_pos hj, Option.map_some]
    rfl
  · simp only [if_neg hj]
    cases s.well j <;> rfl

end Sys2Proof.Machine
end

section
/-! PROOF. LOAD WELL on a working slot (O13), executed. -/

-- One theorem at a time: the one-text build of the package runs out of threads otherwise.
set_option Elab.async false

namespace Sys2Proof.Machine

/-! ## The range-change SET (R71) -/

theorem map_slot_rangedQueue (i : Slot) (c : WellCfg) (queue : List Entry) :
    (rangedQueue i c queue).map (·.slot) = queue.map (·.slot) := by
  unfold rangedQueue
  rw [List.map_map]
  refine List.map_congr_left fun e _ => ?_
  rw [Function.comp_apply]
  split <;> rfl

theorem Segment.entryOf_eq_none_slots {q : Segment} {i : Slot} : q.entryOf i = none ↔ i ∉ q.queue.map (·.slot) := by
  unfold Segment.entryOf
  simp [List.find?_eq_none]

theorem rangedQueue_absent {i : Slot} (c : WellCfg) {q : Segment} (h : q.entryOf i = none) : rangedQueue i c q.queue = q.queue := by
  have hnot := Segment.entryOf_eq_none_slots.mp h
  unfold rangedQueue
  refine (List.map_congr_left fun e he => ?_).trans (List.map_id _)
  have hslot : e.slot ≠ i := fun hs => hnot (List.mem_map.mpr ⟨e, he, hs⟩)
  exact if_neg fun h => hslot h.1

theorem wellState_ranged {w : Well} {c : WellCfg} (h : c.inService = w.cfg.inService) :
    wellState (some (w.ranged c)) = wellState (some w) := by
  unfold wellState Well.ranged
  dsimp only
  rw [h]

section
variable {i : Slot} {w : Well} {c : WellCfg} {s : State}

theorem rangeClamped_unit (hw : s.well i = some w) (hs : c.inService = w.cfg.inService) :
    (rangeClamped i w c s).unit = s.unit := by rw [rangeClamped_frame hw hs]

theorem rangeClamped_seg (hw : s.well i = some w) (hs : c.inService = w.cfg.inService) :
    (rangeClamped i w c s).seg c.seg = { s.seg c.seg with queue := rangedQueue i c (s.seg c.seg).queue } := by
  rw [rangeClamped_frame hw hs]
  exact PerSeg.get_put_same _ _ _

theorem rangeClamped_well_self : (rangeClamped i w c s).well i = some (w.ranged c) := by
  rw [rangeClamped_well, if_pos rfl]

theorem rangeClamped_entryOf (hw : s.well i = some w) (hs : c.inService = w.cfg.inService) (hg : c.seg = w.cfg.seg) :
    (rangeClamped i w c s).entryOf i = none ↔ s.entryOf i = none := by
  rw [entryOf_of_well rangeClamped_well_self, entryOf_of_well hw, ← hg]
  have hseg := rangeClamped_seg hw hs
  have hslots : ((rangeClamped i w c s).seg c.seg).queue.map (·.slot) = (s.seg c.seg).queue.map (·.slot) := by
    rw [hseg]
    exact map_slot_rangedQueue i c _
  show ((rangeClamped i w c s).seg c.seg).entryOf i = none ↔ _
  rw [Segment.entryOf_eq_none_slots, Segment.entryOf_eq_none_slots, hslots]

/-- A change of range makes a SET of target `n` on these terms (R71). -/
theorem rangeClamped_due (hw : s.well i = some w) (hs : c.inService = w.cfg.inService) (hg : c.seg = w.cfg.seg) (n : Nat) :
    (rangeClamped i w c s).rangeChangeDue i (w.ranged c) n = true ↔
      s.unit.role = .duty ∧ (s.stateOf i = .tracking ∨ s.stateOf i = .held) ∧ clampNat c.pmin c.pmax n ≠ n ∧
        s.entryOf i = none ∧ w.pendingProt = none := by
  have hduty : (rangeClamped i w c s).isDuty = decide (s.unit.role = .duty) := by
    unfold State.isDuty
    rw [rangeClamped_unit hw hs]
  have hstate : wellState (some (w.ranged c)) = s.stateOf i := by
    unfold State.stateOf
    rw [wellState_ranged hs, hw]
  have hentry : (rangeClamped i w c s).queued i = !decide (s.entryOf i = none) := by
    unfold State.queued
    have hiff := rangeClamped_entryOf hw hs hg
    cases h : (rangeClamped i w c s).entryOf i with
    | none => simp [hiff.mp h]
    | some e =>
      have hne : s.entryOf i ≠ none := fun hn => by
        rw [hiff.mpr hn] at h
        exact nomatch h
      simp [hne]
  have hpending : (w.ranged c).pendingProt.isNone = w.pendingProt.isNone := by
    unfold Well.ranged
    cases w.pendingProt <;> rfl
  have hcfg : (w.ranged c).cfg = c := rfl
  unfold State.rangeChangeDue
  rw [hduty, hstate, hentry, hpending, hcfg]
  simp [and_assoc]

theorem rangeChangeSet_quiet (hw : s.well i = some w) (h : ∀ n, w.target = some n → s.rangeChangeDue i w n = false) :
    rangeChangeSet i s = s := by
  unfold rangeChangeSet
  rw [hw]
  dsimp only
  split
  · rfl
  · next n hn =>
    rw [h n hn]
    rfl

theorem rangeChangeSet_due {n : Nat} (hw : s.well i = some w) (ht : w.target = some n) (h : s.rangeChangeDue i w n = true) :
    rangeChangeSet i s = arriveProt i (clampNat w.cfg.pmin w.cfg.pmax n) w.outlet s.countProt := by
  unfold rangeChangeSet
  rw [hw]
  dsimp only
  rw [ht]
  exact if_pos h

theorem answering_of_state (h : wellState (some w) = .tracking ∨ wellState (some w) = .held) : w.answering = true := by
  have hroster : (wellState (some w)).onRoster = true := by rcases h with h | h <;> rw [h] <;> rfl
  rw [onRoster_some] at hroster
  simp only [Bool.and_eq_true] at hroster
  exact hroster.2

/-- With room in the queue the range-change SET joins its protective group, the record standing. -/
theorem rangeChangeSet_room {n : Nat} {o : Line} (hw : s.well i = some w) (hs : c.inService = w.cfg.inService)
    (hg : c.seg = w.cfg.seg) (hduty : s.unit.role = .duty) (hstate : s.stateOf i = .tracking ∨ s.stateOf i = .held)
    (hnone : s.entryOf i = none) (hpending : w.pendingProt = none) (hroom : (s.seg w.cfg.seg).queue.length < 16) :
    (arriveProt i n o (rangeClamped i w c s).countProt).well i = some (w.ranged c) ∧
      ((arriveProt i n o (rangeClamped i w c s).countProt).seg w.cfg.seg).queue =
        joinProt ⟨i, n, o, .protective, false⟩ (s.seg w.cfg.seg).queue := by
  have hwell : (rangeClamped i w c s).countProt.well i = some (w.ranged c) := rangeClamped_well_self
  have hqueue : ((rangeClamped i w c s).seg c.seg).queue = (s.seg c.seg).queue := by
    rw [rangeClamped_seg hw hs]
    exact rangedQueue_absent c (by rw [hg, ← entryOf_of_well hw]; exact hnone)
  have hentry : ((rangeClamped i w c s).seg c.seg).entryOf i = none :=
    (entryOf_of_well rangeClamped_well_self).symm.trans ((rangeClamped_entryOf hw hs hg).mpr hnone)
  have hisDuty : (rangeClamped i w c s).countProt.isDuty = true := by
    show decide ((rangeClamped i w c s).unit.role = .duty) = true
    rw [rangeClamped_unit hw hs, hduty]
    rfl
  have hanswering : (w.ranged c).answering = true := by
    unfold State.stateOf at hstate
    rw [hw] at hstate
    exact (answering_of_state hstate : w.answering = true)
  have hroom' : ((rangeClamped i w c s).seg c.seg).queue.length < 16 := by rw [hqueue, hg]; exact hroom
  rw [arriveProt_joins_room hisDuty hwell hentry hanswering hroom', ← hg]
  refine ⟨?_, ?_⟩
  · refine (setPending_well (w := w.ranged c) (by exact hwell) none).trans ?_
    unfold Well.ranged
    rw [hpending]
    rfl
  · rw [setPending_seg, State.seg_modSeg]
    exact (congrArg Segment.queue (if_pos rfl)).trans (congrArg (joinProt _) hqueue)

/-! ## The live change executed -/

theorem liveChange_settled (hw : s.well i = some w) (hs : c.inService = w.cfg.inService) :
    Settled s → Settled (liveChange i w c s) := fun hset => by
  by_cases hr : c.pmin = w.cfg.pmin ∧ c.pmax = w.cfg.pmax
  · rw [liveChange_same_range hr, putWell_cfg hw hs]
    exact hset
  · rw [liveChange_range (by tauto)]
    have clamped : Settled (rangeClamped i w c s) := by
      rw [rangeClamped_frame hw hs]
      exact hset
    exact (inner_rangeChangeSet (d := False) i _).settled clamped

/-- The live change of a slot keeps the keys but for its configuration, and the move. -/
theorem liveChange_keys (j : Slot) :
    ((liveChange i w c s).well j).map Well.key = (if j = i then some { w with cfg := c } else s.well j).map Well.key ∧
      ((liveChange i w c s).well j).bind (·.move) = (if j = i then some { w with cfg := c } else s.well j).bind (·.move) := by
  by_cases hr : c.pmin = w.cfg.pmin ∧ c.pmax = w.cfg.pmax
  · rw [liveChange_same_range hr, putWell_well]
    exact ⟨rfl, rfl⟩
  · rw [liveChange_range (by tauto)]
    have inner := inner_rangeChangeSet (d := False) i (rangeClamped i w c s)
    have hclamped := rangeClamped_well i w c s j
    have hmove := (inner.moves j).resolve_right (·.1)
    rw [inner.key j, hmove, hclamped]
    by_cases hj : j = i
    · simp only [if_pos hj]
      exact ⟨rfl, rfl⟩
    · simp only [if_neg hj]
      exact ⟨trivial, trivial⟩

/-- A record written as it stands changes nothing where the rosters follow their law. -/
theorem putWell_self (h : RosterLaw s) (hw : s.well i = some w) : putWell s i (some w) = s := by
  have hwell (j : Slot) : (putWell s i (some w)).well j = s.well j := by
    rw [putWell_well]
    split
    · next hj => rw [hj, hw]
    · rfl
  have same : SameKeys s (putWell s i (some w)) := fun j => by rw [hwell]
  have hroster := same.roster h (putWell_rosterLaw s i (some w) h)
  have hwells : s.wells.set i.val (some w) i.isLt = s.wells := by
    have hget : s.wells[i.val] = some w := hw
    rw [← hget]
    exact Vector.set_getElem_self _
  have hframe := putWell_of_line (s := s) (i := i) (w := some w) (by rw [hw])
  have hrosters : (putWell s i (some w)).rosters = s.rosters := by
    have hengine := hroster .engine
    have hflare := hroster .flare
    show (⟨_, _⟩ : PerLine (List Slot)) = ⟨_, _⟩
    exact congrArg₂ PerLine.mk hengine hflare
  have hframe' : putWell s i (some w) = { s with wells := s.wells.set i.val (some w) i.isLt, rosters := (putWell s i (some w)).rosters } := by
    rw [hframe]
  rw [hframe', hrosters, hwells]

end

theorem runLoadWell_working {s : State} {f : PlantFrame} {x : WellLoad} {w : Well}
    (hp : WellLoad.parse f.payload = some x) (hw : s.well x.slot = some w)
    (hs : w.cfg.inService = true) (haddress : x.cfg.address = w.cfg.address) (hseg : x.cfg.seg = w.cfg.seg)
    (hkeep : KeepsOutlets s x w)
    (hfree : ∀ (j : Slot) (v : Well), j ≠ x.slot → s.well j = some v → v.cfg.address ≠ x.cfg.address)
    (hbusy : x.cfg.inService = true ∨ s.busy x.slot = false) :
    runLoadWell f (beginExecution s) = accept (loadSlot x (beginExecution s)) := by
  have hin : s.loadInUse x = false := by
    rw [loadInUse_some hw, haddress, hseg]
    rcases hbusy with hb | hb <;> simp [hb]
  rw [runLoadWell_some hp, show (beginExecution s).addressHeld x.slot x.cfg.address = false from addressHeld_free (s := s) hfree,
    show (beginExecution s).notPermitted x = false from notPermitted_working (s := s) hw hs hkeep,
    show (beginExecution s).loadInUse x = false from hin]
  rfl

/-- Settles O13: `park_well` and its companions, and the live change by `rangeClamped` and `rangeChangeSet`. -/
theorem loadWellParksOrChangesAWorkingSlot : Obligations.LoadWellParksOrChangesAWorkingSlot := by
  unfold Obligations.LoadWellParksOrChangesAWorkingSlot
  intro s f rest x w h hk hl hp hw hworking haddress hseg hkeep hfree
  have hs : w.cfg.inService = true := (stateOf_working hw).symm.trans hworking
  have hfour : f.isKind 4 = false := PlantFrame.isKind_eq_false hk (by decide)
  have hset : Settled (beginExecution s) := h.2.2.2
  have hbegin : (beginExecution s).well x.slot = some w := hw
  have hload := loadSlot_working hbegin hs
  refine ⟨fun hpark hmove hflight => ?_, fun hin => ?_⟩
  · rw [hpark, if_neg Bool.false_ne_true] at hload
    have hrun := runLoadWell_working hp hw hs haddress hseg hkeep hfree (.inr (not_busy hw hmove hflight))
    have hexec := Row.exec_ready .loadWell h (takes_loadWell hk hl)
    have hsettled : Settled (accept (park x.slot w x.cfg (beginExecution s))).state := park_settled _ _ _ _
    rw [hrun, hload, finishExecution_eq hsettled] at hexec
    have hwell : (park x.slot w x.cfg (beginExecution s)).well x.slot = some (Well.fresh x.cfg w.outlet) := park_well _ _ _ _
    refine ⟨_, hexec, ?_, hwell, park_entryOf x.slot w x.cfg (beginExecution s), fun r => park_waiting,
      fun g y => park_txn, fun j hj => park_key hj w x.cfg (beginExecution s)⟩
    exact (congrArg wellState hwell).trans (wellState_parked hpark)
  · have hservice : x.cfg.inService = w.cfg.inService := hin.trans hs.symm
    rw [hin, if_pos rfl] at hload
    have hrun := runLoadWell_working hp hw hs haddress hseg hkeep hfree (.inl hin)
    rw [hload] at hrun
    have hexec := Row.exec_ready .loadWell h (takes_loadWell hk hl)
    have hsettled : Settled (accept (liveChange x.slot w x.cfg (beginExecution s))).state :=
      liveChange_settled hbegin hservice hset
    rw [hrun, finishExecution_eq hsettled] at hexec
    refine ⟨?_, fun hroster hcfg => ?_, fun hrange => ?_⟩
    · obtain ⟨hkey, hmove⟩ := liveChange_keys (w := w) (c := x.cfg) (s := beginExecution s) (i := x.slot) x.slot
      rw [if_pos rfl] at hkey hmove
      obtain ⟨v, hv, hvkey⟩ := Option.map_eq_some_iff.mp hkey
      rw [hv] at hmove
      refine ⟨_, v, hexec, hv, hvkey, hmove, fun j hj => ?_⟩
      have hother := (liveChange_keys (w := w) (c := x.cfg) (s := beginExecution s) (i := x.slot) j).1
      rw [if_neg hj] at hother
      exact hother
    · have hsame : liveChange x.slot w x.cfg (beginExecution s) = beginExecution s := by
        rw [liveChange_same_range (by rw [hcfg]; exact ⟨rfl, rfl⟩), hcfg]
        exact putWell_self (s := beginExecution s) hroster hw
      exact Row.loadWell.exec_answer (u := s) h (takes_loadWell hk hl) h (by rw [hrun, hsame]; rfl) (.inr hfour)
    · rw [liveChange_range hrange] at hexec hrun
      intro q clamp clamped v rangeSet
      have hrangeSet (n : Nat) (hn : w.target = some n) :
          (rangeClamped x.slot w x.cfg (beginExecution s)).rangeChangeDue x.slot (w.ranged x.cfg) n = true ↔ rangeSet n :=
        (rangeClamped_due (s := beginExecution s) hw hservice hseg n).trans
          ⟨fun ⟨hduty, hstate, hclamp, hentry, hpending⟩ => ⟨hduty, hstate, hn, hclamp, hentry, hpending⟩,
            fun ⟨hduty, hstate, _, hclamp, hentry, hpending⟩ => ⟨hduty, hstate, hclamp, hentry, hpending⟩⟩
      have hframe := rangeClamped_frame (c := x.cfg) (s := beginExecution s) hw hservice
      have hwells := rangeClamped_well x.slot w x.cfg (beginExecution s)
      refine ⟨fun hnone => ?_, fun n hn => ?_⟩
      · have hquiet : rangeChangeSet x.slot (rangeClamped x.slot w x.cfg (beginExecution s)) =
            rangeClamped x.slot w x.cfg (beginExecution s) := by
          refine rangeChangeSet_quiet rangeClamped_well_self fun n hn => ?_
          exact Bool.eq_false_iff.mpr fun hdue => hnone n ((hrangeSet n hn).mp hdue)
        generalize rangeClamped x.slot w x.cfg (beginExecution s) = r at hrun hquiet hframe hwells
        have hexec' := Row.loadWell.exec_answer (o := .accepted) (d := none)
          (u := { s with
            wells := r.wells
            rosters := r.rosters
            segs := s.segs.put x.cfg.seg
              { s.seg x.cfg.seg with queue := rangedQueue x.slot x.cfg (s.seg x.cfg.seg).queue } }) h (takes_loadWell hk hl) h
          (by rw [hrun, hquiet]; exact congrArg accept hframe) (.inr hfour)
        rw [hseg] at hexec'
        exact ⟨_, hexec', rfl, (hwells x.slot).trans (if_pos rfl), fun j hj => (hwells j).trans (if_neg hj)⟩
      · have hset' := rangeChangeSet_due (i := x.slot) (n := n) rangeClamped_well_self hn.2.2.1 ((hrangeSet n hn.2.2.1).mpr hn)
        have hself : (rangeClamped x.slot w x.cfg (beginExecution s)).countProt.well x.slot = some (w.ranged x.cfg) :=
          rangeClamped_well_self
        have hentry : ((rangeClamped x.slot w x.cfg (beginExecution s)).countProt.seg (w.ranged x.cfg).cfg.seg).entryOf x.slot =
            none := (entryOf_of_well rangeClamped_well_self).symm.trans
              ((rangeClamped_entryOf (s := beginExecution s) hw hservice hseg).mpr hn.2.2.2.2.1)
        rw [hset'] at hexec
        obtain ⟨hduty, hstate, hn, -, hnone, hpending⟩ := hn
        exact ⟨_, hexec, arriveProt_protCommand hself hentry, fun hroom =>
          rangeChangeSet_room (s := beginExecution s) hw hservice hseg hduty hstate hnone hpending hroom⟩

end Sys2Proof.Machine
end

section
/-! PROOF. MODE RUN and MODE HOLD (O19), executed. -/

-- One theorem at a time: the one-text build of the package runs out of threads otherwise.
set_option Elab.async false

namespace Sys2Proof.Machine

/-! ## The balancing move at removals (R158) -/

/-- The outstanding balancing move is QUEUED, in slot `i`. -/
def Balancer.queuedAt (b : Balancer) (i : Slot) : Bool :=
  match b.move with
  | some m => decide (m.slot = i) && decide (m.phase = .queued)
  | none => false

theorem balancingQueued_eq (s : State) (i : Slot) : s.balancingQueued i = s.balancer.queuedAt i := rfl

/-- One of the entries removed is the BALANCE entry of the outstanding balancing move. -/
def Balancer.loses (b : Balancer) (gone : List Entry) : Bool := gone.any fun e => decide (e.cls = .balance) && b.queuedAt e.slot

/-- The balancing move ended NOT MADE at time `t`. -/
def Balancer.notMade (b : Balancer) (t : Nat) : Balancer := { b with move := none, lastEnd := some (.notMade, t) }

/-- The balancer behind removals at time `t` (R158). -/
def Balancer.without (b : Balancer) (gone : List Entry) (t : Nat) : Balancer := if b.loses gone then b.notMade t else b

theorem Balancer.without_none {b : Balancer} (h : b.move = none) (gone : List Entry) (t : Nat) : b.without gone t = b := by
  have hno : b.loses gone = false := List.any_eq_false.mpr fun e _ => by simp [Balancer.queuedAt, h]
  rw [Balancer.without, hno]
  rfl

/-- One removal after another ends the balancing move once. -/
theorem Balancer.without_append (b : Balancer) (xs ys : List Entry) (t : Nat) :
    (b.without xs t).without ys t = b.without (xs ++ ys) t := by
  have happ : b.loses (xs ++ ys) = (b.loses xs || b.loses ys) := List.any_append
  cases hx : b.loses xs with
  | true =>
    rw [Balancer.without, Balancer.without, Balancer.without, happ, hx]
    exact Balancer.without_none (b := b.notMade t) rfl ys t
  | false =>
    rw [show b.without xs t = b by rw [Balancer.without, hx]; rfl, Balancer.without, Balancer.without, happ, hx]
    rfl

theorem leaveEffects_eq (e : Entry) (s : State) :
    leaveEffects e s = { s with balancer := s.balancer.without [e] s.timeBase } := by
  have hloses : s.balancer.loses [e] = (decide (e.cls = .balance) && s.balancingQueued e.slot) := by
    simp [Balancer.loses, balancingQueued_eq]
  unfold leaveEffects
  rw [Balancer.without, hloses]
  split
  · next hc =>
    obtain ⟨-, hq⟩ := Bool.and_eq_true_iff.mp hc
    obtain ⟨m, hm, -⟩ := (balancingQueued_iff s e.slot).mp hq
    unfold endBalancing
    rw [hm]
    rfl
  · rfl

theorem leaveAll_eq (gone : List Entry) (s : State) :
    leaveAll gone s = { s with balancer := s.balancer.without gone s.timeBase } := by
  induction gone generalizing s with
  | nil => rfl
  | cons e rest ih =>
    unfold leaveAll
    rw [ih, leaveEffects_eq]
    exact congrArg (fun b => { s with balancer := b }) (Balancer.without_append s.balancer [e] rest s.timeBase)

/-! ## The queues at MODE HOLD (R69, R91) -/

theorem goesAtHold_iff (e : Entry) : e.goesAtHold = !(decide (e.cls ≠ .trim) && (decide (e.cls ≠ .balance) || e.sent)) := by
  unfold Entry.goesAtHold
  cases e.cls <;> simp

/-- The queue without what MODE HOLD removes. -/
def Segment.atHold (q : Segment) : Segment := { q with queue := q.queue.filter fun e => !e.goesAtHold }

/-- A queue at MODE HOLD: entries gone, and the balancing move of one of them ended. -/
theorem holdQueue_eq (s : State) (g : Seg) :
    holdQueue s g =
      { s with
        segs := s.segs.put g (s.seg g).atHold
        balancer := s.balancer.without ((s.seg g).queue.filter Entry.goesAtHold) s.timeBase } := by
  unfold holdQueue
  rw [leaveAll_eq]
  rfl

/-- What MODE HOLD removes of all queues. -/
def State.goneAtHold (s : State) : List Entry := Seg.all.flatMap fun g => (s.seg g).queue.filter Entry.goesAtHold

theorem holdQueues_eq (s : State) :
    Seg.all.foldl holdQueue s =
      { s with segs := s.segs.map Segment.atHold, balancer := s.balancer.without s.goneAtHold s.timeBase } := by
  unfold Seg.all State.goneAtHold Seg.all
  simp only [List.foldl_cons, List.foldl_nil, holdQueue_eq, Balancer.without_append, List.flatMap_cons, List.flatMap_nil,
    List.append_nil, List.append_assoc]
  rfl

/-! ## What the examination behind a removal adds -/

/-- From `s` to `t` the queues have gained PROTECTIVE entries alone, and no counter but the evictions has moved. -/
structure ProtsJoin (s t : State) : Prop where
  queue : ∀ g, ∀ e ∈ (t.seg g).queue, e ∈ (s.seg g).queue ∨ e.isProt = true
  counters : ∀ g, { (t.seg g).counters with evictions := 0 } = { (s.seg g).counters with evictions := 0 }

theorem ProtsJoin.refl (s : State) : ProtsJoin s s := ⟨fun _ _ h => .inl h, fun _ => rfl⟩

theorem ProtsJoin.trans {s t u : State} (a : ProtsJoin s t) (b : ProtsJoin t u) : ProtsJoin s u :=
  ⟨fun g e h => (b.queue g e h).elim (a.queue g e) .inr, fun g => (b.counters g).trans (a.counters g)⟩

theorem ProtsJoin.of_segs {s t : State} (h : ∀ g, t.seg g = s.seg g) : ProtsJoin s t :=
  ⟨fun g e he => .inl (h g ▸ he), fun g => by rw [h]⟩

theorem protsJoin_modSeg {s : State} {g : Seg} {f : Segment → Segment}
    (queue : ∀ e ∈ (f (s.seg g)).queue, e ∈ (s.seg g).queue ∨ e.isProt = true)
    (counters : { (f (s.seg g)).counters with evictions := 0 } = { (s.seg g).counters with evictions := 0 }) :
    ProtsJoin s (s.modSeg g f) := by
  refine ⟨fun k e he => ?_, fun k => ?_⟩
  · rw [State.seg_modSeg] at he
    split at he
    · next h => subst h; exact queue e he
    · exact .inl he
  · rw [State.seg_modSeg]
    split
    · next h => subst h; exact counters
    · rfl

theorem protsJoin_leaveEffects (e : Entry) (s : State) : ProtsJoin s (leaveEffects e s) := .of_segs (leaveEffects_seg e s)

theorem mem_joinProt {e x : Entry} {queue : List Entry} (h : x ∈ joinProt e queue) : x = e ∨ x ∈ queue :=
  List.mem_cons.mp ((slot_mem_joinProt e queue).mem_iff.mp h)

theorem protsJoin_protEnter {g : Seg} {e : Entry} {s t : State} (he : e.isProt = true) (h : protEnter g e s = some t) :
    ProtsJoin s t := by
  have joined {queue : List Entry} {x : Entry} (hx : x ∈ joinProt e queue) : x ∈ queue ∨ x.isProt = true :=
    (mem_joinProt hx).elim (fun hx => .inr (hx ▸ he)) .inl
  unfold protEnter at h
  split at h
  · cases h
    exact protsJoin_modSeg (fun x hx => joined hx) rfl
  · split at h
    · cases h
      exact (protsJoin_modSeg (fun x hx => (joined hx).imp_left List.mem_of_mem_filter) rfl).trans (protsJoin_leaveEffects _ _)
    · exact nomatch h

theorem protsJoin_protReplace (g : Seg) (old : Entry) {e : Entry} (s : State) (he : e.isProt = true) :
    ProtsJoin s (protReplace g old e s) := by
  refine (protsJoin_modSeg (fun x hx => ?_) rfl).trans (protsJoin_leaveEffects _ _)
  dsimp only at hx
  split at hx
  · obtain ⟨y, hy, hyx⟩ := List.mem_map.mp hx
    split at hyx
    · exact .inr (hyx ▸ he)
    · exact .inl (hyx ▸ hy)
  · exact (mem_joinProt hx).elim (fun hx => .inr (hx ▸ he)) fun hx => .inl (List.mem_of_mem_filter hx)

theorem protsJoin_setPending (i : Slot) (p : Option PendingProt) (s : State) : ProtsJoin s (setPending i p s) :=
  .of_segs (setPending_seg i p s)

theorem protsJoin_examineFrom (g : Seg) (slots : List Slot) (s : State) : ProtsJoin s (examineFrom g slots s) := by
  induction slots generalizing s with
  | nil => exact .refl s
  | cons i rest ih =>
    unfold examineFrom
    split
    · exact ih s
    · split
      · split
        · exact ih s
        · dsimp only
          split
          · exact ((protsJoin_protReplace g _ s rfl).trans (protsJoin_setPending _ _ _)).trans (ih _)
          · split
            · next u hu => exact ((protsJoin_protEnter rfl hu).trans (protsJoin_setPending _ _ _)).trans (ih _)
            · exact .refl s
      · exact ih s

theorem protsJoin_examinePending (g : Seg) (s : State) : ProtsJoin s (examinePending g s) := by
  unfold examinePending
  split
  · exact protsJoin_examineFrom g _ s
  · exact .refl s

theorem protsJoin_examineAll (s : State) : ProtsJoin s (examineAll s) :=
  (((protsJoin_examinePending .a s).trans (protsJoin_examinePending .b _)).trans (protsJoin_examinePending .c _)).trans
    (protsJoin_examinePending .d _)

theorem examineAll_noPending {s : State} (h : NoPending s) : examineAll s = s := by
  unfold examineAll
  simp only [examinePending_noPending _ h]

/-! ## MODE executed -/

/-- The state behind the removals of MODE HOLD, before the pending protective fields are examined. -/
def heldBack (s : State) : State :=
  { s with
    link := { s.link with mode := .hold }
    segs := s.segs.map Segment.atHold
    balancer := s.balancer.without s.goneAtHold s.timeBase }

theorem changeMode_hold {s : State} (h : s.link.mode = .run) : changeMode .hold s = examineAll (heldBack s) := by
  unfold changeMode
  rw [h]
  dsimp only
  rw [holdQueues_eq]
  rfl

theorem changeMode_run (s : State) : changeMode .run s = { s with link := { s.link with mode := .run } } := by
  cases hm : s.link.mode with
  | run =>
    have hlink : { s.link with mode := .run } = s.link := by rw [← hm]
    unfold changeMode
    rw [hm, hlink]
  | hold =>
    unfold changeMode
    rw [hm]
    rfl

theorem runMode_some {f : PlantFrame} {s : State} {m : Mode} (h : modeOfCode (byteAt f.payload 0) = some m) :
    runMode f s = accept (changeMode m s) := by
  unfold runMode
  rw [h]

theorem modeOfCode_none {n : Nat} (h1 : n ≠ 1) (h2 : n ≠ 2) : modeOfCode n = none := by
  unfold modeOfCode
  split
  · exact absurd rfl h1
  · exact absurd rfl h2
  · rfl

theorem queuedAt_iff (b : Balancer) (i : Slot) :
    b.queuedAt i = true ↔ ∃ m, b.move = some m ∧ m.slot = i ∧ m.phase = .queued := by
  unfold Balancer.queuedAt
  cases b.move <;> simp

theorem loses_gone (s : State) : s.balancer.loses s.goneAtHold = true ↔
    ∃ b, s.balancer.move = some b ∧ b.phase = .queued ∧
      ∃ g : Seg, ∃ e ∈ (s.seg g).queue, e.slot = b.slot ∧ e.cls = .balance ∧ e.sent = false := by
  have hgone (e : Entry) (hc : e.cls = .balance) : e.goesAtHold = !e.sent := by
    unfold Entry.goesAtHold
    rw [hc]
  unfold Balancer.loses State.goneAtHold
  rw [List.any_eq_true]
  constructor
  · rintro ⟨e, he, hq⟩
    obtain ⟨hc, hq⟩ := Bool.and_eq_true_iff.mp hq
    have hc := of_decide_eq_true hc
    obtain ⟨b, hb, hslot, hphase⟩ := (queuedAt_iff _ _).mp hq
    obtain ⟨g, -, he⟩ := List.mem_flatMap.mp he
    obtain ⟨he, hgoes⟩ := List.mem_filter.mp he
    rw [hgone e hc, Bool.not_eq_true'] at hgoes
    exact ⟨b, hb, hphase, g, e, he, hslot.symm, hc, hgoes⟩
  · rintro ⟨b, hb, hphase, g, e, he, hslot, hc, hsent⟩
    refine ⟨e, List.mem_flatMap.mpr ⟨g, by cases g <;> decide, List.mem_filter.mpr ⟨he, ?_⟩⟩, ?_⟩
    · rw [hgone e hc, hsent]
      rfl
    · rw [hc, (queuedAt_iff _ _).mpr ⟨b, hb, hslot.symm, hphase⟩]
      rfl

theorem heldBack_balancer (s : State) : (heldBack s).balancer = s.balancer.without s.goneAtHold s.timeBase := rfl

theorem filter_goesAtHold (queue : List Entry) :
    queue.filter (fun e => !e.goesAtHold) = queue.filter fun e => decide (e.cls ≠ .trim) && (decide (e.cls ≠ .balance) || e.sent) :=
  List.filter_congr fun e _ => by rw [goesAtHold_iff, Bool.not_not]

theorem finishExecution_mode (f : PlantFrame) (a : Answer) : (finishExecution f a).link.mode = a.state.link.mode :=
  (Link.pump_frame _).2.2.2.1.trans (keeps_runEvals a.state).mode

theorem atHold_counters (q : Segment) : q.atHold.counters = q.counters := rfl

/-- Settles O19: the removals by `holdQueues_eq`, and what the examination behind them adds by `ProtsJoin`. -/
theorem modeChangesActOnTheQueues : Obligations.ModeChangesActOnTheQueues := by
  unfold Obligations.ModeChangesActOnTheQueues
  have hfour {f : PlantFrame} (hk : f.isKind 9 = true) : f.isKind 4 = false := PlantFrame.isKind_eq_false hk (by decide)
  refine ⟨fun s f rest h hk => ⟨fun h1 h2 => ?_, fun h2 => ?_, fun h1 hm => ?_⟩, fun s f rest h hk h1 hm => ?_⟩
  · have hbad (t : State) : runMode f t = refuse .range t := by
      unfold runMode
      rw [modeOfCode_none h1 h2]
    exact ⟨Row.modeRun.exec_refuse h (by simp [takes, hk, h1]) (hbad _) (by decide),
      Row.modeHold.exec_refuse h (by simp [takes, hk, h2]) (hbad _) (by decide)⟩
  · have htake : takes .modeRun f = true := by simp [takes, hk, h2]
    refine Row.modeRun.exec_answer (u := { s with link := { s.link with mode := .run } }) h htake h ?_ (.inr (hfour hk))
    rw [runMode_some (m := .run) (by rw [h2]; rfl), changeMode_run]
    rfl
  · refine Row.modeHold.exec_answer h (by simp [takes, hk, h1]) h ?_ (.inr (hfour hk))
    have hbegin : (beginExecution s).link.mode = .hold := hm
    rw [runMode_some (m := .hold) (by rw [h1]; rfl)]
    unfold changeMode
    rw [hbegin]
    rfl
  · have htake : takes .modeHold f = true := by simp [takes, hk, h1]
    have hbegin : (beginExecution s).link.mode = .run := hm
    have hrun : runMode f (beginExecution s) = accept (examineAll (heldBack (beginExecution s))) := by
      rw [runMode_some (m := .hold) (by rw [h1]; rfl), changeMode_hold hbegin]
    intro stays left balancingGoes
    have hqueue : (fun q : Segment => ({ q with queue := q.queue.filter stays } : Segment)) = Segment.atHold := by
      funext q
      unfold Segment.atHold
      rw [filter_goesAtHold]
    have hleft : left = { s with link := { s.link with mode := .hold }, segs := s.segs.map Segment.atHold } :=
      congrArg (fun f => ({ s with link := { s.link with mode := .hold }, segs := s.segs.map f } : State)) hqueue
    refine ⟨fun hquiet => ?_, ?_⟩
    · have hexamine : examineAll (heldBack (beginExecution s)) = beginExecution (heldBack s) := by
        rcases hquiet with hstandby | hno
        · have hduty : (heldBack (beginExecution s)).isDuty = false := by
            show decide (s.unit.role = .duty) = false
            rw [hstandby]
            rfl
          rw [examineAll_standby hduty]
          rfl
        · have hno' : NoPending (heldBack (beginExecution s)) := hno
          rw [examineAll_noPending hno']
          rfl
      have hexec : exec .modeHold s = .next ((heldBack s).answer f rest .accepted none) :=
        Row.modeHold.exec_answer (u := heldBack s) h htake h (by rw [hrun, hexamine]; rfl) (.inr (hfour hk))
      refine ⟨fun hgoes => ?_, fun hstays => ?_⟩
      · have hbalancer : (heldBack s).balancer = s.balancer.notMade s.timeBase := if_pos ((loses_gone s).mpr hgoes)
        rw [hleft, hexec]
        have e : heldBack s = { s with
            link := { s.link with mode := .hold }
            segs := s.segs.map Segment.atHold
            balancer := (heldBack s).balancer } := rfl
        rw [e, hbalancer]
        rfl
      · have hbalancer : (heldBack s).balancer = s.balancer := if_neg (mt (loses_gone s).mp hstays)
        rw [hleft, hexec]
        have e : heldBack s = { s with
            link := { s.link with mode := .hold }
            segs := s.segs.map Segment.atHold
            balancer := (heldBack s).balancer } := rfl
        rw [e, hbalancer]
    · have inner := inner_examineAll (d := False) (heldBack (beginExecution s))
      have joins := protsJoin_examineAll (heldBack (beginExecution s))
      have hback : Settled (heldBack (beginExecution s)) := h.2.2.2
      have hsettled : Settled (accept (examineAll (heldBack (beginExecution s)))).state := inner.settled hback
      have hexec := Row.exec_ready .modeHold h htake
      rw [hrun, finishExecution_eq hsettled] at hexec
      generalize examineAll (heldBack (beginExecution s)) = u at hexec inner joins
      have hseg (g : Seg) : (heldBack (beginExecution s)).seg g = (s.seg g).atHold := PerSeg.get_map _ _ _
      refine ⟨_, hexec, ?_, fun g e he => ?_, fun g => ?_, fun j => ⟨inner.key j, (inner.moves j).resolve_right (·.1)⟩⟩
      · exact (finishExecution_mode f _).trans inner.keeps.mode
      · rcases joins.queue g e he with hold | hprot
        · rw [hseg] at hold
          have hstay := (List.mem_filter.mp hold).2
          rw [goesAtHold_iff, Bool.not_not] at hstay
          simp only [Bool.and_eq_true, Bool.or_eq_true, decide_eq_true_eq] at hstay
          exact ⟨hstay.1, fun hc => hstay.2.resolve_left (· hc)⟩
        · have hcls := isProt_iff.mp hprot
          rw [hcls]
          exact ⟨by decide, nofun⟩
      · exact (joins.counters g).trans (by rw [hseg, atHold_counters])

end Sys2Proof.Machine
end

section
/-! PROOF. A failed echo (O36), executed. -/

-- One theorem at a time: the one-text build of the package runs out of threads otherwise.
set_option Elab.async false

namespace Sys2Proof.Machine

/-! ## One miss and what follows on its segment -/

section
variable {s u : State} {g : Seg} {q : Segment} {i : Slot} {w : Well}

theorem OneMiss.congr {r : State} (h : OneMiss s u g q i w) (e : s = r) : OneMiss r u g q i w := e ▸ h

theorem OneMiss.seg (h : OneMiss s u g q i w) : u.seg g = q := by
  rw [h.1]
  exact PerSeg.get_put_same _ _ _

theorem OneMiss.setSeg (h : OneMiss s u g q i w) (r : Segment) : OneMiss s (u.setSeg g r) g r i w := by
  refine ⟨?_, h.2.1, h.2.2⟩
  have e : (u.setSeg g r).segs = s.segs.put g r := by
    rw [h.1]
    exact congrArg State.segs (State.setSeg_setSeg s g q r)
  have frame := congrArg (fun v : State => { v with segs := (u.setSeg g r).segs }) h.1
  rw [e] at frame
  exact (show u.setSeg g r = { u with segs := (u.setSeg g r).segs } from rfl).trans (e ▸ frame)

theorem OneMiss.withBalancer (h : OneMiss s u g q i w) (b : Balancer) :
    OneMiss { s with balancer := b } { u with balancer := b } g q i w :=
  ⟨congrArg (fun v : State => { v with balancer := b }) h.1, h.2.1, h.2.2⟩

theorem OneMiss.settled (h : OneMiss s u g q i w) (hs : Settled s) : Settled u := by
  rw [h.1]
  exact hs

theorem OneMiss.balancer (h : OneMiss s u g q i w) : u.balancer = s.balancer := by rw [h.1]

theorem OneMiss.timeBase (h : OneMiss s u g q i w) : u.timeBase = s.timeBase := by rw [h.1]

theorem OneMiss.isDuty (h : OneMiss s u g q i w) : u.isDuty = s.isDuty := by
  unfold State.isDuty
  rw [h.1]

theorem OneMiss.noPending (h : OneMiss s u g q i w) (hw : s.well i = some w) (hs : NoPending s) : NoPending u := fun j v hv => by
  by_cases hj : j = i
  · rw [hj, h.2.1] at hv
    cases hv
    exact hs i w hw
  · rw [h.2.2 j hj] at hv
    exact hs j v hv

/-- The move records stay as they were. -/
theorem OneMiss.movesOf (h : OneMiss s u g q i w) (hw : s.well i = some w) (k : Seg) : u.movesOf k = s.movesOf k := by
  rw [movesOf_eq, movesOf_eq]
  refine congrArg (List.filterMap · allSlots) (funext fun j => ?_)
  unfold State.moveOn
  by_cases hj : j = i
  · rw [hj, h.2.1, hw]
    rfl
  · rw [h.2.2 j hj]

/-- A miss of a well it does not make silent, segment `g` being written as `q` meanwhile. -/
theorem missWell_oneMiss (hw : s.well i = some w) (hb : BelowMissLimit (s.setSeg g q) w) :
    OneMiss s (missWell i (s.setSeg g q)) g q i w := by
  have hline : rosterLine ((s.setSeg g q).well i) = rosterLine (some { w with missCount := satInc Config.countCap w.missCount }) :=
    (congrArg rosterLine hw).trans (rosterLine_congr (v := w) rfl rfl rfl rfl)
  have hwell := fun j => putWell_well (s.setSeg g q) i j (some { w with missCount := satInc Config.countCap w.missCount })
  rw [missWell_below (s := s.setSeg g q) hw hb]
  rw [putWell_of_line hline] at hwell ⊢
  exact ⟨rfl, (hwell i).trans (if_pos rfl), fun j hj => (hwell j).trans (if_neg hj)⟩

end

/-! ## The steps of a failed echo -/

/-- The sum of the non-protective travel of segment `g`'s move records (R162). -/
def State.movingTravel (s : State) (g : Seg) : Nat := ((s.movesOf g).map fun m => if m.2.cls = .protective then 0 else m.2.travel).sum

theorem nonProtTravel_of_no_copy {s : State} {g : Seg} (h : (s.seg g).sentCopy = none) : s.nonProtTravel g = s.movingTravel g := by
  unfold State.nonProtTravel State.movingTravel
  rw [h]
  rfl

/-- Segment `q` with its budget in force as `travel` lets it be (R162). -/
def Segment.refreshed (q : Segment) (travel : Nat) : Segment :=
  { q with budgetInForce := if travel ≤ q.settings.budget then q.settings.budget else q.budgetInForce }

theorem refreshBudget_eq (g : Seg) (s : State) : refreshBudget g s = s.setSeg g ((s.seg g).refreshed (s.nonProtTravel g)) := by
  unfold refreshBudget Segment.refreshed
  split
  · rfl
  · exact (State.setSeg_self s g).symm

theorem OneMiss.refreshBudget {s u : State} {g : Seg} {q : Segment} {i : Slot} {w : Well} (h : OneMiss s u g q i w)
    (hw : s.well i = some w) (hcopy : q.sentCopy = none) :
    OneMiss s (refreshBudget g u) g (q.refreshed (s.movingTravel g)) i w := by
  have htravel : u.nonProtTravel g = s.movingTravel g := by
    rw [nonProtTravel_of_no_copy (by rw [h.seg]; exact hcopy)]
    unfold State.movingTravel
    rw [h.movesOf hw]
  rw [refreshBudget_eq, h.seg, htravel]
  exact h.setSeg _

/-- Segment `q` with one echo failure more and its sent copy gone (R166). -/
def Segment.echoFailed (q : Segment) : Segment :=
  { q with sentCopy := none, counters := { q.counters with echoFailures := satInc 65535 q.counters.echoFailures } }

theorem echoFailed_eq (g : Seg) (s : State) :
    clearCopy g (s.modCounters g fun x => { x with echoFailures := counterInc x.echoFailures }) =
      s.setSeg g (s.seg g).echoFailed := by
  unfold clearCopy State.modCounters
  simp only [State.modSeg_eq, State.setSeg_setSeg, State.seg_setSeg_self]
  rfl

/-- Segment `q` with its transaction ended as a miss (R134). -/
def Segment.txnMissed (q : Segment) : Segment :=
  { q with txn := none, counters := { q.counters with misses := satInc 65535 q.counters.misses } }

/-- The sent copy as a queue entry. -/
def SentCopy.entry (c : SentCopy) : Entry := ⟨c.slot, c.target, c.outlet, c.cls, true⟩

theorem endSentBalancing_eq (c : SentCopy) (s : State) : endSentBalancing c s = leaveEffects c.entry s := rfl

theorem leaveEffects_isDuty (e : Entry) (s : State) : (leaveEffects e s).isDuty = s.isDuty := by
  rw [leaveEffects_eq]
  rfl

theorem failedEcho_other {g : Seg} {c : SentCopy} {s : State} (hduty : s.isDuty = true) (hc : c.cls ≠ .protective) :
    failedEcho g c s = refreshBudget g (failedOther g c (leaveEffects c.entry (s.setSeg g (s.seg g).echoFailed))) := by
  have hkept : (leaveEffects c.entry (s.setSeg g (s.seg g).echoFailed)).isDuty = true := (leaveEffects_isDuty _ _).trans hduty
  unfold failedEcho
  dsimp only
  rw [if_neg hc, echoFailed_eq, endSentBalancing_eq, hkept]
  rfl

theorem failedEcho_prot {g : Seg} {c : SentCopy} {s : State} (hduty : s.isDuty = true) (hc : c.cls = .protective) :
    failedEcho g c s = refreshBudget g (failedProt g c (s.setSeg g (s.seg g).echoFailed)) := by
  have hkept : (s.setSeg g (s.seg g).echoFailed).isDuty = true := hduty
  unfold failedEcho
  dsimp only
  rw [if_pos hc, echoFailed_eq, hkept]
  rfl

/-- The miss of a SET, then its failed echo (R134, R136, R139). -/
theorem missTxn_set {s : State} {g : Seg} {t : Txn} {i : Slot} {c : SentCopy} (hk : t.kind = .set)
    (hi : s.addressedWell g t = some i) {q : Segment} {w : Well}
    (hmiss : OneMiss s (missWell i (s.setSeg g (s.seg g).txnMissed)) g q i w)
    (hcopy : q.sentCopy = some c) :
    missTxn g t s = failedEcho g c (missWell i (s.setSeg g (s.seg g).txnMissed)) := by
  have hstart : countMiss g (endTxn g s) = s.setSeg g (s.seg g).txnMissed := by
    unfold countMiss endTxn State.modCounters
    simp only [State.modSeg_eq, State.setSeg_setSeg, State.seg_setSeg_self]
    rfl
  have hc := hmiss.seg
  unfold missTxn
  simp only [hi, hk, hstart]
  rw [hc, hcopy]

/-! ## What becomes of the entry -/

theorem OneMiss.entryOf {s u : State} {g : Seg} {q : Segment} {i : Slot} {w : Well} (h : OneMiss s u g q i w) (j : Slot) :
    (u.seg g).entryOf j = q.entryOf j := by rw [h.seg]

theorem OneMiss.leaveEffects {s u : State} {g : Seg} {q : Segment} {i : Slot} {w : Well} (h : OneMiss s u g q i w) (e : Entry) :
    OneMiss { s with balancer := s.balancer.without [e] s.timeBase } (leaveEffects e u) g q i w := by
  have balancer : u.balancer.without [e] u.timeBase = s.balancer.without [e] s.timeBase := by rw [h.balancer, h.timeBase]
  rw [leaveEffects_eq, balancer]
  exact h.withBalancer _

/-- The removal of a slot's entry where no pending protective field waits. -/
theorem removeEntry_noPending {g : Seg} {i : Slot} {s : State} {e : Entry} (he : (s.seg g).entryOf i = some e)
    (h : NoPending s) : removeEntry g i s = leaveEffects e (s.setSeg g { s.seg g with queue := dropSlot i (s.seg g).queue }) := by
  unfold removeEntry
  rw [he]
  exact departed_noPending g e (s := s.setSeg g _) h

/-- With no PROTECTIVE command to keep, the changed entry stays and the balancing move of the copy ends (R166). -/
theorem failedOther_stays {s u : State} {g : Seg} {q : Segment} {c : SentCopy} {w : Well} (h : OneMiss s u g q c.slot w)
    (he : ∀ e, q.entryOf c.slot = some e → e.sent = false) : failedOther g c u = u := by
  unfold failedOther
  rw [h.entryOf]
  split
  · next e hq => rw [he e hq]; rfl
  · rfl

/-- The sent entry leaves (R166). -/
theorem failedOther_leaves {s u : State} {g : Seg} {q : Segment} {c : SentCopy} {w : Well} {e : Entry}
    (h : OneMiss s u g q c.slot w) (hw : s.well c.slot = some w) (hno : NoPending s) (he : q.entryOf c.slot = some e)
    (hs : e.sent = true) :
    OneMiss { s with balancer := s.balancer.without [e] s.timeBase } (failedOther g c u) g
      { q with queue := dropSlot c.slot q.queue } c.slot w := by
  have hu : (u.seg g).entryOf c.slot = some e := (h.entryOf _).trans he
  unfold failedOther
  rw [hu]
  dsimp only
  rw [hs, if_pos rfl, removeEntry_noPending hu (h.noPending hw hno), h.seg]
  exact (h.setSeg _).leaveEffects e

/-- The PROTECTIVE command of an answering well stays in its queue, not sent (R167). -/
theorem failedProt_answering {s u : State} {g : Seg} {q : Segment} {c : SentCopy} {w : Well} (h : OneMiss s u g q c.slot w)
    (ha : w.answering = true) :
    OneMiss s (failedProt g c u) g
      { q with queue := q.queue.map fun e => if e.slot = c.slot then { e with sent := false } else e } c.slot w := by
  unfold failedProt
  rw [h.entryOf, h.2.1]
  cases he : q.entryOf c.slot with
  | some e =>
    dsimp only
    rw [ha, if_pos rfl]
    unfold unsend
    rw [State.modSeg_eq, h.seg]
    exact h.setSeg _
  | none =>
    have hslots := Segment.entryOf_eq_none_slots.mp he
    have hqueue : q.queue.map (fun e => if e.slot = c.slot then { e with sent := false } else e) = q.queue := by
      refine (List.map_congr_left fun e hm => ?_).trans (List.map_id _)
      exact if_neg fun hs => hslots (List.mem_map.mpr ⟨e, hm, hs⟩)
    rw [hqueue]
    exact h

/-- An examination finds nothing where no answering well's pending field waits. -/
theorem examinePending_unready (g : Seg) {s : State}
    (h : ∀ j v, s.well j = some v → v.answering = true → v.pendingProt = none) : examinePending g s = s := by
  have from_ (slots : List Slot) : examineFrom g slots s = s := by
    induction slots with
    | nil => rfl
    | cons i rest ih =>
      unfold examineFrom
      split
      · exact ih
      · next v hv =>
        split
        · next ha =>
          rw [h i v hv (Bool.and_eq_true_iff.mp ha).2]
          exact ih
        · exact ih
  unfold examinePending
  split
  · exact from_ _
  · rfl

/-- The PROTECTIVE command of a silent well goes back to its pending field (R167). -/
theorem failedProt_silent {s u : State} {g : Seg} {q : Segment} {c : SentCopy} {w : Well} {e : Entry}
    (h : OneMiss s u g q c.slot w) (hno : NoPending s) (ha : w.answering = false)
    (he : q.entryOf c.slot = some e) (hp : e.cls = .protective) :
    failedProt g c u =
      (setPending c.slot (some ⟨e.target, e.outlet⟩) u).setSeg g { q with queue := dropSlot c.slot q.queue } := by
  have hwell : ∀ j, (setPending c.slot (some ⟨e.target, e.outlet⟩) u).well j =
      (u.well j).map fun v => if j = c.slot then { v with pendingProt := some ⟨e.target, e.outlet⟩ } else v :=
    modWell_well u c.slot _
  have hseg : (setPending c.slot (some ⟨e.target, e.outlet⟩) u).seg g = q := (setPending_seg _ _ _ _).trans h.seg
  unfold failedProt
  rw [h.entryOf, h.2.1, he]
  dsimp only
  rw [ha, if_neg Bool.false_ne_true]
  unfold removeEntry
  rw [hseg, he]
  dsimp only
  rw [State.modSeg_eq, hseg]
  unfold departed
  rw [leaveEffects_free (by rw [hp]; exact fun h => nomatch h.1)]
  refine examinePending_unready g fun j v hv hans => ?_
  have hj := (hwell j).symm.trans hv
  by_cases hslot : j = c.slot
  · subst hslot
    rw [h.2.1] at hj
    have hans' := congrArg Well.answering (Option.some.inj hj)
    dsimp only at hans'
    rw [if_pos rfl] at hans'
    exact absurd (ha.symm.trans (hans'.trans hans)) Bool.false_ne_true
  · rw [h.2.2 j hslot] at hj
    obtain ⟨x, hx, hxv⟩ := Option.map_eq_some_iff.mp hj
    rw [if_neg hslot] at hxv
    exact hxv ▸ hno j x hx

/-- A change of a record that keeps its segment and its move keeps every segment's moves. -/
theorem movesOf_modWell (s : State) (i : Slot) (f : Well → Well) (h : ∀ w, (f w).cfg = w.cfg ∧ (f w).move = w.move) (g : Seg) :
    (modWell s i f).movesOf g = s.movesOf g := by
  rw [movesOf_eq, movesOf_eq]
  refine congrArg (List.filterMap · allSlots) (funext fun j => ?_)
  unfold State.moveOn
  rw [modWell_well]
  cases s.well j with
  | none => rfl
  | some w =>
    dsimp only [Option.map_some, Option.bind_some]
    split
    · rw [(h w).1, (h w).2]
    · rfl

/-- A pending protective field written behind the miss, and the segment with it. -/
theorem OneMiss.pended {s u : State} {g : Seg} {q r : Segment} {i : Slot} {w : Well} (h : OneMiss s u g q i w)
    (hw : s.well i = some w) (p : Option PendingProt) (hcopy : r.sentCopy = none) :
    Machine.refreshBudget g ((setPending i p u).setSeg g r) =
        { s with
          wells := (Machine.refreshBudget g ((setPending i p u).setSeg g r)).wells
          rosters := (Machine.refreshBudget g ((setPending i p u).setSeg g r)).rosters
          segs := s.segs.put g (r.refreshed (s.movingTravel g)) } ∧
      (Machine.refreshBudget g ((setPending i p u).setSeg g r)).well i =
        some { w with missCount := satInc Config.countCap w.missCount, pendingProt := p } ∧
      ∀ j, j ≠ i → (Machine.refreshBudget g ((setPending i p u).setSeg g r)).well j = s.well j := by
  have hmoves : ((setPending i p u).setSeg g r).movesOf g = s.movesOf g :=
    (movesOf_modWell u i (fun w => { w with pendingProt := p }) (fun _ => ⟨rfl, rfl⟩) g).trans (h.movesOf hw g)
  have htravel : ((setPending i p u).setSeg g r).nonProtTravel g = s.movingTravel g := by
    rw [nonProtTravel_of_no_copy (by rw [State.seg_setSeg_self]; exact hcopy)]
    unfold State.movingTravel
    rw [hmoves]
  have hrefresh : Machine.refreshBudget g ((setPending i p u).setSeg g r) =
      (setPending i p u).setSeg g (r.refreshed (s.movingTravel g)) := by
    rw [refreshBudget_eq, htravel, State.seg_setSeg_self, State.setSeg_setSeg]
  have hframe : setPending i p u = { u with wells := (setPending i p u).wells, rosters := (setPending i p u).rosters } :=
    modWell_frame u i (fun w => { w with pendingProt := p }) fun _ => rfl
  have hwell := modWell_well u i (fun w => { w with pendingProt := p })
  rw [hrefresh]
  refine ⟨?_, (setPending_well h.2.1 p), fun j hj => ?_⟩
  · have hsegs : u.segs.put g (r.refreshed (s.movingTravel g)) = s.segs.put g (r.refreshed (s.movingTravel g)) := by
      rw [h.1]
      exact congrArg State.segs (State.setSeg_setSeg s g q _)
    have hput := congrArg State.segs hframe
    dsimp only at hput
    unfold State.setSeg
    rw [hput, hsegs]
    exact (congrArg (fun v : State => { v with segs := s.segs.put g (r.refreshed (s.movingTravel g)) }) hframe).trans
      (congrArg (fun v : State => { v with
        wells := (setPending i p u).wells
        rosters := (setPending i p u).rosters
        segs := s.segs.put g (r.refreshed (s.movingTravel g)) }) h.1)
  · refine (hwell j).trans ?_
    rw [h.2.2 j hj]
    simp only [if_neg hj]
    cases s.well j <;> rfl

/-! ## The failed echo executed -/

/-- The segment behind a failed echo that leaves it the queue `queue`. -/
def Segment.failed (q : Segment) (queue : List Entry) (travel : Nat) : Segment :=
  Segment.refreshed { q.txnMissed.echoFailed with queue := queue } travel

theorem loses_pair {b : Balancer} {c : SentCopy} {e : Entry} {i : Slot} (hc : c.slot = i) (he : e.slot = i) :
    b.loses [c.entry, e] = true ↔
      (c.cls = .balance ∨ e.cls = .balance) ∧ ∃ m, b.move = some m ∧ m.slot = i ∧ m.phase = .queued := by
  rw [← queuedAt_iff]
  unfold Balancer.loses SentCopy.entry
  simp [hc, he, or_and_right]

theorem loses_copy {b : Balancer} {c : SentCopy} {i : Slot} (hc : c.slot = i) :
    b.loses [c.entry] = true ↔
      (c.cls = .balance ∨ c.cls = .balance) ∧ ∃ m, b.move = some m ∧ m.slot = i ∧ m.phase = .queued := by
  rw [← queuedAt_iff, or_self]
  unfold Balancer.loses SentCopy.entry
  simp [hc]

section
variable {s : State} {g : Seg} {x : Txn} {i : Slot} {w : Well} {c : SentCopy}

/-- The miss of a SET on the way to its failed echo. -/
theorem missTxn_set_miss (ha : Awaits s g x i w) (hk : x.kind = .set) (hcopy : (s.seg g).sentCopy = some c)
    (hb : BelowMissLimit s w) :
    ∃ u, OneMiss s u g (s.seg g).txnMissed i w ∧
      missTxn g x s = failedEcho g c u := by
  have hmiss := missWell_oneMiss (g := g) (q := (s.seg g).txnMissed) ha.2.2.2.1 (hb.setSeg g rfl)
  exact ⟨_, hmiss, missTxn_set hk ha.addressed hmiss hcopy⟩

variable (ha : Awaits s g x i w) (hk : x.kind = .set) (hcopy : (s.seg g).sentCopy = some c) (hb : BelowMissLimit s w)
  (hset : Settled s) (hduty : s.unit.role = .duty) (hslot : c.slot = i) (hno : NoPending s)
include ha hk hcopy hb hset hduty hslot

theorem failedEcho_stays (hc : c.cls ≠ .protective) (he : ∀ e, s.entryOf i = some e → e.sent = false) :
    OneMiss { s with balancer := s.balancer.without [c.entry] s.timeBase } (runEvals (missTxn g x s)) g
      ((s.seg g).failed (s.seg g).queue (s.movingTravel g)) i w := by
  obtain ⟨u, hmiss, hrun⟩ := missTxn_set_miss ha hk hcopy hb
  obtain ⟨-, -, -, hw, -, hg, -⟩ := ha
  subst hslot
  have hu : u.isDuty = true := hmiss.isDuty.trans (decide_eq_true hduty)
  have failed := (hmiss.setSeg (u.seg g).echoFailed).leaveEffects c.entry
  rw [hmiss.seg] at failed
  have stays := failedOther_stays failed fun e hq => he e ((entryOf_of_well hw).trans (hg ▸ hq))
  have done := failed.refreshBudget hw rfl
  rw [hrun, failedEcho_other hu hc, hmiss.seg, stays, runEvals_settled (done.settled hset)]
  exact done

include hno

theorem failedEcho_leaves {e : Entry} (hc : c.cls ≠ .protective) (he : s.entryOf i = some e) (hs : e.sent = true) :
    OneMiss { s with balancer := s.balancer.without [c.entry, e] s.timeBase } (runEvals (missTxn g x s)) g
      ((s.seg g).failed (dropSlot i (s.seg g).queue) (s.movingTravel g)) i w := by
  obtain ⟨u, hmiss, hrun⟩ := missTxn_set_miss ha hk hcopy hb
  obtain ⟨-, -, -, hw, -, hg, -⟩ := ha
  subst hslot
  have hu : u.isDuty = true := hmiss.isDuty.trans (decide_eq_true hduty)
  have failed := (hmiss.setSeg (u.seg g).echoFailed).leaveEffects c.entry
  rw [hmiss.seg] at failed
  have leaves := failedOther_leaves (e := e) failed hw hno (by rw [← he, entryOf_of_well hw, hg]; rfl) hs
  rw [Balancer.without_append] at leaves
  have done := leaves.refreshBudget hw rfl
  rw [hrun, failedEcho_other hu hc, hmiss.seg, runEvals_settled (done.settled hset)]
  exact done

omit hno in
theorem failedEcho_answering (hc : c.cls = .protective) (hans : w.answering = true) :
    OneMiss s (runEvals (missTxn g x s)) g
      ((s.seg g).failed ((s.seg g).queue.map fun e => if e.slot = i then { e with sent := false } else e) (s.movingTravel g)) i w := by
  obtain ⟨u, hmiss, hrun⟩ := missTxn_set_miss ha hk hcopy hb
  obtain ⟨-, -, -, hw, -, -, -⟩ := ha
  subst hslot
  have hu : u.isDuty = true := hmiss.isDuty.trans (decide_eq_true hduty)
  have failed := hmiss.setSeg (u.seg g).echoFailed
  rw [hmiss.seg] at failed
  have done := (failedProt_answering failed hans).refreshBudget hw rfl
  rw [hrun, failedEcho_prot hu hc, hmiss.seg, runEvals_settled (done.settled hset)]
  exact done

theorem failedEcho_silent {e : Entry} (hc : c.cls = .protective) (hans : w.answering = false) (he : s.entryOf i = some e)
    (hp : e.cls = .protective) :
    let t := runEvals (missTxn g x s)
    t = { s with
        wells := t.wells
        rosters := t.rosters
        segs := s.segs.put g ((s.seg g).failed (dropSlot i (s.seg g).queue) (s.movingTravel g)) } ∧
      t.well i = some { w with missCount := satInc Config.countCap w.missCount, pendingProt := some ⟨e.target, e.outlet⟩ } ∧
      ∀ j, j ≠ i → t.well j = s.well j := by
  obtain ⟨u, hmiss, hrun⟩ := missTxn_set_miss ha hk hcopy hb
  obtain ⟨-, -, -, hw, -, hg, -⟩ := ha
  subst hslot
  have hu : u.isDuty = true := hmiss.isDuty.trans (decide_eq_true hduty)
  have failed := hmiss.setSeg (u.seg g).echoFailed
  rw [hmiss.seg] at failed
  have silent := failedProt_silent (e := e) failed hno hans (by rw [← he, entryOf_of_well hw, hg]; rfl) hp
  rw [hrun, failedEcho_prot hu hc, hmiss.seg, silent]
  obtain ⟨hframe, hself, hothers⟩ := failed.pended hw (some ⟨e.target, e.outlet⟩) (r := { (s.seg g).txnMissed.echoFailed with
    queue := dropSlot c.slot (s.seg g).queue }) rfl
  have hsettled := runEvals_settled ((congrArg State.evalAsked hframe).trans hset)
  intro t
  have ht : t = _ := hsettled
  rw [ht]
  exact ⟨hframe, hself, hothers⟩

end

theorem echoMatches_other {f : FieldFrame} {target : Nat} {l : Line} (h : f.echoTarget ≠ target ∨ f.echoOutlet ≠ some l) :
    echoMatches f target (some l) = false := by
  unfold echoMatches
  rcases h with h | h <;> simp [h]

theorem receiveFrame_echo_other {s : State} {g : Seg} {f : FieldFrame} {x : Txn} {c : SentCopy} {i : Slot} {w : Well}
    (h : Awaits s g x i w) (hk : x.kind = .set) (hc : (s.seg g).sentCopy = some c) (hf : Arrives f x.dest s.ownAddress)
    (hother : f.echoTarget ≠ c.target ∨ f.echoOutlet ≠ some c.outlet) :
    receiveFrame g f s = runEvals (missTxn g x s) := by
  obtain ⟨hhead, hsource, hdest⟩ := hf
  rw [receiveFrame_wellhead hhead, wellheadFrame_awaiting h.awaiting, judgeReply_set hk hsource hdest]
  unfold judgeSet
  rw [h.addressed, hc]
  dsimp only
  rw [echoMatches_other hother, Bool.and_false, if_neg Bool.false_ne_true]

/-- A SET that times out or is echoed otherwise is missed. -/
theorem setMissed_exec {s late : State} {g : Seg} {x : Txn} {opened : Nat} {i : Slot} {w : Well} {c : SentCopy} {row : Instr}
    (hheld : s.held = false) (ha : Awaits s g x i w) (hopen : x.window = some opened) (hk : x.kind = .set)
    (hcopy : (s.seg g).sentCopy = some c)
    (hrow : (row = .replyTimeout g ∧ late = { s with timeBase := max s.timeBase (opened + x.timeout) }) ∨
      (late = s ∧ ∃ f, row = .echo g f ∧ Arrives f x.dest s.ownAddress ∧ f.isEcho = true ∧
        (f.echoTarget ≠ c.target ∨ f.echoOutlet ≠ some c.outlet))) :
    exec row s = .next (runEvals (missTxn g x late)) := by
  rcases hrow with ⟨rfl, rfl⟩ | ⟨rfl, f, rfl, hf, -, hother⟩
  · rw [(Event.replyTimeout g).exec_free hheld, windowCloses_awaiting ha.awaiting hopen]
  · rw [(Event.echo g f).exec_free hheld, receiveFrame_echo_other ha hk hcopy hf hother]

/-- The state a failed echo leaves but for its time is the one before. -/
theorem failedEcho_late {s late : State} {g : Seg} {x : Txn} {opened : Nat} {c : SentCopy} {row : Instr}
    (hrow : (row = .replyTimeout g ∧ late = { s with timeBase := max s.timeBase (opened + x.timeout) }) ∨
      (late = s ∧ ∃ f, row = .echo g f ∧ Arrives f x.dest s.ownAddress ∧ f.isEcho = true ∧
        (f.echoTarget ≠ c.target ∨ f.echoOutlet ≠ some c.outlet))) : late = { s with timeBase := late.timeBase } := by
  rcases hrow with ⟨-, rfl⟩ | ⟨rfl, -⟩ <;> rfl

/-- Settles O36: the miss by `OneMiss`, then the failed echo by what stands in the queue. -/
theorem failedEchoLeavesTheValveAsItWas : Obligations.FailedEchoLeavesTheValveAsItWas := by
  unfold Obligations.FailedEchoLeavesTheValveAsItWas
  intro s late g x opened i w c row hheld hset hduty ha hopen hk hcopy hslot hb hno hrow q travel failed others balancingGoes ended
  have hexec := setMissed_exec hheld ha hopen hk hcopy hrow
  have hlate := failedEcho_late hrow
  generalize late.timeBase = n at hlate
  subst hlate
  have ha' : Awaits { s with timeBase := n } g x i w := ha
  have hended (gone : List Entry) (h : s.balancer.loses gone = true) :
      ({ s with timeBase := n, balancer := s.balancer.without gone n } : State) = ended :=
    congrArg (fun b => ({ s with timeBase := n, balancer := b } : State)) (if_pos h)
  have hkept (gone : List Entry) (h : s.balancer.loses gone ≠ true) :
      ({ s with timeBase := n, balancer := s.balancer.without gone n } : State) = { s with timeBase := n } :=
    congrArg (fun b => ({ s with timeBase := n, balancer := b } : State)) (if_neg h)
  refine ⟨fun hc he => ?_, fun e hc he hs => ?_, fun hc hans => ⟨_, hexec, ?_⟩, fun e hc hans he hp => ⟨_, hexec, ?_⟩⟩
  · have stays := failedEcho_stays ha' hk hcopy hb hset hduty hslot hc he
    refine ⟨fun hgoes => ⟨_, hexec, ?_⟩, fun hnot => ⟨_, hexec, ?_⟩⟩
    · exact stays.congr (hended [c.entry] ((loses_copy hslot).mpr hgoes))
    · exact stays.congr (hkept [c.entry] (mt (loses_copy hslot).mp hnot))
  · have leaves := failedEcho_leaves ha' hk hcopy hb hset hduty hslot hno hc he hs
    have heslot : e.slot = i := (Segment.entryOf_some ((entryOf_of_well ha.2.2.2.1).symm.trans he)).2
    refine ⟨fun hgoes => ⟨_, hexec, ?_⟩, fun hnot => ⟨_, hexec, ?_⟩⟩
    · exact leaves.congr (hended [c.entry, e] ((loses_pair hslot heslot).mpr hgoes))
    · exact leaves.congr (hkept [c.entry, e] (mt (loses_pair hslot heslot).mp hnot))
  · exact failedEcho_answering ha' hk hcopy hb hset hduty hslot hc hans
  · exact failedEcho_silent ha' hk hcopy hb hset hduty hslot hno hc hans he hp

end Sys2Proof.Machine
end

section
/-! PROOF. Arbitration and the yield (O29), executed. -/

-- One theorem at a time: the one-text build of the package runs out of threads otherwise.
set_option Elab.async false

namespace Sys2Proof.Machine

/-! ## In STANDBY nothing is offered -/

/-- From `s` to `t` role and time stay, and in STANDBY the uplink does. -/
structure Mute (s t : State) : Prop where
  unit : t.unit = s.unit
  timeBase : t.timeBase = s.timeBase
  link : s.isDuty = false → t.link = s.link

theorem Mute.refl (s : State) : Mute s s := ⟨rfl, rfl, fun _ => rfl⟩

theorem Mute.isDuty {s t : State} (h : Mute s t) : t.isDuty = s.isDuty := by
  unfold State.isDuty
  rw [h.unit]

theorem Mute.trans {s t u : State} (a : Mute s t) (b : Mute t u) : Mute s u :=
  ⟨b.unit.trans a.unit, b.timeBase.trans a.timeBase, fun h => (b.link (a.isDuty.trans h)).trans (a.link h)⟩

theorem mute_putWell (s : State) (i : Slot) (w : Option Well) : Mute s (putWell s i w) := by
  rw [putWell_frame]
  exact ⟨rfl, rfl, fun _ => rfl⟩

theorem mute_modWell (s : State) (i : Slot) (f : Well → Well) : Mute s (modWell s i f) := by
  unfold modWell
  split
  · exact mute_putWell _ _ _
  · exact .refl s

theorem mute_endBalancing (r : Ending) (s : State) : Mute s (endBalancing r s) := by
  unfold endBalancing
  split
  · exact ⟨rfl, rfl, fun _ => rfl⟩
  · exact .refl s

theorem outletRules_mute : OutletRules Mute where
  refl := .refl
  trans := .trans
  seg := fun _ _ _ _ => ⟨rfl, rfl, fun _ => rfl⟩
  pending := fun _ _ _ => mute_modWell _ _ _
  ending := mute_endBalancing
  reason := fun _ _ _ => mute_modWell _ _ _
  count := fun _ => ⟨rfl, rfl, fun _ => rfl⟩

theorem mute_modConds (s : State) (f : Conditions → Conditions) : Mute s (s.modConds f) := ⟨rfl, rfl, fun _ => rfl⟩

theorem mute_bumpRec (k : CondKind) (src : Nat) (s : State) : Mute s (bumpRec k src s) := ⟨rfl, rfl, fun _ => rfl⟩

theorem mute_evalTaking (s : State) : Mute s (evalTaking s) := by
  have inner := inner_evalTaking (d := False) s
  exact ⟨inner.unit, inner.timeBase, fun h => by rw [evalTaking_standby h]⟩

theorem mute_raiseCond (k : CondKind) (src : Nat) (m n : Option Int) (s : State) : Mute s (raiseCond k src m n s) := by
  unfold raiseCond
  split
  · exact mute_bumpRec _ _ s
  · exact (mute_modConds s _).trans (mute_evalTaking _)

theorem mute_withdraw (k : CondKind) (src : Nat) (s : State) : Mute s (withdraw k src s) := by
  unfold withdraw
  split
  · exact (mute_modConds s _).trans (mute_evalTaking _)
  · exact .refl s

theorem mute_treatLineKind (k : CondKind) (b : Bool) (m : Option Nat) (n : Nat) (s : State) : Mute s (treatLineKind k b m n s) := by
  have count : ∀ x, Mute s (setLineCount k x s) := fun _ => ⟨rfl, rfl, fun _ => rfl⟩
  unfold treatLineKind
  dsimp only
  split
  · split
    · exact (count 0).trans (mute_bumpRec _ _ _)
    · split
      · exact (count 0).trans (mute_raiseCond _ _ _ _ _)
      · exact count _
  · exact (count 0).trans (mute_withdraw _ _ _)

theorem evalRules_mute : EvalRules Mute where
  toQueueRules := outletRules_mute.toQueueRules
  line := fun _ _ _ => ⟨rfl, rfl, fun _ => rfl⟩
  treat := fun l r s => by
    cases l with
    | engine => exact (mute_treatLineKind _ _ _ _ s).trans (mute_treatLineKind _ _ _ _ _)
    | flare => exact mute_treatLineKind _ _ _ _ s
  balance := fun _ _ => ⟨rfl, rfl, fun _ => rfl⟩
  asked := fun _ _ => ⟨rfl, rfl, fun _ => rfl⟩

theorem mute_examineSite (b : Bool) (s : State) : Mute s (examineSite b s) := by
  unfold examineSite
  split
  · split
    · split
      · exact mute_bumpRec _ _ s
      · exact .refl s
    · exact mute_raiseCond _ _ _ _ s
  · exact .refl s

theorem mute_outletRuleAt (i : Slot) (s : State) : Mute s (outletRuleAt i s) :=
  (outletRules_mute.applyOutletRule i s).trans (mute_examineSite false _)

/-! ## The steps of a yield (R184, R185) -/

theorem mute_cutOff (s : State) (g : Seg) : Mute s (cutOff s g) := by
  have stopped : Mute s (s.modSeg g fun q => { q with presenceTimer := none, presenceDue := false }) := ⟨rfl, rfl, fun _ => rfl⟩
  have cut : Mute s ((s.modSeg g fun q => { q with presenceTimer := none, presenceDue := false }).modSeg g
      fun q => { q with sending := none, txn := none, sentCopy := none }) := ⟨rfl, rfl, fun _ => rfl⟩
  unfold cutOff
  dsimp only
  split
  · exact stopped
  · split
    · exact cut
    · split
      · exact cut.trans (mute_modWell _ _ _)
      · split
        · exact cut.trans (mute_endBalancing _ _)
        · exact cut

theorem endBalancing_seg (r : Ending) (s : State) (k : Seg) : (endBalancing r s).seg k = s.seg k := by
  unfold endBalancing
  split <;> rfl

/-- The transmission and the presence timer of a segment cut off; the others stand. -/
theorem cutOff_exchange (s : State) (g k : Seg) :
    ((cutOff s g).seg k).sending = (if k = g then none else (s.seg k).sending) ∧
      ((cutOff s g).seg k).presenceTimer = (if k = g then none else (s.seg k).presenceTimer) ∧
      ((cutOff s g).seg k).queue = (s.seg k).queue := by
  have hstopped : (s.modSeg g fun q => { q with presenceTimer := none, presenceDue := false }).seg k =
      if k = g then { s.seg g with presenceTimer := none, presenceDue := false } else s.seg k := State.seg_modSeg _ _ _ _
  have hcut : ((s.modSeg g fun q => { q with presenceTimer := none, presenceDue := false }).modSeg g
      fun q => { q with sending := none, txn := none, sentCopy := none }).seg k =
      if k = g then { s.seg g with presenceTimer := none, presenceDue := false, sending := none, txn := none, sentCopy := none }
      else s.seg k := by
    rw [State.seg_modSeg, State.seg_modSeg, State.seg_modSeg]
    split
    · next h => subst h; rw [if_pos rfl]
    · rfl
  have after {u : State} (h : u.seg k = if k = g then { s.seg g with
        presenceTimer := none, presenceDue := false, sending := none, txn := none, sentCopy := none } else s.seg k) :
      (u.seg k).sending = (if k = g then none else (s.seg k).sending) ∧
        (u.seg k).presenceTimer = (if k = g then none else (s.seg k).presenceTimer) ∧ (u.seg k).queue = (s.seg k).queue := by
    rw [h]
    split
    · next h => subst h; exact ⟨rfl, rfl, rfl⟩
    · exact ⟨rfl, rfl, rfl⟩
  unfold cutOff
  dsimp only
  split
  · next hsending =>
    rw [hstopped]
    split
    · next h => subst h; exact ⟨hsending, rfl, rfl⟩
    · exact ⟨rfl, rfl, rfl⟩
  · split
    · exact after hcut
    · split
      · exact after ((setPending_seg _ _ _ _).trans hcut)
      · split
        · exact after ((endBalancing_seg _ _ _).trans hcut)
        · exact after hcut

theorem mute_leaveEffects (e : Entry) (s : State) : Mute s (leaveEffects e s) := outletRules_mute.toQueueRules.leaveEffects e s

theorem mute_yieldEntry (s : State) (e : Entry) : Mute s (yieldEntry s e) := by
  unfold yieldEntry
  split
  · split
    · exact .refl s
    · exact mute_leaveEffects e s
  · split
    · refine Mute.trans ?_ (mute_outletRuleAt e.slot _)
      split
      · exact .refl s
      · exact mute_modWell _ _ _
    · exact .refl s

theorem mute_foldl {α : Type} {f : State → α → State} (hf : ∀ s x, Mute s (f s x)) (xs : List α) (s : State) :
    Mute s (xs.foldl f s) := by
  induction xs generalizing s with
  | nil => exact .refl s
  | cons x rest ih => exact (hf s x).trans (ih _)

theorem mute_emptyQueue (s : State) (g : Seg) : Mute s (emptyQueue s g) :=
  Mute.trans (t := s.modSeg g fun q => { q with queue := [] }) ⟨rfl, rfl, fun _ => rfl⟩ (mute_foldl mute_yieldEntry _ _)

theorem dormant_yieldEntry {s : State} (h : s.isDuty = false) (e : Entry) : Dormant True s (yieldEntry s e) := by
  unfold yieldEntry
  split
  · split
    · exact .refl s
    · exact dormant_leaveEffects e s
  · split
    · have pended : Dormant True s (if e.sent then s else setPending e.slot (some ⟨e.target, e.outlet⟩) s) := by
        split
        · exact .refl s
        · exact dormant_modWell _ _ _ (.inl trivial)
      exact pended.trans (dormant_outletRuleAt e.slot (pended.isDuty h))
    · exact .refl s

theorem dormant_yieldEntries (entries : List Entry) {s : State} (h : s.isDuty = false) :
    Dormant True s (entries.foldl yieldEntry s) := by
  induction entries generalizing s with
  | nil => exact .refl s
  | cons e rest ih =>
    have first := dormant_yieldEntry h e
    exact first.trans (ih (first.isDuty h))

/-- A queue emptied by a yield stays empty, and so does every queue that was (R184). -/
theorem emptyQueue_empty {s : State} (h : s.isDuty = false) {g k : Seg} (hk : k = g ∨ (s.seg k).queue = []) :
    ((emptyQueue s g).seg k).queue = [] := by
  have hstart : ((s.modSeg g fun q => { q with queue := [] }).seg k).queue = [] := by
    rw [State.seg_modSeg]
    split
    · rfl
    · next hne => exact hk.resolve_left hne
  have hduty : (s.modSeg g fun q => { q with queue := [] }).isDuty = false := h
  exact (dormant_yieldEntries (s.seg g).queue hduty).empty k hstart

/-- The state of a yield in its new role, before the segments are cut off. -/
def yieldStart (s : State) : State := s.modUnit fun u => { u with role := .standby, silenceStart := some s.timeBase }

theorem yieldRole_eq (s : State) : yieldRole s = Seg.all.foldl emptyQueue (Seg.all.foldl cutOff (yieldStart s)) := rfl

theorem mute_yieldRole (s : State) : Mute (yieldStart s) (yieldRole s) := by
  rw [yieldRole_eq]
  exact (mute_foldl mute_cutOff Seg.all (yieldStart s)).trans (mute_foldl mute_emptyQueue Seg.all _)

theorem cutOffs_exchange (s : State) (k : Seg) :
    ((Seg.all.foldl cutOff s).seg k).sending = none ∧ ((Seg.all.foldl cutOff s).seg k).presenceTimer = none := by
  unfold Seg.all
  simp only [List.foldl_cons, List.foldl_nil, (cutOff_exchange _ _ _).1, (cutOff_exchange _ _ _).2.1]
  cases k <;> exact ⟨rfl, rfl⟩

theorem emptyQueues_inner (s : State) : Inner False s (Seg.all.foldl emptyQueue s) := by
  unfold Seg.all
  simp only [List.foldl_cons, List.foldl_nil]
  exact (((inner_emptyQueue s .a).trans (inner_emptyQueue _ .b)).trans (inner_emptyQueue _ .c)).trans (inner_emptyQueue _ .d)

theorem emptyQueues_empty {s : State} (h : s.isDuty = false) (k : Seg) : ((Seg.all.foldl emptyQueue s).seg k).queue = [] := by
  have ha := (mute_emptyQueue s .a).isDuty.trans h
  have hb := (mute_emptyQueue (emptyQueue s .a) .b).isDuty.trans ha
  have hc := (mute_emptyQueue (emptyQueue (emptyQueue s .a) .b) .c).isDuty.trans hb
  unfold Seg.all
  simp only [List.foldl_cons, List.foldl_nil]
  cases k with
  | a => exact emptyQueue_empty hc (.inr (emptyQueue_empty hb (.inr (emptyQueue_empty ha (.inr (emptyQueue_empty h (.inl rfl)))))))
  | b => exact emptyQueue_empty hc (.inr (emptyQueue_empty hb (.inr (emptyQueue_empty ha (.inl rfl)))))
  | c => exact emptyQueue_empty hc (.inr (emptyQueue_empty hb (.inl rfl)))
  | d => exact emptyQueue_empty hc (.inl rfl)

theorem yieldRole_exchanges (s : State) (k : Seg) :
    ((yieldRole s).seg k).queue = [] ∧ ((yieldRole s).seg k).sending = none ∧ ((yieldRole s).seg k).presenceTimer = none := by
  have hstandby : (Seg.all.foldl cutOff (yieldStart s)).isDuty = false :=
    (mute_foldl mute_cutOff Seg.all (yieldStart s)).isDuty.trans rfl
  have hcore := (emptyQueues_inner (Seg.all.foldl cutOff (yieldStart s))).core k
  obtain ⟨hsending, htimer⟩ := cutOffs_exchange (yieldStart s) k
  rw [yieldRole_eq]
  exact ⟨emptyQueues_empty hstandby k, (congrArg (fun q => q.2.2.2.2.2.1) hcore).trans hsending,
    (congrArg (fun q => q.2.2.2.2.2.2.2.1) hcore).trans htimer⟩

/-! ## A yield with its conflict and its notice (R186, R187) -/

theorem yieldTo_eq (cause : RoleCause) (g : Seg) (s : State) : yieldTo cause g s =
    offerUrgent (.role (standbyNotice (raiseConflict (yieldRole s)) cause g s.queuedCount)) (raiseConflict (yieldRole s)) := rfl

theorem offerUrgent_unit (f : Uplink) (s : State) : (offerUrgent f s).unit = s.unit := rfl

theorem offerUrgent_seg (f : Uplink) (s : State) (k : Seg) : (offerUrgent f s).seg k = s.seg k := rfl

theorem offerUrgent_hasRec (f : Uplink) (s : State) (k : CondKind) (src : Nat) : (offerUrgent f s).hasRec k src = s.hasRec k src := rfl

theorem offerUrgent_link (f : Uplink) (s : State) : (offerUrgent f s).link = s.link.offerUrgent f := rfl

theorem roleConflict_not_line : CondKind.roleConflict ≠ .lineOxygenHigh ∧ CondKind.roleConflict ≠ .engineBlendLow ∧
    CondKind.roleConflict ≠ .flareBlendLow := by decide

/-- A yield in state `s`: the role, the segments, the conflict and the notice it leaves behind the evaluations. -/
structure Yielded (cause : RoleCause) (g : Seg) (s t : State) : Prop where
  unit : t.unit = { s.unit with role := .standby, silenceStart := some s.timeBase }
  timeBase : t.timeBase = s.timeBase
  conflict : t.hasRec .roleConflict 98 = true
  segs : ∀ k : Seg, (t.seg k).queue = [] ∧ (t.seg k).sending = none ∧ (t.seg k).presenceTimer = none
  notice : s.link.transmitter ≠ none → s.link.urgent.length < 16 →
    t.link.urgent = s.link.urgent ++ [.role ⟨s.timeBase, .standby, .duty, cause, s.ownAddress, some (s.otherAddress, g), none,
      some s.queuedCount⟩]

theorem Reports.segs {s t : State} (h : Reports s t) : t.segs = s.segs := by rw [h]

theorem yieldTo_yielded (cause : RoleCause) (g : Seg) (s : State) : Yielded cause g s (runEvals (yieldTo cause g s)) := by
  rw [yieldTo_eq]
  have conflict : Reports (yieldRole s) (raiseConflict (yieldRole s)) := reports_raiseCond _ _ _ _ _
  have mute : Mute (yieldStart s) (raiseConflict (yieldRole s)) := (mute_yieldRole s).trans (mute_raiseCond _ _ _ _ _)
  have hrec : (raiseConflict (yieldRole s)).hasRec .roleConflict 98 = true := hasRec_raiseCond _ _ _ _ _
  have hseg (k : Seg) : (raiseConflict (yieldRole s)).seg k = (yieldRole s).seg k := by
    unfold State.seg
    rw [conflict.segs]
  generalize raiseConflict (yieldRole s) = v at mute hrec hseg
  have hunit : v.unit = { s.unit with role := .standby, silenceStart := some s.timeBase } := mute.unit
  have hlink : v.link = s.link := mute.link rfl
  have htime : v.timeBase = s.timeBase := mute.timeBase
  have hnotice : standbyNotice v cause g s.queuedCount = ⟨s.timeBase, .standby, .duty, cause, s.ownAddress,
      some (s.otherAddress, g), none, some s.queuedCount⟩ := by
    unfold standbyNotice State.ownAddress State.otherAddress
    rw [htime, hunit]
  rw [hnotice]
  generalize hf : Uplink.role _ = f
  have hstandby : (offerUrgent f v).isDuty = false := by
    unfold State.isDuty
    rw [offerUrgent_unit, hunit]
    rfl
  have quiet := evalRules_mute.runEvals (offerUrgent f v)
  have inner := inner_runEvals (d := False) (offerUrgent f v)
  have dormant := dormant_runEvals (p := True) hstandby
  refine ⟨quiet.unit.trans hunit, quiet.timeBase.trans htime, ?_, fun k => ?_, fun htransmitter hroom => ?_⟩
  · exact (evalRules_keepsRec roleConflict_not_line).runEvals (offerUrgent f v) hrec
  · obtain ⟨hqueue, hsending, htimer⟩ := yieldRole_exchanges s k
    have hcore := inner.core k
    refine ⟨dormant.empty k (by rw [offerUrgent_seg, hseg]; exact hqueue), (congrArg (fun q => q.2.2.2.2.2.1) hcore).trans ?_,
      (congrArg (fun q => q.2.2.2.2.2.2.2.1) hcore).trans ?_⟩
    · exact (congrArg Segment.sending (hseg k)).trans hsending
    · exact (congrArg Segment.presenceTimer (hseg k)).trans htimer
  · rw [quiet.link hstandby, offerUrgent_link, hlink, (Link.offerUrgent_room htransmitter hroom f).1, hf]

/-! ## The transaction not begun (R181) -/

/-- Segment `q` without the transaction `t` that was being begun, its loss counted. -/
def Segment.lost (q : Segment) (t : Txn) : Segment :=
  { q with
    sending := none
    txn := none
    pointer := t.undo.pointer.getD q.pointer
    position := t.undo.position
    round := t.undo.round
    counters :=
      { q.counters with
        arbitrationLosses := satInc 65535 q.counters.arbitrationLosses
        transactions := if t.undo.counted then q.counters.transactions - 1 else q.counters.transactions } }

/-- Segment `q` with one arbitration loss more. -/
def Segment.countLoss (q : Segment) : Segment :=
  { q with counters := { q.counters with arbitrationLosses := satInc 65535 q.counters.arbitrationLosses } }

section
variable {s : State} {g : Seg} {t : Txn}

theorem unbegin_poll (ht : (s.seg g).txn = some t) (hk : t.kind = .poll) :
    unbegin g (s.setSeg g (s.seg g).countLoss) = s.setSeg g ((s.seg g).lost t) := by
  have htxn : ((s.setSeg g (s.seg g).countLoss).seg g).txn = some t := by rw [State.seg_setSeg_self]; exact ht
  unfold unbegin
  rw [htxn]
  dsimp only
  rw [hk]
  simp only [State.modSeg_eq, State.seg_setSeg_self, State.setSeg_setSeg]
  rfl

theorem unbegin_presence (ht : (s.seg g).txn = some t) (hk : t.kind = .presence) :
    unbegin g (s.setSeg g (s.seg g).countLoss) = s.setSeg g { (s.seg g).lost t with presenceDue := true } := by
  have htxn : ((s.setSeg g (s.seg g).countLoss).seg g).txn = some t := by rw [State.seg_setSeg_self]; exact ht
  unfold unbegin
  rw [htxn]
  dsimp only
  rw [hk]
  simp only [State.modSeg_eq, State.seg_setSeg_self, State.setSeg_setSeg]
  rfl

theorem unbegin_set {i : Slot} (ht : (s.seg g).txn = some t) (hk : t.kind = .set) (hi : t.slot = some i) :
    unbegin g (s.setSeg g (s.seg g).countLoss) = s.setSeg g { (s.seg g).lost t with
      queue := (s.seg g).queue.map fun e => if e.slot = i then { e with sent := false } else e
      sentCopy := none } := by
  have htxn : ((s.setSeg g (s.seg g).countLoss).seg g).txn = some t := by rw [State.seg_setSeg_self]; exact ht
  unfold unbegin
  rw [htxn]
  dsimp only
  rw [hk, hi]
  unfold clearCopy unsend
  simp only [State.modSeg_eq, State.seg_setSeg_self, State.setSeg_setSeg]
  rfl

end

/-- From `s` to `t` the segments alone have changed, and no queue is longer or shorter. -/
structure SegsAlone (s t : State) : Prop where
  frame : t = { s with segs := t.segs }
  length : ∀ k, (t.seg k).queue.length = (s.seg k).queue.length

theorem SegsAlone.refl (s : State) : SegsAlone s s := ⟨rfl, fun _ => rfl⟩

theorem SegsAlone.trans {s t u : State} (a : SegsAlone s t) (b : SegsAlone t u) : SegsAlone s u := by
  refine ⟨?_, fun k => (b.length k).trans (a.length k)⟩
  have e := b.frame
  rw [a.frame] at e
  exact e

theorem segsAlone_modSeg (s : State) (g : Seg) (f : Segment → Segment)
    (h : ∀ q, (f q).queue.length = q.queue.length := by intro _; rfl) : SegsAlone s (s.modSeg g f) := by
  refine ⟨rfl, fun k => ?_⟩
  rw [State.seg_modSeg]
  split
  · next e => subst e; exact h _
  · rfl

theorem SegsAlone.queuedCount {s t : State} (h : SegsAlone s t) : t.queuedCount = s.queuedCount := by
  unfold State.queuedCount
  simp only [h.length]

theorem segsAlone_unbegin (g : Seg) (s : State) : SegsAlone s (unbegin g s) := by
  unfold unbegin
  split
  · exact segsAlone_modSeg s g _
  · next t _ =>
    have undone := segsAlone_modSeg s g fun q => { q with
      sending := none
      txn := none
      pointer := t.undo.pointer.getD q.pointer
      position := t.undo.position
      round := t.undo.round
      counters := uncount t.undo.counted q.counters }
    dsimp only
    split
    · exact undone.trans (segsAlone_modSeg _ _ _)
    · exact (undone.trans (segsAlone_modSeg _ g _ fun q => by simp)).trans (segsAlone_modSeg _ g _)
    · exact undone.trans (segsAlone_modSeg _ g _)
    · exact undone

/-! ## Arbitration and the other controller executed -/

theorem loseArbitration_sending {s : State} {g : Seg} {winner : Nat} {f : FieldFrame} (hlow : winner < s.ownAddress)
    (hf : (s.seg g).sending = some f) :
    loseArbitration g winner s =
      if (unbegin g (s.setSeg g (s.seg g).countLoss)).isDuty && decide (winner = (unbegin g (s.setSeg g (s.seg g).countLoss)).otherAddress)
      then runEvals (yieldTo .arbitration g (unbegin g (s.setSeg g (s.seg g).countLoss)))
      else unbegin g (s.setSeg g (s.seg g).countLoss) := by
  have hlost : s.modCounters g (fun c => { c with arbitrationLosses := counterInc c.arbitrationLosses }) =
      s.setSeg g (s.seg g).countLoss := rfl
  unfold loseArbitration
  rw [if_neg (Nat.not_le.mpr hlow)]
  dsimp only
  rw [hf, hlost]

theorem segsAlone_lost (g : Seg) (s : State) : SegsAlone s (unbegin g (s.setSeg g (s.seg g).countLoss)) :=
  SegsAlone.trans (t := s.setSeg g (s.seg g).countLoss) (segsAlone_modSeg s g Segment.countLoss) (segsAlone_unbegin g _)

theorem SegsAlone.unit {s t : State} (h : SegsAlone s t) : t.unit = s.unit := by rw [h.frame]

theorem SegsAlone.link {s t : State} (h : SegsAlone s t) : t.link = s.link := by rw [h.frame]

theorem SegsAlone.timeBase {s t : State} (h : SegsAlone s t) : t.timeBase = s.timeBase := by rw [h.frame]

theorem Yielded.of_segsAlone {cause : RoleCause} {g : Seg} {s u t : State} (a : SegsAlone s u) (h : Yielded cause g u t) :
    Yielded cause g s t := by
  refine ⟨?_, h.timeBase.trans a.timeBase, h.conflict, h.segs, fun htransmitter hroom => ?_⟩
  · rw [h.unit, a.unit, a.timeBase]
  · have notice := h.notice (a.link ▸ htransmitter) (a.link ▸ hroom)
    have hown : u.ownAddress = s.ownAddress := by unfold State.ownAddress; rw [a.unit]
    have hother : u.otherAddress = s.otherAddress := by unfold State.otherAddress; rw [a.unit]
    rw [notice, a.link, a.timeBase, a.queuedCount, hown, hother]

theorem ownAddress_high {s : State} (h : s.unit.strapHigh = true) : s.ownAddress = 251 := by
  unfold State.ownAddress
  rw [h]
  rfl

theorem otherAddress_high {s : State} (h : s.unit.strapHigh = true) : s.otherAddress = 250 := by
  unfold State.otherAddress
  rw [h]
  rfl

theorem otherFrame_quiet {s : State} {g : Seg} (h : Quiet s g) (f : FieldFrame) : otherFrame g f s = hearOther g f s := by
  obtain ⟨htxn, -, hover⟩ := h
  unfold otherFrame
  rw [awaiting_eq_none htxn, hover]

theorem hearOther_high {s : State} {g : Seg} {f : FieldFrame} (hduty : s.unit.role = .duty) (hstrap : s.unit.strapHigh = true) :
    hearOther g f s = yieldTo .yielded g { s with unit := { s.unit with lastOther := some (s.timeBase, g) } } := by
  unfold hearOther
  dsimp only
  rw [show (s.modUnit fun u => { u with lastOther := some (s.timeBase, g) }).isDuty = true from decide_eq_true hduty, if_pos rfl]
  exact if_pos hstrap

theorem hearOther_low {s : State} {g : Seg} {f : FieldFrame} (hduty : s.unit.role = .duty) (hstrap : s.unit.strapHigh = false) :
    hearOther g f s = raiseConflict { s with unit := { s.unit with lastOther := some (s.timeBase, g) } } := by
  have hlow : (s.modUnit fun u => { u with lastOther := some (s.timeBase, g) }).unit.strapHigh = false := hstrap
  unfold hearOther
  dsimp only
  rw [show (s.modUnit fun u => { u with lastOther := some (s.timeBase, g) }).isDuty = true from decide_eq_true hduty, if_pos rfl,
    hlow]
  rfl

/-- A condition raised changes the conditions and the uplink alone. -/
theorem raiseCond_frame (k : CondKind) (src : Nat) (m n : Option Int) (s : State) :
    raiseCond k src m n s = { s with conds := (raiseCond k src m n s).conds, link := (raiseCond k src m n s).link } := by
  have taking (u : State) : evalTaking u = { u with conds := (evalTaking u).conds, link := (evalTaking u).link } := by
    unfold evalTaking
    split
    · split <;> rfl
    · rfl
  unfold raiseCond
  split
  · rfl
  · exact taking (s.modConds _)

/-- Settles O29: the transaction not begun by case of its kind, the yield by `yieldTo_yielded`. -/
theorem theLowerAddressWins : Obligations.TheLowerAddressWins := by
  unfold Obligations.TheLowerAddressWins
  refine ⟨fun s g winner hown => ?_, fun s g winner f t hheld hf ht hlow hother => ?_, fun s g hheld hduty hset => ?_,
    fun s g f hheld hduty hstrap hset hf hquiet => ?_⟩
  · have e : loseArbitration g winner s = s := if_pos hown
    have run : whileRunning (loseArbitration g winner) s = s := by
      unfold whileRunning
      rw [e, ite_self]
    exact congrArg _ run
  · have htie : (unbegin g (s.setSeg g (s.seg g).countLoss)).otherAddress = s.otherAddress := by
      unfold State.otherAddress
      rw [(segsAlone_lost g s).unit]
    have hexec : exec (.arbitrationLoss g winner) s = .next (unbegin g (s.setSeg g (s.seg g).countLoss)) := by
      rw [(Event.arbitrationLoss g winner).exec_free hheld, loseArbitration_sending hlow hf, htie]
      simp [hother]
    intro q before
    rw [hexec]
    exact ⟨fun hk => congrArg _ (unbegin_poll ht hk), fun hk => congrArg _ (unbegin_presence ht hk),
      fun i hk hi => congrArg _ (unbegin_set ht hk hi)⟩
  · intro yielded
    have arrived {x : RoleUnit} {cause : RoleCause} {t : State} (hstrap : x.strapHigh = true)
        (h : Yielded cause g { s with unit := x } t) (hundisturbed : Undisturbed s t) : yielded cause t := by
      refine ⟨congrArg RoleUnit.role h.unit, congrArg RoleUnit.silenceStart h.unit, hundisturbed, h.timeBase, h.conflict, h.segs,
        fun htransmitter hroom => ?_⟩
      have notice := h.notice htransmitter hroom
      rw [ownAddress_high (s := { s with unit := x }) hstrap, otherAddress_high (s := { s with unit := x }) hstrap] at notice
      exact notice
    have hheard {f : FieldFrame} (hf : FromOther s f) (hquiet : Quiet s g) : receiveFrame g f s = runEvals (hearOther g f s) := by
      rw [receiveFrame_other hf, otherFrame_quiet hquiet]
    refine ⟨fun f hstrap hf => ⟨_, (Event.arbitrationLoss g 250).exec_free hheld, ?_⟩,
      fun f hstrap hf hquiet => ⟨_, (Event.otherControllerFrame g f).exec_free hheld, ?_, ?_⟩⟩
    · have hlost : loseArbitration g 250 s = runEvals (yieldTo .arbitration g (unbegin g (s.setSeg g (s.seg g).countLoss))) := by
        have alone := segsAlone_lost g s
        rw [loseArbitration_sending (by rw [ownAddress_high hstrap]; decide) hf]
        refine if_pos ?_
        rw [otherAddress_high (by rw [alone.unit]; exact hstrap)]
        unfold State.isDuty
        rw [alone.unit, hduty]
        rfl
      have hundisturbed := (Event.arbitrationLoss g 250).undisturbed s
      rw [whileRunning_free _ hheld] at hundisturbed
      rw [hlost] at hundisturbed ⊢
      have done : Yielded .arbitration g s _ := .of_segsAlone (segsAlone_lost g s) (yieldTo_yielded _ _ _)
      exact arrived (x := s.unit) hstrap done hundisturbed
    · have hundisturbed := (Event.otherControllerFrame g f).undisturbed s
      rw [whileRunning_free _ hheld] at hundisturbed
      rw [hheard hf hquiet, hearOther_high hduty hstrap] at hundisturbed ⊢
      exact arrived (x := { s.unit with lastOther := some (s.timeBase, g) }) hstrap (yieldTo_yielded _ _ _) hundisturbed
    · rw [hheard hf hquiet, hearOther_high hduty hstrap]
      have hunit := (yieldTo_yielded .yielded g { s with unit := { s.unit with lastOther := some (s.timeBase, g) } }).unit
      exact congrArg RoleUnit.lastOther hunit
  · have hheard : receiveFrame g f s = runEvals (hearOther g f s) := by rw [receiveFrame_other hf, otherFrame_quiet hquiet]
    have hsettled : Settled (raiseConflict { s with unit := { s.unit with lastOther := some (s.timeBase, g) } }) :=
      (inner_raiseConflict (d := False) _).settled hset
    have keeps := (inner_raiseConflict (d := False) { s with unit := { s.unit with lastOther := some (s.timeBase, g) } }).keeps
    refine ⟨_, (Event.otherControllerFrame g f).exec_free hheld, ?_⟩
    rw [hheard, hearOther_low hduty hstrap, runEvals_settled hsettled]
    exact ⟨raiseCond_frame _ _ _ _ _, hasRec_raiseCond _ _ _ _ _, keeps.kinds, keeps.mode⟩

end Sys2Proof.Machine
end

section
/-! PROOF. Two statements about an accepted sample fail in a state with two entries for one well, which R153 rules out but their
hypotheses do not (O32, O33): the sample ends the well's move, the over-budget entry at the head of the queue leaves, and a PROTECTIVE
entry that was not the one found for the well comes to light before the excursions are tested. -/

-- One theorem at a time: the one-text build of the package runs out of threads otherwise.
set_option Elab.async false

namespace Sys2Proof.Machine

/-- A well on the ENGINE roster whose move a sample at position 500 settles, one HOT excursion short of its verification. -/
def movedWell (p : Permit) : Well :=
  { Well.fresh ⟨12, .a, true, p, 100, 900, 40, 20, 520, 6, 10, 180, 300⟩ .engine with
    target := some 500
    last := some ⟨none, -1000, none, 100, true, 500, false, [], 0⟩
    excursions := ⟨14, 0, 0, 0⟩
    move := some ⟨500, .engine, .trim, 10, 0⟩ }

/-- A duty machine that has polled slot 12, whose queue holds a TRIM entry that travels further than the budget and, behind it, a
PROTECTIVE entry to FLARE. -/
def coveredEntry (p : Permit) (lost : Bool) : State :=
  { State.reset with
    wells := (Vector.replicate 96 none).set 12 (some (movedWell p))
    rosters := ⟨[12], []⟩
    segs := State.reset.segs.put .a
      { Segment.start .reset with
        settings := { SegSettings.reset with budget := 50 }
        txn := some ⟨.poll, some 12, 12, 0, 100, some 0, ⟨none, none, 0, false⟩⟩
        queue := [⟨12, 800, .engine, .trim, false⟩, ⟨12, 100, .flare, .protective, false⟩] }
    balancer := { State.reset.balancer with lineLost := lost }
    link := { State.reset.link with transmitter := some (.role ⟨0, .duty, .standby, .takeover, 250, none, none, none⟩) }
    unit := ⟨.duty, false, none, none⟩ }

/-- A SAMPLE at 120 degrees and position 500 with no gas block. -/
def hotSample : FieldFrame :=
  FieldFrame.make 12 250 2 [2#8, 0#8, 0#8, 0#8, 0#8, 0#8, 0#8, 0x18#8, 0xFC#8, 120#8, 0#8, 0#8, 0xF4#8, 1#8]

theorem coveredEntry_well (p : Permit) (lost : Bool) (j : Slot) :
    (coveredEntry p lost).well j = if j = 12 then some (movedWell p) else none := by
  unfold State.well coveredEntry
  simp only [Vector.getElem_set, Vector.getElem_replicate]
  by_cases h : j = 12
  · subst h; rfl
  · have : ¬ 12 = j.val := fun e => h (Fin.ext e.symm)
    simp [h, this]

theorem coveredEntry_awaits (p : Permit) (lost : Bool) : Awaits (coveredEntry p lost) .a
    ⟨.poll, some 12, 12, 0, 100, some 0, ⟨none, none, 0, false⟩⟩ 12 (movedWell p) :=
  ⟨rfl, rfl, rfl, (coveredEntry_well p lost 12).trans (if_pos rfl), rfl, rfl, rfl⟩

theorem hotSample_arrives (p : Permit) (lost : Bool) : Arrives hotSample 12 (coveredEntry p lost).ownAddress := by
  refine ⟨by decide +kernel, by decide +kernel, ?_⟩
  have hown : (coveredEntry p lost).ownAddress = 250 := rfl
  rw [hown]
  decide +kernel

theorem coveredEntry_condLaw (p : Permit) (lost : Bool) : CondLaw (coveredEntry p lost).conds :=
  have ⟨_, _, _, law, _⟩ := resetHasEveryLaw
  law

/-- No record is attached, so the HOT excursion is verified. -/
theorem coveredEntry_verifies (p : Permit) (lost : Bool) : Verifies (coveredEntry p lost) 12 (movedWell p) .hot :=
  ⟨rfl, by show State.reset.site.verify.get .hot ≤ 15; decide⟩

theorem coveredEntry_protCommand (p : Permit) (lost : Bool) : (coveredEntry p lost).protCommand 12 = none := by
  cases p <;> cases lost <;> decide +kernel

theorem coveredEntry_pendingLaw (p : Permit) (lost : Bool) : PendingLaw (coveredEntry p lost) := by
  refine ⟨nofun, fun i w hw => .inr ?_⟩
  rw [coveredEntry_well] at hw
  split at hw
  · cases hw
    rfl
  · exact nomatch hw

theorem coveredEntry_exec (p : Permit) (lost : Bool) :
    exec (.sample .a hotSample) (coveredEntry p lost) = .next (receiveFrame .a hotSample (coveredEntry p lost)) :=
  (Event.sample .a hotSample).exec_free rfl

/-! ## The outlet of the HOT command -/

/-- The HOT command goes where the entry come to light says, to FLARE. -/
theorem hotSample_command : (receiveFrame .a hotSample (coveredEntry .both false)).protCommand 12 = some ⟨100, .flare⟩ := by
  decide +kernel

/-- Refutes O32: the statement takes the outlet of the HOT command from the command standing before the sample; with two entries for
the well another stands when the command is made. -/
theorem not_excursionsAreCountedAndRaised : ¬ Obligations.ExcursionsAreCountedAndRaised := by
  unfold Obligations.ExcursionsAreCountedAndRaised
  intro h
  obtain ⟨t, v, hexec, -, -, hhot, -⟩ := h (coveredEntry .both false) .a hotSample _ 12 (movedWell .both) rfl rfl
    (coveredEntry_condLaw _ _) (coveredEntry_pendingLaw _ _) (coveredEntry_awaits _ _) rfl (hotSample_arrives _ _) (by decide +kernel)
    (by decide +kernel)
  have ht := Host.Outcome.next.inj (hexec.symm.trans (coveredEntry_exec _ _))
  have hcommand := (hhot rfl (by decide +kernel) (coveredEntry_verifies _ _)).1 rfl
  rw [coveredEntry_protCommand, ht, hotSample_command] at hcommand
  exact absurd hcommand (by decide)

/-! ## The class reported -/

/-- The class of SET a REPORT tells of. -/
def Uplink.commandTold : Uplink → Option Cls
  | .report r => r.command
  | _ => none

/-- With the entry to FLARE in the queue the HOT command is made, though FLARE is not permitted and line-lost status is set. -/
theorem hotSample_told :
    (receiveFrame .a hotSample (coveredEntry .engine true)).link.routine.map Uplink.commandTold = [some .protective] := by
  decide +kernel

/-- Refutes O33: no PROTECTIVE command is found for the well before the sample, but the one behind the over-budget entry gives the HOT
command an outlet. -/
theorem not_acceptedSampleIsReportedAndTrimmed : ¬ Obligations.AcceptedSampleIsReportedAndTrimmed := by
  unfold Obligations.AcceptedSampleIsReportedAndTrimmed
  intro h
  obtain ⟨t, v, r, hexec, -, hroutine, -, -, hraised, -⟩ := h (coveredEntry .engine true) .a hotSample _ 12 (movedWell .engine) rfl rfl
    (coveredEntry_awaits _ _) rfl (hotSample_arrives _ _) (by decide +kernel) (by decide +kernel) nofun (by decide +kernel)
  have ht := Host.Outcome.next.inj (hexec.symm.trans (coveredEntry_exec _ _))
  obtain ⟨-, -, hduty, -⟩ := hraised (coveredEntry_condLaw _ _)
  have hnone := (hduty rfl (.inl ⟨by decide +kernel, coveredEntry_verifies _ _⟩)).2 rfl rfl (coveredEntry_protCommand _ _) rfl
    (by decide +kernel)
  have htold := hotSample_told
  rw [← ht, hroutine] at htold
  have hlast : [r.command] = [some Cls.protective] := htold
  rw [hnone] at hlast
  exact absurd hlast (by decide)

end Sys2Proof.Machine
end

section
/-! PROOF. Blends, line status and the balancing pass (parts of O49). -/

-- One theorem at a time: the one-text build of the package runs out of threads otherwise.
set_option Elab.async false

namespace Sys2Proof.Machine

/-! ## Blends (R79) -/

/-- A sum of weights with values between bounds lies between the bounds of the sum of the weights. -/
theorem weighted_between {α : Type} (weight value : α → Nat) {lo hi : Nat} (cs : List α)
    (h : ∀ c ∈ cs, lo ≤ value c ∧ value c ≤ hi) :
    lo * (cs.map weight).sum ≤ (cs.map fun c => weight c * value c).sum ∧
      (cs.map fun c => weight c * value c).sum ≤ hi * (cs.map weight).sum := by
  induction cs with
  | nil => exact ⟨Nat.le_refl _, Nat.le_refl _⟩
  | cons c rest ih =>
    obtain ⟨hlo, hhi⟩ := h c List.mem_cons_self
    obtain ⟨ihlo, ihhi⟩ := ih fun d hd => h d (List.mem_cons_of_mem c hd)
    simp only [List.map_cons, List.sum_cons, Nat.mul_add]
    refine ⟨Nat.add_le_add ?_ ihlo, Nat.add_le_add ?_ ihhi⟩
    · rw [Nat.mul_comm lo]
      exact Nat.mul_le_mul_left _ hlo
    · rw [Nat.mul_comm hi]
      exact Nat.mul_le_mul_left _ hhi

/-- A blend is absent without flow and else lies between its values. -/
theorem blend_between {flow weighted lo hi : Nat} (hlo : lo * flow ≤ weighted) (hhi : weighted ≤ hi * flow) :
    (flow = 0 → blend weighted flow = none) ∧ (flow ≠ 0 → ∃ m, blend weighted flow = some m ∧ lo ≤ m ∧ m ≤ hi) := by
  unfold blend
  refine ⟨fun h => if_pos h, fun h => ⟨weighted / flow, if_neg h, ?_, ?_⟩⟩
  · exact (Nat.le_div_iff_mul_le (Nat.pos_of_ne_zero h)).mpr hlo
  · exact (Nat.div_le_div_right hhi).trans_eq (Nat.mul_div_cancel _ (Nat.pos_of_ne_zero h))

/-! ## The candidates of the balancing pass (R86) -/

/-- What makes a slot a candidate for a SET to outlet `o`. -/
structure Candidate (s : State) (j : Slot) (o : Line) (w : Well) (c : Contrib) : Prop where
  well : s.well j = some w
  contrib : s.contribOf j = some c
  move : w.move = none
  pending : w.pendingProt = none
  entry : ∀ e, s.entryOf j = some e → e.cls = .trim
  permitted : w.cfg.permitted.allows o = true
  isOpen : s.isOpen o = true

theorem State.candidate_some {s : State} {j : Slot} {o : Line} (h : s.candidate j o = true) : ∃ w c, Candidate s j o w c := by
  unfold State.candidate at h
  split at h
  · next w hw =>
    simp only [Bool.and_eq_true, Option.isNone_iff_eq_none] at h
    obtain ⟨⟨⟨⟨⟨hcontrib, hmove⟩, hpending⟩, hentry⟩, hpermitted⟩, hopen⟩ := h
    obtain ⟨c, hc⟩ := Option.isSome_iff_exists.mp hcontrib
    refine ⟨w, c, hw, hc, hmove, hpending, fun e he => ?_, hpermitted, hopen⟩
    rw [he] at hentry
    exact of_decide_eq_true hentry
  · exact nomatch h

theorem State.contribOf_slot {s : State} {j : Slot} {c : Contrib} (h : s.contribOf j = some c) : c.slot = j := by
  rw [contribOf_eq] at h
  obtain ⟨x, -, rfl⟩ := Option.map_eq_some_iff.mp h
  rfl

theorem State.mem_contribs {s : State} {l : Line} {c : Contrib} (h : c ∈ s.contribs l) :
    c.slot ∈ s.rosters.get l ∧ s.contribOf c.slot = some c := by
  obtain ⟨j, hj, hc⟩ := List.mem_filterMap.mp h
  rw [s.contribOf_slot hc]
  exact ⟨hj, hc⟩

/-- The best of a list by R87 has the highest O2. -/
theorem bestO2_le {cs : List Contrib} {c : Contrib} (h : bestO2 cs = some c) : ∀ d ∈ cs, d.o2 ≤ c.o2 := by
  induction cs generalizing c with
  | nil => exact fun _ hd => nomatch hd
  | cons x rest ih =>
    intro d hd
    unfold bestO2 at h
    split at h
    · next y hy =>
      have hrest := ih hy
      split at h
      · next hlean =>
        cases h
        have hle : y.o2 ≤ x.o2 := by
          unfold Contrib.leanerO2 at hlean
          split at hlean
          · next he => exact he.ge
          · exact (of_decide_eq_true hlean).le
        rcases List.mem_cons.mp hd with rfl | hd
        · exact Nat.le_refl _
        · exact (hrest d hd).trans hle
      · next hlean =>
        cases h
        rcases List.mem_cons.mp hd with rfl | hd
        · unfold Contrib.leanerO2 at hlean
          split at hlean
          · next he => exact he.le
          · exact Nat.not_lt.mp fun hlt => hlean (decide_eq_true hlt)
        · exact hrest d hd
    · next hnone =>
      cases h
      have hempty : rest = [] := by
        cases rest with
        | nil => rfl
        | cons y more =>
          unfold bestO2 at hnone
          split at hnone
          · split at hnone <;> exact nomatch hnone
          · exact nomatch hnone
      subst hempty
      exact (List.mem_singleton.mp hd) ▸ Nat.le_refl _

theorem clampNat_between {lo hi : Nat} (h : lo ≤ hi) (x : Nat) : lo ≤ clampNat lo hi x ∧ clampNat lo hi x ≤ hi := by
  unfold clampNat
  split
  · exact ⟨Nat.le_refl _, h⟩
  · split
    · exact ⟨h, Nat.le_refl _⟩
    · omega

/-! ## The four actions (R87 to R90) -/

theorem State.trackingOrHeld_iff {s : State} {j : Slot} :
    s.trackingOrHeld j = true ↔ s.stateOf j = .tracking ∨ s.stateOf j = .held := by
  unfold State.trackingOrHeld
  simp

theorem State.balanceTarget_of {s : State} {j : Slot} {w : Well} (hw : s.well j = some w) :
    s.balanceTarget j = clampNat w.cfg.pmin w.cfg.pmax (w.target.getD w.cfg.pmin) := by
  unfold State.balanceTarget
  rw [hw]

theorem State.throttleTarget_of {s : State} {j : Slot} {w : Well} (hw : s.well j = some w) :
    s.throttleTarget j = clampNat w.cfg.pmin w.cfg.pmax (w.target.getD 0 - w.cfg.step) := by
  unfold State.throttleTarget
  rw [hw]

/-- Action 1 chooses among the ENGINE contributors that may go to FLARE one of the highest O2. -/
theorem State.actionO2_some {s : State} {b : BalMove} (h : s.actionO2 = some b) :
    b = ⟨b.slot, .o2Excess, s.balanceTarget b.slot, .flare, .queued⟩ ∧ b.slot ∈ s.rosters.engine ∧
      s.trackingOrHeld b.slot = true ∧ s.candidate b.slot .flare = true ∧
      (∃ o, s.lines.engine.o2 = some o ∧ s.limits.engineO2Max < o) ∧
      ∀ c, s.contribOf b.slot = some c → ∀ d ∈ s.contribs .engine, s.trackingOrHeld d.slot = true →
        s.candidate d.slot .flare = true → d.o2 ≤ c.o2 := by
  unfold State.actionO2 at h
  split at h
  · next o ho =>
    split at h
    · next hexcess =>
      obtain ⟨c, hc, rfl⟩ := Option.map_eq_some_iff.mp h
      obtain ⟨hmem, hfit⟩ := List.mem_filter.mp (bestO2_mem hc)
      obtain ⟨hstate, hcandidate⟩ := Bool.and_eq_true_iff.mp hfit
      obtain ⟨hroster, hcontrib⟩ := State.mem_contribs hmem
      refine ⟨rfl, hroster, hstate, hcandidate, ⟨o, ho, hexcess⟩, fun c' hc' d hd hdstate hdcandidate => ?_⟩
      rw [show c' = c from Option.some.inj (hc'.symm.trans hcontrib)]
      exact bestO2_le hc d (List.mem_filter.mpr ⟨hd, by rw [hdstate, hdcandidate]; rfl⟩)
    · exact nomatch h
  · exact nomatch h

theorem State.actionLow_some {s : State} {b : BalMove} (h : s.actionLow = some b) :
    b = ⟨b.slot, .blendLow, s.balanceTarget b.slot, .flare, .queued⟩ ∧ b.slot ∈ s.rosters.engine ∧
      s.trackingOrHeld b.slot = true ∧ s.candidate b.slot .flare = true ∧
      ∃ m, s.lines.engine.ch4 = some m ∧ m < s.limits.engineMin := by
  unfold State.actionLow at h
  split at h
  · next m hm =>
    split at h
    · next hlow =>
      obtain ⟨j, hj, rfl⟩ := Option.map_eq_some_iff.mp h
      have hfit := List.find?_some hj
      obtain ⟨hstate, hcandidate⟩ := Bool.and_eq_true_iff.mp hfit
      exact ⟨rfl, List.mem_of_find?_eq_some hj, hstate, hcandidate, m, hm, hlow⟩
    · exact nomatch h
  · exact nomatch h

theorem State.promotable_iff {s : State} {j : Slot} {c : Contrib} (hc : s.contribOf j = some c) :
    s.promotable j = true ↔ 0 < c.flow ∧ s.limits.engineMin + s.site.hysteresis ≤
      (s.lines.engine.sm + c.flow * c.ch4) / (s.lines.engine.sf + c.flow) := by
  unfold State.promotable
  rw [hc]
  simp

theorem State.promotionTrigger_true {s : State} (h : s.promotionTrigger = true) :
    s.balancer.lineLost = false ∧ (∃ d, s.demandNow = some d ∧ 1 ≤ d.2 ∧ s.lines.engine.sf < d.1) ∧
      ((∃ m, s.lines.engine.ch4 = some m ∧ s.limits.engineMin + s.site.hysteresis ≤ m) ∨ s.lines.engine.status = .noFlow) := by
  unfold State.promotionTrigger at h
  simp only [Bool.and_eq_true, Bool.or_eq_true, Bool.not_eq_true', decide_eq_true_eq] at h
  obtain ⟨⟨hlost, hdemand⟩, hblend⟩ := h
  refine ⟨hlost, ?_, hblend.imp_left fun hm => ?_⟩
  · cases hd : s.demandNow with
    | none => rw [hd] at hdemand; exact nomatch hdemand
    | some d =>
      rw [hd] at hdemand
      simp only [Bool.and_eq_true, decide_eq_true_eq] at hdemand
      exact ⟨d, rfl, hdemand⟩
  · cases hc : s.lines.engine.ch4 with
    | none => rw [hc] at hm; exact nomatch hm
    | some m => rw [hc] at hm; exact ⟨m, rfl, of_decide_eq_true hm⟩

theorem State.actionPromote_some {s : State} {b : BalMove} (h : s.actionPromote = some b) :
    b = ⟨b.slot, .promotion, s.balanceTarget b.slot, .engine, .queued⟩ ∧ b.slot ∈ s.rosters.flare ∧
      s.stateOf b.slot = .tracking ∧ s.candidate b.slot .engine = true ∧ s.promotionTrigger = true ∧
      s.promotable b.slot = true := by
  unfold State.actionPromote at h
  split at h
  · next htrigger =>
    obtain ⟨j, hj, rfl⟩ := Option.map_eq_some_iff.mp h
    have hall := List.find?_some hj
    obtain ⟨hfit, hpromotable⟩ := Bool.and_eq_true_iff.mp hall
    obtain ⟨hstate, hcandidate⟩ := Bool.and_eq_true_iff.mp hfit
    exact ⟨rfl, List.mem_reverse.mp (List.mem_of_find?_eq_some hj), of_decide_eq_true hstate, hcandidate, htrigger, hpromotable⟩
  · exact nomatch h

theorem State.abovePmin_iff {s : State} {j : Slot} {w : Well} (hw : s.well j = some w) :
    s.abovePmin j = true ↔ ∃ target, w.target = some target ∧ w.cfg.pmin < target := by
  unfold State.abovePmin
  rw [hw]
  dsimp only
  cases w.target <;> simp

theorem State.actionThrottle_some {s : State} {b : BalMove} (h : s.actionThrottle = some b) :
    b = ⟨b.slot, .throttle, s.throttleTarget b.slot, .flare, .queued⟩ ∧ b.slot ∈ s.rosters.flare ∧
      s.stateOf b.slot = .tracking ∧ s.abovePmin b.slot = true ∧ s.candidate b.slot .flare = true ∧
      ∃ m, s.lines.flare.ch4 = some m ∧ m < s.limits.flareMin := by
  unfold State.actionThrottle at h
  split at h
  · next m hm =>
    split at h
    · next hlow =>
      obtain ⟨j, hj, rfl⟩ := Option.map_eq_some_iff.mp h
      have hall := List.find?_some hj
      obtain ⟨hfit, hcandidate⟩ := Bool.and_eq_true_iff.mp hall
      obtain ⟨hstate, habove⟩ := Bool.and_eq_true_iff.mp hfit
      exact ⟨rfl, List.mem_of_find?_eq_some hj, of_decide_eq_true hstate, habove, hcandidate, m, hm, hlow⟩
    · exact nomatch h
  · exact nomatch h

/-- The pass takes the first of the four actions that finds a candidate (R85). -/
theorem State.chooseBalance_some {s : State} {b : BalMove} (h : s.chooseBalance = some b) :
    s.actionO2 = some b ∨ (s.actionO2 = none ∧ s.actionLow = some b) ∨
      (s.actionO2 = none ∧ s.actionLow = none ∧ s.actionPromote = some b) ∨
      (s.actionO2 = none ∧ s.actionLow = none ∧ s.actionPromote = none ∧ s.actionThrottle = some b) := by
  unfold State.chooseBalance at h
  cases h1 : s.actionO2 with
  | some c => rw [h1] at h; exact .inl h
  | none =>
    cases h2 : s.actionLow with
    | some c => rw [h1, h2] at h; exact .inr (.inl ⟨rfl, h⟩)
    | none =>
      cases h3 : s.actionPromote with
      | some c => rw [h1, h2, h3] at h; exact .inr (.inr (.inl ⟨rfl, rfl, h⟩))
      | none => rw [h1, h2, h3] at h; exact .inr (.inr (.inr ⟨rfl, rfl, rfl, h⟩))

theorem clampedTarget {w : Well} {n d : Nat} (ht : n = clampNat w.cfg.pmin w.cfg.pmax (w.target.getD d)) :
    (w.cfg.pmin ≤ w.cfg.pmax → w.cfg.pmin ≤ n ∧ n ≤ w.cfg.pmax) ∧
      ∀ target, w.target = some target → n = clampNat w.cfg.pmin w.cfg.pmax target :=
  ⟨fun h => ht ▸ clampNat_between h _, fun target h => by rw [ht, h]; rfl⟩

theorem throttledTarget {w : Well} {n : Nat} (ht : n = clampNat w.cfg.pmin w.cfg.pmax (w.target.getD 0 - w.cfg.step)) :
    (w.cfg.pmin ≤ w.cfg.pmax → w.cfg.pmin ≤ n ∧ n ≤ w.cfg.pmax) ∧
      ∀ target, w.target = some target → n = clampNat w.cfg.pmin w.cfg.pmax (target - w.cfg.step) :=
  ⟨fun h => ht ▸ clampNat_between h _, fun target h => by rw [ht, h]; rfl⟩

end Sys2Proof.Machine
end

section
/-! PROOF. What a balancing pass chooses (R79, R80, R85 to R90), for O49. -/

-- One theorem at a time: the one-text build of the package runs out of threads otherwise.
set_option Elab.async false

namespace Sys2Proof.Machine

theorem ch4Blend_between {cs : List Contrib} {lo hi : Nat} (h : ∀ c ∈ cs, lo ≤ c.ch4 ∧ c.ch4 ≤ hi) :
    (sumFlow cs = 0 → blend (sumCh4 cs) (sumFlow cs) = none) ∧
      (sumFlow cs ≠ 0 → ∃ m, blend (sumCh4 cs) (sumFlow cs) = some m ∧ lo ≤ m ∧ m ≤ hi) := by
  obtain ⟨hlo, hhi⟩ := weighted_between Contrib.flow Contrib.ch4 cs h
  exact blend_between hlo hhi

theorem o2Blend_between {cs : List Contrib} {lo hi : Nat} (h : ∀ c ∈ cs, lo ≤ c.o2 ∧ c.o2 ≤ hi) :
    (sumFlow cs = 0 → blend (sumO2 cs) (sumFlow cs) = none) ∧
      (sumFlow cs ≠ 0 → ∃ o, blend (sumO2 cs) (sumFlow cs) = some o ∧ lo ≤ o ∧ o ≤ hi) := by
  obtain ⟨hlo, hhi⟩ := weighted_between Contrib.flow Contrib.o2 cs h
  exact blend_between hlo hhi

/-! ## The status of a line (R80) -/

theorem engineStatus_flowing (lim : Limits) (m o : Nat) :
    engineStatus false lim (some m) (some o) =
      if lim.engineO2Max < o then .oxygen else if m < lim.engineMin then .low else .normal := rfl

theorem flareStatus_flowing (lim : Limits) (m : Nat) :
    flareStatus false lim (some m) = if m < lim.flareMin then .low else .normal := rfl

/-- The status of a line is the first of its table that applies. -/
theorem lineStatus_first (lim : Limits) (m o : Nat) :
    (∀ x y, engineStatus true lim x y = .lost ∧ flareStatus true lim x = .fault) ∧
      engineStatus false lim none none = .noFlow ∧ flareStatus false lim none = .noFlow ∧
      (lim.engineO2Max < o → engineStatus false lim (some m) (some o) = .oxygen) ∧
      (o ≤ lim.engineO2Max → m < lim.engineMin → engineStatus false lim (some m) (some o) = .low) ∧
      (o ≤ lim.engineO2Max → lim.engineMin ≤ m → engineStatus false lim (some m) (some o) = .normal) ∧
      (m < lim.flareMin → flareStatus false lim (some m) = .low) ∧
      (lim.flareMin ≤ m → flareStatus false lim (some m) = .normal) := by
  rw [engineStatus_flowing, flareStatus_flowing]
  refine ⟨fun _ _ => ⟨rfl, rfl⟩, rfl, rfl, fun h => if_pos h, fun ho hm => ?_, fun ho hm => ?_, fun h => if_pos h,
    fun h => if_neg (Nat.not_lt.mpr h)⟩
  · rw [if_neg (Nat.not_lt.mpr ho), if_pos hm]
  · rw [if_neg (Nat.not_lt.mpr ho), if_neg (Nat.not_lt.mpr hm)]

/-! ## What a pass chooses (R85 to R90) -/

/-- The well of a chosen SET: a candidate for it, in TRACKING or HELD, with a target within its range. -/
structure Chosen (s : State) (b : BalMove) (w : Well) (c : Contrib) : Prop where
  candidate : Candidate s b.slot b.outlet w c
  state : s.stateOf b.slot = .tracking ∨ s.stateOf b.slot = .held
  range : w.cfg.pmin ≤ w.cfg.pmax → w.cfg.pmin ≤ b.target ∧ b.target ≤ w.cfg.pmax
  target : ∀ target, w.target = some target → b.target =
    if b.action = .throttle then clampNat w.cfg.pmin w.cfg.pmax (target - w.cfg.step)
    else clampNat w.cfg.pmin w.cfg.pmax target

theorem chosen_of_balanceTarget {s : State} {b : BalMove} (hb : b.target = s.balanceTarget b.slot) (ha : b.action ≠ .throttle)
    (hc : s.candidate b.slot b.outlet = true) (hs : s.stateOf b.slot = .tracking ∨ s.stateOf b.slot = .held) :
    ∃ w c, Chosen s b w c := by
  obtain ⟨w, c, hcand⟩ := State.candidate_some hc
  have ht := clampedTarget (hb.trans (State.balanceTarget_of hcand.well))
  exact ⟨w, c, hcand, hs, ht.1, fun target h => by rw [if_neg ha]; exact ht.2 target h⟩

theorem chosen_of_throttleTarget {s : State} {b : BalMove} (hb : b.target = s.throttleTarget b.slot) (ha : b.action = .throttle)
    (hc : s.candidate b.slot b.outlet = true) (hs : s.stateOf b.slot = .tracking) : ∃ w c, Chosen s b w c := by
  obtain ⟨w, c, hcand⟩ := State.candidate_some hc
  have ht := throttledTarget (hb.trans (State.throttleTarget_of hcand.well))
  exact ⟨w, c, hcand, .inl hs, ht.1, fun target h => by rw [if_pos ha]; exact ht.2 target h⟩

theorem balMove_fields {b : BalMove} {a : BalAction} {t : Nat} {o : Line} (h : b = ⟨b.slot, a, t, o, .queued⟩) :
    b.action = a ∧ b.target = t ∧ b.outlet = o ∧ b.phase = .queued :=
  ⟨congrArg BalMove.action h, congrArg BalMove.target h, congrArg BalMove.outlet h, congrArg BalMove.phase h⟩

/-- The trigger of the action that chose a SET, and the actions before it that found no candidate. -/
inductive Triggered (s : State) (b : BalMove) (w : Well) (c : Contrib) : Prop
  | o2Excess (action : b.action = .o2Excess) (outlet : b.outlet = .flare) (roster : b.slot ∈ s.rosters.engine)
      (blend : ∃ o, s.lines.engine.o2 = some o ∧ s.limits.engineO2Max < o)
      (best : ∀ d ∈ s.contribs .engine, s.trackingOrHeld d.slot = true → s.candidate d.slot .flare = true → d.o2 ≤ c.o2)
  | blendLow (action : b.action = .blendLow) (first : s.actionO2 = none) (outlet : b.outlet = .flare)
      (roster : b.slot ∈ s.rosters.engine) (blend : ∃ m, s.lines.engine.ch4 = some m ∧ m < s.limits.engineMin)
  | promotion (action : b.action = .promotion) (first : s.actionO2 = none) (second : s.actionLow = none)
      (outlet : b.outlet = .engine) (roster : b.slot ∈ s.rosters.flare) (state : s.stateOf b.slot = .tracking)
      (trigger : s.promotionTrigger = true) (promotable : s.promotable b.slot = true)
  | throttle (action : b.action = .throttle) (first : s.actionO2 = none) (second : s.actionLow = none)
      (third : s.actionPromote = none) (outlet : b.outlet = .flare) (roster : b.slot ∈ s.rosters.flare)
      (state : s.stateOf b.slot = .tracking) (above : s.abovePmin b.slot = true)
      (blend : ∃ m, s.lines.flare.ch4 = some m ∧ m < s.limits.flareMin)

/-- A pass chooses a candidate by the first action that finds one. -/
theorem State.chooseBalance_chosen {s : State} {b : BalMove} (h : s.chooseBalance = some b) :
    b.phase = .queued ∧ ∃ w c, Chosen s b w c ∧ Triggered s b w c := by
  rcases State.chooseBalance_some h with h | ⟨h1, h⟩ | ⟨h1, h2, h⟩ | ⟨h1, h2, h3, h⟩
  · obtain ⟨hb, hroster, hstate, hcand, hblend, hbest⟩ := State.actionO2_some h
    obtain ⟨ha, ht, ho, hphase⟩ := balMove_fields hb
    obtain ⟨w, c, hc⟩ := chosen_of_balanceTarget ht (by rw [ha]; exact nofun) (ho ▸ hcand) (State.trackingOrHeld_iff.mp hstate)
    exact ⟨hphase, w, c, hc, .o2Excess ha ho hroster hblend (hbest c hc.candidate.contrib)⟩
  · obtain ⟨hb, hroster, hstate, hcand, hblend⟩ := State.actionLow_some h
    obtain ⟨ha, ht, ho, hphase⟩ := balMove_fields hb
    obtain ⟨w, c, hc⟩ := chosen_of_balanceTarget ht (by rw [ha]; exact nofun) (ho ▸ hcand) (State.trackingOrHeld_iff.mp hstate)
    exact ⟨hphase, w, c, hc, .blendLow ha h1 ho hroster hblend⟩
  · obtain ⟨hb, hroster, hstate, hcand, htrigger, hpromotable⟩ := State.actionPromote_some h
    obtain ⟨ha, ht, ho, hphase⟩ := balMove_fields hb
    obtain ⟨w, c, hc⟩ := chosen_of_balanceTarget ht (by rw [ha]; exact nofun) (ho ▸ hcand) (.inl hstate)
    exact ⟨hphase, w, c, hc, .promotion ha h1 h2 ho hroster hstate htrigger hpromotable⟩
  · obtain ⟨hb, hroster, hstate, habove, hcand, hblend⟩ := State.actionThrottle_some h
    obtain ⟨ha, ht, ho, hphase⟩ := balMove_fields hb
    obtain ⟨w, c, hc⟩ := chosen_of_throttleTarget ht ha (ho ▸ hcand) hstate
    exact ⟨hphase, w, c, hc, .throttle ha h1 h2 h3 ho hroster hstate habove hblend⟩

namespace Triggered

variable {s : State} {b : BalMove} {w : Well} {c : Contrib}

theorem first_none (h : Triggered s b w c) (ha : b.action ≠ .o2Excess) : s.actionO2 = none := by
  cases h with
  | o2Excess action => exact absurd action ha
  | blendLow _ first => exact first
  | promotion _ first => exact first
  | throttle _ first => exact first

theorem second_none (h : Triggered s b w c) (ha : b.action = .promotion ∨ b.action = .throttle) : s.actionLow = none := by
  cases h with
  | o2Excess action => rw [action] at ha; exact ha.elim nofun nofun
  | blendLow action => rw [action] at ha; exact ha.elim nofun nofun
  | promotion _ _ second => exact second
  | throttle _ _ second => exact second

theorem third_none (h : Triggered s b w c) (ha : b.action = .throttle) : s.actionPromote = none := by
  cases h with
  | o2Excess action => rw [action] at ha; exact nomatch ha
  | blendLow action => rw [action] at ha; exact nomatch ha
  | promotion action => rw [action] at ha; exact nomatch ha
  | throttle _ _ _ third => exact third

end Triggered

end Sys2Proof.Machine
end

section
/-! PROOF. A balancing pass starts its SET (R85, R91), for O49. -/

-- One theorem at a time: the one-text build of the package runs out of threads otherwise.
set_option Elab.async false

namespace Sys2Proof.Machine

theorem entryOf_well {s : State} {i : Slot} {w : Well} (hw : s.well i = some w) :
    s.entryOf i = (s.seg w.cfg.seg).entryOf i := by
  unfold State.entryOf
  rw [hw]
  rfl

/-- The state with the outstanding balancing move `b`. -/
def State.outstanding (s : State) (b : BalMove) : State := s.modBalancer fun x => { x with move := some b }

theorem balancingPass_chosen {s : State} {b : BalMove} (h : s.chooseBalance = some b) :
    balancingPass s = arriveOther b.slot b.target b.outlet .balance (s.outstanding b) := by
  unfold balancingPass
  rw [h]
  rfl

/-- The BALANCE entry of the move `b`. -/
def BalMove.entry (b : BalMove) : Entry := ⟨b.slot, b.target, b.outlet, .balance, false⟩

/-- A pass whose SET finds room: the entry joins and the move is outstanding. -/
theorem balancingPass_joins {s : State} {b : BalMove} {w : Well} (h : s.chooseBalance = some b) (hw : s.well b.slot = some w)
    (he : (s.seg w.cfg.seg).entryOf b.slot = none) (hroom : (s.seg w.cfg.seg).queue.length < 16) :
    balancingPass s =
      { s with
        balancer := { s.balancer with move := some b }
        segs := s.segs.put w.cfg.seg { s.seg w.cfg.seg with queue := (s.seg w.cfg.seg).queue ++ [b.entry] } } :=
  (balancingPass_chosen h).trans (arriveOther_joins (s := s.outstanding b) hw he hroom)

/-- Segment `q` with one drop more. -/
def Segment.dropped (q : Segment) : Segment :=
  { q with counters := { q.counters with drops := satInc 65535 q.counters.drops } }

/-- The state with a SET dropped at the full queue of segment `g`, its balancing move ended NOT MADE. -/
def State.balancingDropped (s : State) (g : Seg) : State :=
  { s with balancer := s.balancer.notMade s.timeBase, segs := s.segs.put g (s.seg g).dropped }

/-- A pass whose SET finds the queue full: it is dropped, and the pending fields are examined. -/
theorem balancingPass_full {s : State} {b : BalMove} {w : Well} (h : s.chooseBalance = some b) (hw : s.well b.slot = some w)
    (he : (s.seg w.cfg.seg).entryOf b.slot = none) (hfull : 16 ≤ (s.seg w.cfg.seg).queue.length) :
    balancingPass s = examinePending w.cfg.seg (s.balancingDropped w.cfg.seg) := by
  obtain ⟨hphase, -⟩ := State.chooseBalance_chosen h
  have hw' : (s.outstanding b).well b.slot = some w := hw
  have he' : ((s.outstanding b).seg w.cfg.seg).entryOf b.slot = none := he
  have hfull' : ¬ ((s.outstanding b).seg w.cfg.seg).queue.length < Config.queueCap := Nat.not_lt.mpr hfull
  rw [balancingPass_chosen h]
  unfold arriveOther
  rw [hw']
  dsimp only
  rw [he']
  dsimp only
  rw [if_neg hfull']
  have hloses : (s.outstanding b).balancer.loses [b.entry] = true := by
    simp [Balancer.loses, Balancer.queuedAt, State.outstanding, State.modBalancer, BalMove.entry, hphase]
  have hleaves : leaveEffects b.entry ((s.outstanding b).modCounters w.cfg.seg fun c => { c with drops := counterInc c.drops }) =
      s.balancingDropped w.cfg.seg := by
    rw [leaveEffects_eq]
    have hb : (s.outstanding b).balancer.without [b.entry] s.timeBase = s.balancer.notMade s.timeBase := by
      rw [Balancer.without, hloses]
      rfl
    exact congrArg (fun x : Balancer => { s with balancer := x, segs := s.segs.put w.cfg.seg (s.seg w.cfg.seg).dropped }) hb
  exact congrArg (examinePending w.cfg.seg) hleaves

/-! ## What an examination of the pending fields leaves of an ended move -/

/-- From `s` to `t` a balancer without a move is the same. -/
structure MoveOver (s t : State) : Prop where
  balancer : s.balancer.move = none → t.balancer = s.balancer

theorem MoveOver.trans {s t u : State} (a : MoveOver s t) (b : MoveOver t u) : MoveOver s u :=
  ⟨fun h => by
    have first := a.balancer h
    exact (b.balancer (first ▸ h)).trans first⟩

theorem queueRules_moveOver : QueueRules MoveOver where
  refl := fun _ => ⟨fun _ => rfl⟩
  trans := .trans
  seg := fun _ _ _ _ => ⟨fun _ => rfl⟩
  pending := fun i p s => ⟨fun _ => by
    unfold setPending modWell
    split
    · rw [putWell_frame]
    · rfl⟩
  ending := fun r s => ⟨fun h => by
    unfold endBalancing
    rw [h]⟩

/-- A SET dropped at a full queue has ended its move, counted one drop and left no entry of its slot. -/
theorem balancingPass_dropped {s : State} {b : BalMove} {w : Well} (h : s.chooseBalance = some b) (hw : s.well b.slot = some w)
    (he : (s.seg w.cfg.seg).entryOf b.slot = none) (hfull : 16 ≤ (s.seg w.cfg.seg).queue.length) :
    (balancingPass s).balancer = s.balancer.notMade s.timeBase ∧
      ((balancingPass s).seg w.cfg.seg).counters.drops = (s.seg w.cfg.seg).dropped.counters.drops ∧
      (balancingPass s).entryOf b.slot = none := by
  obtain ⟨-, v, c, chosen, -⟩ := State.chooseBalance_chosen h
  have hpending : (s.well b.slot).bind (·.pendingProt) = none := by
    rw [chosen.candidate.well]
    exact chosen.candidate.pending
  have hseg : (s.balancingDropped w.cfg.seg).seg w.cfg.seg = (s.seg w.cfg.seg).dropped := State.seg_setSeg_self s _ _
  rw [balancingPass_full h hw he hfull]
  refine ⟨(queueRules_moveOver.examinePending _ (s.balancingDropped w.cfg.seg)).balancer rfl, ?_, ?_⟩
  · have hc := congrArg SegCounters.drops ((protsJoin_examinePending w.cfg.seg (s.balancingDropped w.cfg.seg)).counters w.cfg.seg)
    rw [hseg] at hc
    exact hc
  · have apart : Apart b.slot (s.balancingDropped w.cfg.seg) (examinePending w.cfg.seg (s.balancingDropped w.cfg.seg)) :=
      apart_examinePending w.cfg.seg hpending
    have hwell : (examinePending w.cfg.seg (s.balancingDropped w.cfg.seg)).well b.slot = some w := apart.well.trans hw
    rw [entryOf_well hwell]
    refine Segment.entryOf_eq_none_iff.mpr (apart.absent ?_)
    rw [hseg]
    exact Segment.entryOf_eq_none_iff.mp he

end Sys2Proof.Machine
end

section
/-! PROOF. The balancing pass that is not made (R85) and the good echo of a balancing SET (R91, R164, R165), for O49. -/

-- One theorem at a time: the one-text build of the package runs out of threads otherwise.
set_option Elab.async false

namespace Sys2Proof.Machine

/-! ## Evaluations without a pass -/

/-- From `s` to `t` what a balancing pass waits for, the queues, and each slot's settings and pending field are the same. -/
structure SameWait (s t : State) : Prop where
  timeBase : t.timeBase = s.timeBase
  unit : t.unit = s.unit
  mode : t.link.mode = s.link.mode
  site : t.site = s.site
  move : t.balancer.move = s.balancer.move
  lastEnd : t.balancer.lastEnd = s.balancer.lastEnd
  resetTime : t.balancer.resetTime = s.balancer.resetTime
  queue : ∀ g, (t.seg g).queue = (s.seg g).queue
  cfg : ∀ j, (t.well j).map (·.cfg) = (s.well j).map (·.cfg)
  pending : ∀ j, (t.well j).map (·.pendingProt) = (s.well j).map (·.pendingProt)

namespace SameWait

theorem refl (s : State) : SameWait s s := ⟨rfl, rfl, rfl, rfl, rfl, rfl, rfl, fun _ => rfl, fun _ => rfl, fun _ => rfl⟩

theorem trans {s t u : State} (a : SameWait s t) (b : SameWait t u) : SameWait s u where
  timeBase := b.timeBase.trans a.timeBase
  unit := b.unit.trans a.unit
  mode := b.mode.trans a.mode
  site := b.site.trans a.site
  move := b.move.trans a.move
  lastEnd := b.lastEnd.trans a.lastEnd
  resetTime := b.resetTime.trans a.resetTime
  queue := fun g => (b.queue g).trans (a.queue g)
  cfg := fun j => (b.cfg j).trans (a.cfg j)
  pending := fun j => (b.pending j).trans (a.pending j)

variable {s t : State} (a : SameWait s t)
include a

theorem passDue : t.passDue = s.passDue := by
  unfold State.passDue State.isDuty
  rw [a.unit, a.mode, a.move, a.site, a.timeBase, a.lastEnd, a.resetTime]

theorem noPending (h : NoPending s) : NoPending t := by
  intro j v hv
  have hj := a.pending j
  rw [hv] at hj
  obtain ⟨w, hw, hp⟩ := Option.map_eq_some_iff.mp hj.symm
  exact hp.symm.trans (h j w hw)

end SameWait

theorem Reports.sameWait {s t : State} (h : Reports s t) (hmode : t.link.mode = s.link.mode) : SameWait s t := by
  unfold Reports at h
  refine ⟨?_, ?_, hmode, ?_, ?_, ?_, ?_, fun g => ?_, fun j => ?_, fun j => ?_⟩ <;> rw [h] <;> rfl

theorem sameWait_treated (l : Line) (s : State) : SameWait s (treated l s) := by
  have line : SameWait s (s.setLine l (s.recordAt l)) :=
    ⟨rfl, rfl, rfl, rfl, rfl, rfl, rfl, fun _ => rfl, fun _ => rfl, fun _ => rfl⟩
  exact line.trans ((reports_treatLine l _ _).sameWait (inner_treatLine (d := False) l _ _).keeps.mode)

theorem sameWait_evaluateLine (l : Line) {s : State} (h : s.passDue = false) : SameWait s (evaluateLine l s) := by
  rw [evaluateLine_eq, (sameWait_treated l s).passDue, h]
  exact sameWait_treated l s

theorem sameWait_bothEvaluated {s : State} (h : s.passDue = false) : SameWait s (bothEvaluated s) :=
  have engine := sameWait_evaluateLine .engine h
  engine.trans (sameWait_evaluateLine .flare (engine.passDue.trans h))

theorem sameWait_runEvals {s : State} (h : s.passDue = false) : SameWait s (runEvals s) := by
  have start : SameWait s { s with evalAsked := .all false } :=
    ⟨rfl, rfl, rfl, rfl, rfl, rfl, rfl, fun _ => rfl, fun _ => rfl, fun _ => rfl⟩
  have engine : SameWait s (if s.evalAsked.engine then evaluateLine .engine { s with evalAsked := .all false }
      else { s with evalAsked := .all false }) := by
    split
    · exact start.trans (sameWait_evaluateLine .engine (start.passDue.trans h))
    · exact start
  unfold runEvals
  dsimp only
  split
  · exact engine.trans (sameWait_evaluateLine .flare (engine.passDue.trans h))
  · exact engine

/-! ## When no pass is made (R85) -/

/-- The time the balance interval runs from. -/
def Balancer.restsSince (b : Balancer) : Nat := b.lastEnd.elim b.resetTime (·.2)

theorem passDue_iff (s : State) :
    s.passDue = true ↔ s.unit.role = .duty ∧ s.link.mode = .run ∧ s.balancer.move = none ∧
      s.site.balanceInterval * 1000 ≤ s.timeBase - s.balancer.restsSince := by
  unfold State.passDue State.isDuty Balancer.restsSince
  cases s.balancer.lastEnd <;>
    simp only [Bool.and_eq_true, decide_eq_true_eq, Option.isNone_iff_eq_none, and_assoc, Option.elim]

/-- No pass is made with a move outstanding. -/
theorem passDue_outstanding {s : State} {b : BalMove} (h : s.balancer.move = some b) : s.passDue = false :=
  Bool.eq_false_iff.mpr fun hd => by
    obtain ⟨-, -, hnone, -⟩ := (passDue_iff s).mp hd
    exact nomatch hnone.symm.trans h

/-- No pass is made in the second in which a move has ended. -/
theorem passDue_ended {s : State} {r : Ending} (h : s.balancer.lastEnd = some (r, s.timeBase)) (hi : 1 ≤ s.site.balanceInterval) :
    s.passDue = false :=
  Bool.eq_false_iff.mpr fun hd => by
    obtain ⟨-, -, -, hle⟩ := (passDue_iff s).mp hd
    have hsince : s.balancer.restsSince = s.timeBase := by
      unfold Balancer.restsSince
      rw [h]
      rfl
    rw [hsince] at hle
    omega

/-- The report timer makes no pass in STANDBY, in HOLD, with a move outstanding or before the balance interval has passed. -/
theorem reportDue_passDue {s : State}
    (h : s.unit.role = .standby ∨ s.link.mode = .hold ∨ s.balancer.move.isSome = true ∨
      max s.timeBase (s.balancer.reportTimer + s.site.reportInterval * 1000) - s.balancer.restsSince <
        s.site.balanceInterval * 1000) : (reportDue s).passDue = false :=
  Bool.eq_false_iff.mpr fun hd => by
    obtain ⟨hduty, hrun, hnone, hle⟩ := (passDue_iff (reportDue s)).mp hd
    rcases h with h | h | h | h
    · exact nomatch hduty.symm.trans h
    · exact nomatch hrun.symm.trans h
    · rw [show s.balancer.move = none from hnone] at h
      exact nomatch h
    · exact absurd hle (Nat.not_le.mpr h)

/-- A report timer without a pass leaves the move and every queue. -/
theorem reportExpiry_leaves {s : State} (h : (reportDue s).passDue = false) :
    (reportExpiry s).balancer.move = s.balancer.move ∧ ∀ g, ((reportExpiry s).seg g).queue = (s.seg g).queue := by
  have both := sameWait_bothEvaluated h
  rw [reportExpiry_eq]
  generalize bothEvaluated (reportDue s) = u at both
  exact ⟨both.move, both.queue⟩

end Sys2Proof.Machine
end

section
/-! PROOF. The good echo of a balancing SET (R91, R164, R165), for O49. -/

-- One theorem at a time: the one-text build of the package runs out of threads otherwise.
set_option Elab.async false

namespace Sys2Proof.Machine

variable {s : State} {i : Slot} {w : Well}

/-! ## What leaves the balancing pass waiting -/

theorem sameWait_putWell {v : Well} (hw : s.well i = some w) (hcfg : v.cfg = w.cfg) (hp : v.pendingProt = w.pendingProt) :
    SameWait s (putWell s i (some v)) := by
  have hwell (j : Slot) : (putWell s i (some v)).well j = if j = i then some v else s.well j := putWell_well s i j _
  have hseg (g : Seg) : (putWell s i (some v)).seg g = s.seg g := putWell_seg s i _ g
  rw [putWell_frame] at hwell hseg ⊢
  refine ⟨rfl, rfl, rfl, rfl, rfl, rfl, rfl, fun g => by rw [hseg], fun j => ?_, fun j => ?_⟩ <;> rw [hwell] <;> split
  · next h => rw [h, hw]; exact congrArg some hcfg
  · rfl
  · next h => rw [h, hw]; exact congrArg some hp
  · rfl

theorem sameWait_modSeg (s : State) (g : Seg) (f : Segment → Segment) (h : (f (s.seg g)).queue = (s.seg g).queue) :
    SameWait s (s.modSeg g f) := by
  refine ⟨rfl, rfl, rfl, rfl, rfl, rfl, rfl, fun k => ?_, fun _ => rfl, fun _ => rfl⟩
  rw [State.seg_modSeg]
  split
  · next e => rw [e]; exact h
  · rfl

theorem sameWait_setReason (i : Slot) (r : Reason) (x : Bool) (s : State) : SameWait s (setReason i r x s) := by
  cases hw : s.well i with
  | none =>
    unfold setReason modWell
    rw [hw]
    exact .refl s
  | some w =>
    unfold setReason
    rw [modWell_some hw]
    exact sameWait_putWell hw rfl rfl

theorem sameWait_openMove (c : SentCopy) (s : State) : SameWait s (openMove c s) := by
  unfold openMove
  split
  · exact .refl s
  · next w hw =>
    have put : SameWait s (putWell s c.slot (some { w with move := some ⟨c.target, c.outlet, c.cls, c.travel, s.timeBase⟩ })) :=
      sameWait_putWell hw rfl rfl
    exact put.trans (sameWait_modSeg _ _ _ rfl)

/-! ## The reply of a well that answers -/

/-- The record after a good reply. -/
def Well.replied (w : Well) : Well := { w with missCount := 0, answering := true }

theorem rosterLine_replied (ha : w.answering = true) : rosterLine (some w.replied) = rosterLine (some w) := by
  have h : w.replied = { w with missCount := 0 } := by
    unfold Well.replied
    rw [← ha]
  rw [h]
  rfl

theorem handJoin_same {b : Option Line} (h : rosterLine (s.well i) = b) : handJoin i b s = s := by
  unfold handJoin
  rw [h]
  simp

theorem examineOwn_none (hw : s.well i = some w) (hp : w.pendingProt = none) : examineOwn i s = s := by
  unfold examineOwn
  rw [hw]
  dsimp only
  rw [hp]
  rfl

theorem goodReply_answering (hw : s.well i = some w) (ha : w.answering = true) (hp : w.pendingProt = none) :
    goodReply i s = putWell s i (some w.replied) := by
  have hwell : (putWell s i (some w.replied)).well i = some w.replied := by rw [putWell_well, if_pos rfl]
  unfold goodReply
  rw [modWell_some hw, hw]
  change handJoin i (rosterLine (some w)) (examineOwn i (putWell s i (some w.replied))) = _
  rw [examineOwn_none hwell hp, handJoin_same]
  rw [hwell, rosterLine_replied ha]

theorem endMove_idle (hw : s.well i = some w) (hm : w.move = none) (r : Ending) : endMove i r s = s := by
  unfold endMove
  rw [hw]
  dsimp only
  rw [hm]
  rfl

/-! ## The open-outlet rule at an open routing -/

theorem protCommand_uncommanded {e : Entry} (hw : s.well i = some w) (he : (s.seg w.cfg.seg).entryOf i = some e)
    (hprot : e.isProt = false) (hp : w.pendingProt = none) : s.protCommand i = none := by
  have hentry : s.entryOf i = some e := (entryOf_well hw).trans he
  unfold State.protCommand State.protEntryOf
  rw [hentry, Option.filter_some, if_neg (by simpa [Entry.isProt] using hprot), hw]
  exact hp

theorem sentProt_none (hw : s.well i = some w) (h : ∀ c, (s.seg w.cfg.seg).sentCopy = some c → c.cls ≠ .protective) :
    s.sentProt i = none := by
  unfold State.sentProt
  rw [hw]
  dsimp only
  split
  · next c hc => rw [if_neg (by simp [h c hc])]
  · rfl

theorem routing_uncommanded (hw : s.well i = some w) (hp : s.protCommand i = none) (hc : s.sentProt i = none) :
    s.routing i = some w.outlet := by
  unfold State.routing
  rw [hw, hp, hc]

theorem applyOutletRule_open {l : Line} (hr : s.routing i = some l) (ho : s.isOpen l = true) :
    applyOutletRule i s = s ∨ applyOutletRule i s = setReason i .noOutlet false s := by
  unfold applyOutletRule
  split
  · next w k hw hk =>
    rw [show k = l from Option.some.inj (hk.symm.trans hr), ho]
    split
    · rw [if_pos rfl]
      split
      · exact .inr rfl
      · exact .inl rfl
    · exact .inl rfl
  · exact .inl rfl

theorem examineSite_open {l : Line} (b : Bool) (ho : s.isOpen l = true) : examineSite b s = s := by
  unfold examineSite
  cases l <;> simp [ho]

theorem setReason_isOpen (i : Slot) (r : Reason) (x : Bool) (s : State) (l : Line) : (setReason i r x s).isOpen l = s.isOpen l := by
  unfold setReason modWell
  split
  · rw [putWell_frame]
    cases l <;> rfl
  · rfl

theorem sameWait_outletRuleAt {l : Line} (hr : s.routing i = some l) (ho : s.isOpen l = true) : SameWait s (outletRuleAt i s) := by
  unfold outletRuleAt
  rcases applyOutletRule_open hr ho with h | h
  · rw [h, examineSite_open false ho]
    exact .refl s
  · rw [h, examineSite_open (l := l) false (by rw [setReason_isOpen]; exact ho)]
    exact sameWait_setReason _ _ _ _

/-- The writing of an echo leaves a balancing pass waiting, where the well has no protective command and the outlet is open. -/
theorem sameWait_writeEcho {e : Entry} {n : Nat} {l : Line} (hw : s.well i = some w) (he : (s.seg w.cfg.seg).entryOf i = some e)
    (hprot : e.isProt = false) (hp : w.pendingProt = none)
    (hc : ∀ c, (s.seg w.cfg.seg).sentCopy = some c → c.cls ≠ .protective) (ho : s.isOpen l = true) (hpass : s.passDue = false) :
    SameWait s (writeEcho i n l s) := by
  have put : SameWait s (putWell s i (some { w with target := some n, outlet := l })) := sameWait_putWell hw rfl rfl
  have hwell : (putWell s i (some { w with target := some n, outlet := l })).well i =
      some { w with target := some n, outlet := l } := by rw [putWell_well, if_pos rfl]
  have hseg (g : Seg) : (putWell s i (some { w with target := some n, outlet := l })).seg g = s.seg g := putWell_seg s i _ g
  have hopen : (putWell s i (some { w with target := some n, outlet := l })).isOpen l = true := by
    rw [putWell_frame]
    cases l <;> exact ho
  unfold writeEcho
  rw [hw]
  dsimp only
  generalize putWell s i (some { w with target := some n, outlet := l }) = u at put hwell hseg hopen
  have ruled : SameWait s (if l = w.outlet then u else outletRuleAt i u) := by
    split
    · exact put
    · refine put.trans (sameWait_outletRuleAt (routing_uncommanded hwell ?_ ?_) hopen)
      · exact protCommand_uncommanded hwell ((congrArg (fun q => q.entryOf i) (hseg _)).trans he) hprot hp
      · exact sentProt_none hwell fun c h => hc c ((congrArg Segment.sentCopy (hseg _)).symm.trans h)
  exact ruled.trans (sameWait_runEvals (ruled.passDue.trans hpass))

end Sys2Proof.Machine
end

section
/-! PROOF. Settling the good echo of a balancing SET (R91, R164, R165), and O49. -/

-- One theorem at a time: the one-text build of the package runs out of threads otherwise.
set_option Elab.async false

namespace Sys2Proof.Machine

variable {s t : State} {i : Slot} {w : Well} {g : Seg} {c : SentCopy} {e : Entry} {b : BalMove}

/-! ## Heads that leave no balancing move -/

/-- From `s` to `t` entries have left the queues; the balancer, the time, the site settings and the wells are the same. -/
structure HeadsLeave (s t : State) : Prop where
  balancer : t.balancer = s.balancer
  timeBase : t.timeBase = s.timeBase
  site : t.site = s.site
  wells : t.wells = s.wells
  queue : ∀ k, ∀ x ∈ (t.seg k).queue, x ∈ (s.seg k).queue

theorem HeadsLeave.refl (s : State) : HeadsLeave s s := ⟨rfl, rfl, rfl, rfl, fun _ _ h => h⟩

theorem HeadsLeave.trans {u : State} (a : HeadsLeave s t) (b : HeadsLeave t u) : HeadsLeave s u :=
  ⟨b.balancer.trans a.balancer, b.timeBase.trans a.timeBase, b.site.trans a.site, b.wells.trans a.wells,
    fun k x h => a.queue k x (b.queue k x h)⟩

theorem headsLeave_modSeg (s : State) (g : Seg) (f : Segment → Segment)
    (h : ∀ x ∈ (f (s.seg g)).queue, x ∈ (s.seg g).queue) : HeadsLeave s (s.modSeg g f) := by
  refine ⟨rfl, rfl, rfl, rfl, fun k x hx => ?_⟩
  rw [State.seg_modSeg] at hx
  split at hx
  · next hk => rw [hk]; exact h x hx
  · exact hx

theorem leaveEffects_unqueued (h : ∀ j, s.balancingQueued j = false) (e : Entry) : leaveEffects e s = s := by
  unfold leaveEffects
  rw [h, Bool.and_false]
  rfl

theorem headsLeave_dropOverBudget (g : Seg) (n : Nat) (hp : NoPending s) (hq : ∀ j, s.balancingQueued j = false) :
    HeadsLeave s (dropOverBudget g n s) := by
  induction n generalizing s with
  | zero => exact .refl s
  | succ n ih =>
    cases hqueue : (s.seg g).queue with
    | nil =>
      unfold dropOverBudget
      rw [hqueue]
      exact .refl s
    | cons e rest =>
      by_cases ho : s.overBudget g e = true
      · have hq' : ∀ j, (s.setSeg g ((s.seg g).dropHead rest)).balancingQueued j = false := hq
        have gone : HeadsLeave s (s.setSeg g ((s.seg g).dropHead rest)) :=
          headsLeave_modSeg s g (fun q => q.dropHead rest) fun x hx => by
            rw [hqueue]
            exact List.mem_cons_of_mem e hx
        rw [dropOverBudget_cons hqueue ho hp, leaveEffects_unqueued hq']
        exact gone.trans (ih hp hq')
      · unfold dropOverBudget
        rw [hqueue]
        dsimp only
        rw [if_neg ho]
        exact .refl s

theorem headsLeave_testHead (g : Seg) (hp : NoPending s) (hq : ∀ j, s.balancingQueued j = false) : HeadsLeave s (testHead g s) :=
  headsLeave_dropOverBudget g _ hp hq

/-! ## The balancing move at its echo -/

theorem balancingQueued_of_move (h : s.balancer.move = some b) (hphase : b.phase = .moving) (j : Slot) :
    s.balancingQueued j = false := by
  unfold State.balancingQueued
  rw [h]
  simp [hphase]

theorem balancingQueued_of_none (h : s.balancer.move = none) (j : Slot) : s.balancingQueued j = false := by
  unfold State.balancingQueued
  rw [h]

/-- The state with the balancing move `b` MOVING. -/
def State.advanced (s : State) (b : BalMove) : State := s.outstanding { b with phase := .moving }

theorem advanceBalancing_own (hc : c.cls = .balance) (hm : s.balancer.move = some b) (hslot : b.slot = c.slot)
    (hphase : b.phase = .queued) : advanceBalancing c s = s.advanced b := by
  have howns : s.ownsBalancing c = true := by
    unfold State.ownsBalancing State.balancingQueued
    rw [hm]
    simp [hc, hslot, hphase]
  unfold advanceBalancing
  rw [howns, if_pos rfl]
  exact congrArg (fun m => s.modBalancer fun x =>
    { x with move := m.map fun m => { m with phase := .moving } }) hm

/-- The entry of a sent SET leaves. -/
theorem settleEntry_sent (hp : NoPending s) (he : (s.seg g).entryOf i = some e) (hs : e.sent = true) :
    settleEntry g i s = s.modSeg g fun q => { q with queue := dropSlot i q.queue } := by
  unfold settleEntry
  rw [he]
  dsimp only
  rw [if_pos hs]
  exact examinePending_noPending g hp

/-- Segment `q` with slot `i`'s entry overtaken by an echo. -/
def Segment.overtaken (i : Slot) (q : Segment) : Segment :=
  { q with queue := dropSlot i q.queue, counters := { q.counters with drops := satInc 65535 q.counters.drops } }

/-- A BALANCE entry that is no longer the one sent is overtaken, and its move ends NOT MADE. -/
theorem settleEntry_overtaken (hp : NoPending s) (he : (s.seg g).entryOf i = some e) (hs : e.sent = false)
    (hcls : e.cls = .balance) (hm : s.balancer.move = some b) (hslot : b.slot = i) :
    settleEntry g i s = endBalancing .notMade (s.modSeg g (Segment.overtaken i)) := by
  have hes : e.slot = i := (Segment.entryOf_some he).2
  have hends : (decide (e.cls = .balance) && (s.modSeg g (Segment.overtaken i)).balancingOf e.slot) = true := by
    unfold State.balancingOf
    rw [show (s.modSeg g (Segment.overtaken i)).balancer.move = some b from hm]
    simp [hcls, hslot, hes]
  have hended : endOvertaken e (s.modSeg g (Segment.overtaken i)) = endBalancing .notMade (s.modSeg g (Segment.overtaken i)) :=
    if_pos hends
  unfold settleEntry
  rw [he]
  dsimp only
  rw [hs, if_neg (by decide), if_neg (by simp [Entry.isProt, hcls])]
  refine (congrArg (examinePending g) hended).trans (examinePending_noPending g ?_)
  exact NoPending.congr hp (endBalancing_well _ _)

/-! ## The end of the echo -/

/-- No pass is due: a move is outstanding, or one has just ended and the balance interval is not 0. -/
def State.Rests (s : State) : Prop :=
  (∃ b, s.balancer.move = some b) ∨ (∃ r, s.balancer.lastEnd = some (r, s.timeBase)) ∧ 1 ≤ s.site.balanceInterval

theorem State.Rests.passDue (h : s.Rests) : s.passDue = false := by
  rcases h with ⟨b, h⟩ | ⟨⟨r, h⟩, hi⟩
  · exact passDue_outstanding h
  · exact passDue_ended h hi

theorem HeadsLeave.rests (a : HeadsLeave s t) (h : s.Rests) : t.Rests := by
  unfold State.Rests
  rw [a.balancer, a.timeBase, a.site]
  exact h

theorem entryOf_absent {k : WellCfg} (hw : (s.well i).map (·.cfg) = some k) (h : ∀ x ∈ (s.seg k.seg).queue, x.slot ≠ i) :
    s.entryOf i = none := by
  obtain ⟨v, hv, rfl⟩ := Option.map_eq_some_iff.mp hw
  rw [entryOf_well hv]
  exact List.find?_eq_none.mpr fun x hx => by simpa using h x hx

/-- What follows the settling of an entry keeps the move, the last ending and the absence of an entry. -/
theorem echo_ends {k : WellCfg} (hp : NoPending s) (hq : ∀ j, s.balancingQueued j = false) (hr : s.Rests)
    (hw : (s.well i).map (·.cfg) = some k) (hg : k.seg = g) (habsent : ∀ x ∈ (s.seg g).queue, x.slot ≠ i) :
    (runEvals (testHead g (clearCopy g s))).entryOf i = none ∧
      (runEvals (testHead g (clearCopy g s))).balancer.move = s.balancer.move ∧
      (runEvals (testHead g (clearCopy g s))).balancer.lastEnd = s.balancer.lastEnd := by
  have cleared : HeadsLeave s (clearCopy g s) := headsLeave_modSeg s g _ fun _ h => h
  have tested : HeadsLeave s (testHead g (clearCopy g s)) :=
    cleared.trans (headsLeave_testHead (s := clearCopy g s) g hp hq)
  have done := sameWait_runEvals (tested.rests hr).passDue
  refine ⟨entryOf_absent (k := k) ?_ fun x hx => ?_, done.move.trans (congrArg Balancer.move tested.balancer),
    done.lastEnd.trans (congrArg Balancer.lastEnd tested.balancer)⟩
  · refine (done.cfg i).trans (Eq.trans ?_ hw)
    unfold State.well
    rw [tested.wells]
  · rw [hg, done.queue] at hx
    exact habsent x (tested.queue g x hx)

theorem dropSlot_absent (i : Slot) (queue : List Entry) : ∀ x ∈ dropSlot i queue, x.slot ≠ i := by
  intro x hx
  unfold dropSlot at hx
  simpa using (List.mem_filter.mp hx).2

/-- Behind the writing of its record the echo of a balancing SET makes the move MOVING, or ends it where its entry was clamped. -/
theorem echoSettled_balancing {k : WellCfg} (hp : NoPending s) (hi : 1 ≤ s.site.balanceInterval)
    (hw : (s.well c.slot).map (·.cfg) = some k) (hg : k.seg = g) (hc : c.cls = .balance) (hm : s.balancer.move = some b)
    (hslot : b.slot = c.slot) (hphase : b.phase = .queued) (he : (s.seg g).entryOf c.slot = some e) (hcls : e.cls = .balance) :
    (runEvals (echoSettled g c s)).entryOf c.slot = none ∧
      (e.sent = true → (runEvals (echoSettled g c s)).balancer.move = some { b with phase := .moving }) ∧
      (e.sent = false → (runEvals (echoSettled g c s)).balancer.move = none ∧
        (runEvals (echoSettled g c s)).balancer.lastEnd = some (.notMade, s.timeBase)) := by
  have opened := sameWait_openMove c s
  have hadv : advanceBalancing c (openMove c s) = (openMove c s).advanced b :=
    advanceBalancing_own hc (opened.move.trans hm) hslot hphase
  have he' : (((openMove c s).advanced b).seg g).entryOf c.slot = some e :=
    (congrArg (List.find? fun x : Entry => decide (x.slot = c.slot)) (opened.queue g)).trans he
  have hp' : NoPending ((openMove c s).advanced b) := opened.noPending hp
  have hw' : (((openMove c s).advanced b).well c.slot).map (·.cfg) = some k := (opened.cfg c.slot).trans hw
  have hi' : 1 ≤ ((openMove c s).advanced b).site.balanceInterval := by
    rw [show ((openMove c s).advanced b).site = s.site from opened.site]
    exact hi
  have hm' : ((openMove c s).advanced b).balancer.move = some { b with phase := .moving } := rfl
  have htime : ((openMove c s).advanced b).timeBase = s.timeBase := opened.timeBase
  unfold echoSettled
  rw [hadv]
  generalize (openMove c s).advanced b = u at he' hp' hw' hi' hm' htime
  cases hs : e.sent with
  | true =>
    rw [settleEntry_sent hp' he' hs]
    have dropped (x : Entry) (hx : x ∈ ((u.modSeg g fun q => { q with queue := dropSlot c.slot q.queue }).seg g).queue) :
        x.slot ≠ c.slot := by
      rw [seg_modSeg_self] at hx
      exact dropSlot_absent _ _ x hx
    obtain ⟨hentry, hmove, -⟩ := echo_ends (s := u.modSeg g fun q => { q with queue := dropSlot c.slot q.queue })
      hp' (balancingQueued_of_move hm' rfl) (.inl ⟨_, hm'⟩) hw' hg dropped
    exact ⟨hentry, fun _ => hmove.trans hm', nofun⟩
  | false =>
    have hover : settleEntry g c.slot u = _ := settleEntry_overtaken hp' he' hs hcls hm' hslot
    rw [hover, endBalancing_some (s := u.modSeg g (Segment.overtaken c.slot)) hm']
    have dropped (x : Entry) (hx : x ∈ ((u.modSeg g (Segment.overtaken c.slot)).seg g).queue) : x.slot ≠ c.slot := by
      rw [seg_modSeg_self] at hx
      exact dropSlot_absent _ _ x hx
    obtain ⟨hentry, hmove, hlast⟩ := echo_ends
      (s := (u.modSeg g (Segment.overtaken c.slot)).modBalancer fun x =>
        { x with move := none, lastEnd := some (.notMade, (u.modSeg g (Segment.overtaken c.slot)).timeBase) })
      hp' (balancingQueued_of_none rfl) (.inr ⟨⟨.notMade, rfl⟩, hi'⟩) hw' hg dropped
    exact ⟨hentry, nofun, fun _ => ⟨hmove, hlast.trans (congrArg (fun n => some (Ending.notMade, n)) htime)⟩⟩

/-- The good echo of a balancing SET up to its writing leaves the pass waiting. -/
theorem sameWait_echoWritten {n : Nat} {l : Line} (hw : s.well i = some w) (ha : w.answering = true) (hm : w.move = none)
    (hp : w.pendingProt = none) (he : (s.seg w.cfg.seg).entryOf i = some e) (hprot : e.isProt = false)
    (hc : ∀ c, (s.seg w.cfg.seg).sentCopy = some c → c.cls ≠ .protective) (ho : s.isOpen l = true) (hpass : s.passDue = false) :
    SameWait s (writeEcho i n l (endMove i .superseded (goodReply i s))) := by
  have put : SameWait s (putWell s i (some w.replied)) := sameWait_putWell hw rfl rfl
  have hwell : (putWell s i (some w.replied)).well i = some w.replied := by rw [putWell_well, if_pos rfl]
  have hseg (g : Seg) : (putWell s i (some w.replied)).seg g = s.seg g := putWell_seg s i _ g
  have hopen : (putWell s i (some w.replied)).isOpen l = true := by
    rw [putWell_frame]
    cases l <;> exact ho
  rw [goodReply_answering hw ha hp, endMove_idle hwell hm]
  refine put.trans (sameWait_writeEcho (e := e) hwell ?_ hprot hp (fun c h => hc c ?_) hopen (put.passDue.trans hpass))
  · exact (congrArg (fun q => q.entryOf i) (hseg _)).trans he
  · exact (congrArg Segment.sentCopy (hseg _)).symm.trans h

/-- Settles O49: blends by `weighted_between`; the choice by `chooseBalance_chosen`; the pass by `balancingPass_full` and
`balancingPass_joins`; the timer and the echo by what leaves a pass waiting. -/
theorem blendsStatusAndBalancing : Obligations.BlendsStatusAndBalancing := by
  unfold Obligations.BlendsStatusAndBalancing
  refine ⟨fun cs lo hi => ch4Blend_between, fun cs lo hi => o2Blend_between, lineStatus_first, fun s b h => ?_,
    fun s b w h hw he => ⟨fun hroom => ?_, fun hfull => ?_⟩, fun s hheld h => ?_, ?_⟩
  · obtain ⟨hphase, w, c, chosen, triggered⟩ := State.chooseBalance_chosen h
    obtain ⟨⟨hw, hc, hmove, hpending, hentry, hpermitted, hopen⟩, hstate, hrange, htarget⟩ := chosen
    refine ⟨hphase, triggered.first_none, triggered.second_none, triggered.third_none, w, c, hw, hc, hmove, hpending, hentry,
      hpermitted, hopen, hstate, hrange, htarget, ?_⟩
    cases triggered with
    | o2Excess action outlet roster blend best =>
      rw [action]
      exact ⟨outlet, roster, blend, best⟩
    | blendLow action first outlet roster blend =>
      rw [action]
      exact ⟨outlet, roster, blend⟩
    | promotion action first second outlet roster state trigger promotable =>
      rw [action]
      obtain ⟨hlost, hdemand, hblend⟩ := State.promotionTrigger_true trigger
      obtain ⟨hflow, hprojected⟩ := (State.promotable_iff hc).mp promotable
      exact ⟨outlet, roster, state, hlost, hdemand, hblend, hflow, hprojected⟩
    | throttle action first second third outlet roster state above blend =>
      rw [action]
      exact ⟨outlet, roster, state, (State.abovePmin_iff hw).mp above, blend⟩
  · exact balancingPass_joins h hw ((entryOf_well hw).symm.trans he) hroom
  · have hnone := (entryOf_well hw).symm.trans he
    refine ⟨fun hp => ?_, balancingPass_dropped h hw hnone hfull⟩
    exact (balancingPass_full h hw hnone hfull).trans (examinePending_noPending _ hp)
  · have hdue : (reportDue s).passDue = false := by
      refine reportDue_passDue (h.imp_right (Or.imp_right (Or.imp_right fun h => ?_)))
      unfold Balancer.restsSince
      cases hl : s.balancer.lastEnd with
      | none => rw [hl] at h; exact h
      | some e => rw [hl] at h; exact h
    obtain ⟨hmove, hqueue⟩ := reportExpiry_leaves hdue
    exact ⟨_, Event.exec_free .reportTimer hheld, hmove, hqueue⟩
  · intro s g f x c i w e b hheld hduty ha hk hc hslot hcls he hecls hm hbslot hphase hwmove hp hans ho hi hf hecho ht hout
    subst hslot
    have hw : s.well c.slot = some w := ha.2.2.2.1
    have hg : w.cfg.seg = g := ha.2.2.2.2.2.1
    have hreceive := receiveFrame_echo ha hk hc hf hecho ht hout
    have hended : SameWait s (endTxn g s) := sameWait_modSeg s g _ rfl
    have hcopy (d : SentCopy) (hd : ((endTxn g s).seg w.cfg.seg).sentCopy = some d) : d.cls ≠ .protective := by
      unfold endTxn at hd
      rw [hg, seg_modSeg_self] at hd
      rw [← Option.some.inj (hc.symm.trans hd), hcls]
      exact nofun
    have hentry : ((endTxn g s).seg w.cfg.seg).entryOf c.slot = some e :=
      (congrArg (List.find? fun x : Entry => decide (x.slot = c.slot)) (hended.queue _)).trans ((entryOf_well hw).symm.trans he)
    have written : SameWait s _ := hended.trans (sameWait_echoWritten (s := endTxn g s) (n := c.target) (l := c.outlet) hw hans
      hwmove (hp _ _ hw) hentry (by simp [Entry.isProt, hecls]) hcopy ho (passDue_outstanding (b := b) hm))
    have hqueued := (congrArg (List.find? fun x : Entry => decide (x.slot = c.slot)) (written.queue g)).trans
      ((congrArg (fun k => (s.seg k).entryOf c.slot) hg).symm.trans ((entryOf_well hw).symm.trans he))
    obtain ⟨hnone, hsent, hunsent⟩ := echoSettled_balancing (b := b) (e := e) (written.noPending hp) (written.site ▸ hi)
      ((written.cfg c.slot).trans (congrArg (Option.map (·.cfg)) hw)) hg hcls (written.move.trans hm) hbslot hphase hqueued hecls
    have htake := takeEcho_duty (g := g) (c := c) (s := endTxn g s) hduty
    rw [htake] at hreceive
    refine ⟨_, (Event.exec_free (.echo g f) hheld).trans (congrArg _ hreceive), hnone, hsent, fun h => ?_⟩
    rw [← written.timeBase]
    exact hunsent h

end Sys2Proof.Machine
end

section
/-! PROOF. What the operations of line-lost onset leave of one slot's record (R95, R99 to R101), for O44. -/

-- One theorem at a time: the one-text build of the package runs out of threads otherwise.
set_option Elab.async false

namespace Sys2Proof.Machine

variable {s t : State} {i j : Slot} {w : Well}

/-! ## The body of a record -/

/-- The record without its pending protective field and without NO OUTLET. -/
def Well.body (w : Well) : Well := { w with pendingProt := none, holds := w.holds.put .noOutlet false }

/-- From `s` to `t` the body of slot `i`'s record, both line statuses, the Role Unit and the sent copies are the same. -/
structure BodySame (i : Slot) (s t : State) : Prop where
  body : (t.well i).map Well.body = (s.well i).map Well.body
  lineLost : t.balancer.lineLost = s.balancer.lineLost
  flareFault : t.balancer.flareFault = s.balancer.flareFault
  unit : t.unit = s.unit
  copy : ∀ g, (t.seg g).sentCopy = (s.seg g).sentCopy

theorem BodySame.refl (s : State) : BodySame i s s := ⟨rfl, rfl, rfl, rfl, fun _ => rfl⟩

theorem BodySame.trans {u : State} (a : BodySame i s t) (b : BodySame i t u) : BodySame i s u :=
  ⟨b.body.trans a.body, b.lineLost.trans a.lineLost, b.flareFault.trans a.flareFault, b.unit.trans a.unit,
    fun g => (b.copy g).trans (a.copy g)⟩

theorem bodySame_modWell (s : State) (j : Slot) (f : Well → Well) (h : ∀ w, (f w).body = w.body) : BodySame i s (modWell s j f) := by
  unfold modWell
  split
  · next w hw =>
    have hwell : (putWell s j (some (f w))).well i = if i = j then some (f w) else s.well i := putWell_well s j i _
    have hseg (g : Seg) : (putWell s j (some (f w))).seg g = s.seg g := putWell_seg s j _ g
    rw [putWell_frame] at hwell hseg ⊢
    refine ⟨?_, rfl, rfl, rfl, fun g => by rw [hseg]⟩
    rw [hwell]
    split
    · next e => rw [e, hw]; exact congrArg some (h w)
    · rfl
  · exact .refl s

theorem outletRules_bodySame (i : Slot) : OutletRules (BodySame i) where
  refl := .refl
  trans := .trans
  seg := fun s g f h => ⟨rfl, rfl, rfl, rfl, fun k => by
    rw [State.seg_modSeg]
    split
    · next e =>
      rw [e]
      exact (congrArg Segment.sentCopy (h (s.seg g)) : (f (s.seg g)).queueless.sentCopy = _)
    · rfl⟩
  pending := fun _ _ _ => bodySame_modWell _ _ _ fun _ => rfl
  ending := fun r s => by
    unfold endBalancing
    split
    · exact ⟨rfl, rfl, rfl, rfl, fun _ => rfl⟩
    · exact .refl s
  reason := fun _ _ _ => bodySame_modWell _ _ _ fun _ => rfl
  count := fun _ => ⟨rfl, rfl, rfl, rfl, fun _ => rfl⟩

theorem Reports.bodySame (h : Reports s t) : BodySame i s t := by
  unfold Reports at h
  refine ⟨?_, ?_, ?_, ?_, fun g => ?_⟩ <;> rw [h] <;> rfl

theorem evalRules_bodySame (i : Slot) : EvalRules (BodySame i) where
  toQueueRules := (outletRules_bodySame i).toQueueRules
  line := fun _ _ _ => ⟨rfl, rfl, rfl, rfl, fun _ => rfl⟩
  treat := fun l r s => (reports_treatLine l r s).bodySame
  balance := fun _ _ => ⟨rfl, rfl, rfl, rfl, fun _ => rfl⟩
  asked := fun _ _ => ⟨rfl, rfl, rfl, rfl, fun _ => rfl⟩

theorem bodySame_leaveAll (gone : List Entry) (s : State) : BodySame i s (leaveAll gone s) := by
  induction gone generalizing s with
  | nil => exact .refl s
  | cons e rest ih => exact ((outletRules_bodySame i).leaveEffects e s).trans (ih _)

theorem bodySame_turnQueue (s : State) (g : Seg) : BodySame i s (turnQueue s g) :=
  ((outletRules_bodySame i).modSeg s g _).trans (bodySame_leaveAll _ _)

theorem bodySame_turnPending (slots : List Slot) (s : State) : BodySame i s (turnPending slots s) := by
  induction slots generalizing s with
  | nil => exact .refl s
  | cons j rest ih =>
    unfold turnPending
    split
    · exact ih s
    · split
      · exact ih s
      · split
        · exact ((outletRules_bodySame i).pending j _ s).trans (ih _)
        · exact ih s

theorem foldl_related {α : Type} {R : State → State → Prop} (refl : ∀ s, R s s) (trans : ∀ {s t u}, R s t → R t u → R s u)
    {f : State → α → State} (h : ∀ s x, R s (f s x)) (xs : List α) (s : State) : R s (xs.foldl f s) := by
  induction xs generalizing s with
  | nil => exact refl s
  | cons x rest ih => exact trans (h s x) (ih _)

theorem bodySame_lostTurned (s : State) : BodySame i s (lostTurned s) :=
  (foldl_related .refl .trans bodySame_turnQueue Seg.all s).trans (bodySame_turnPending allSlots _)

/-! ## What the body tells -/

namespace BodySame

theorem isOpen (a : BodySame i s t) (l : Line) : t.isOpen l = s.isOpen l := by
  cases l
  · exact congrArg (!·) a.lineLost
  · exact congrArg (!·) a.flareFault

theorem isDuty (a : BodySame i s t) : t.isDuty = s.isDuty := by
  unfold State.isDuty
  rw [a.unit]

/-- The record after it, with the same body. -/
theorem well (a : BodySame i s t) (hw : s.well i = some w) : ∃ v, t.well i = some v ∧ v.body = w.body := by
  have h := a.body
  rw [hw] at h
  exact Option.map_eq_some_iff.mp h

end BodySame

theorem body_key {v w : Well} (h : v.body = w.body) : v.key = w.key := by
  have hkey := congrArg Well.key h
  exact hkey

theorem body_cfg {v w : Well} (h : v.body = w.body) : v.cfg = w.cfg := by
  have e := congrArg (fun x : Well => x.cfg) h
  exact e

theorem body_outlet {v w : Well} (h : v.body = w.body) : v.outlet = w.outlet := by
  have e := congrArg (fun x : Well => x.outlet) h
  exact e

theorem body_target {v w : Well} (h : v.body = w.body) : v.target = w.target := by
  have e := congrArg (fun x : Well => x.target) h
  exact e

theorem body_hot {v w : Well} (h : v.body = w.body) : v.holds.hot = w.holds.hot := by
  have e := congrArg (fun x : Well => x.holds.hot) h
  exact e

/-! ## The hold reasons -/

/-- From `s` to `t` slot `i` holds the same reasons. -/
def HoldSame (i : Slot) (s t : State) : Prop := (t.well i).map (·.holds) = (s.well i).map (·.holds)

theorem holdSame_modWell (s : State) (j : Slot) (f : Well → Well) (h : j = i → ∀ w, (f w).holds = w.holds) :
    HoldSame i s (modWell s j f) := by
  unfold HoldSame
  rw [modWell_well]
  split
  · next e =>
    rw [Option.map_map]
    exact congrArg (fun g => (s.well i).map g) (funext fun w => h e.symm w)
  · rw [Option.map_id']

theorem queueRules_holdSame (i : Slot) : QueueRules (HoldSame i) where
  refl := fun _ => rfl
  trans := fun a b => Eq.trans b a
  seg := fun _ _ _ _ => rfl
  pending := fun _ _ _ => holdSame_modWell _ _ _ fun _ _ => rfl
  ending := fun r s => by
    unfold endBalancing
    split <;> rfl

theorem Reports.holdSame (h : Reports s t) : HoldSame i s t := by
  unfold HoldSame
  rw [h.well i]

theorem evalRules_holdSame (i : Slot) : EvalRules (HoldSame i) where
  toQueueRules := queueRules_holdSame i
  line := fun _ _ _ => rfl
  treat := fun l r s => (reports_treatLine l r s).holdSame
  balance := fun _ _ => rfl
  asked := fun _ _ => rfl

theorem HoldSame.trans {u : State} (a : HoldSame i s t) (b : HoldSame i t u) : HoldSame i s u := Eq.trans b a

theorem holdSame_makeProt (j : Slot) (n : Nat) (s : State) : HoldSame i s (makeProt j n s) := by
  unfold makeProt
  split
  · exact HoldSame.trans (t := s.countProt) rfl ((queueRules_holdSame i).arriveProt _ _ _ _)
  · rfl

theorem holdSame_divertAll (slots : List Slot) (s : State) : HoldSame i s (divertAll slots s) := by
  induction slots generalizing s with
  | nil => rfl
  | cons j rest ih =>
    unfold divertAll
    split
    · exact (HoldSame.trans (t := s.countProt) rfl ((queueRules_holdSame i).arriveProt _ _ _ _)).trans (ih _)
    · exact ih s

theorem holdSame_leaveAll (gone : List Entry) (s : State) : HoldSame i s (leaveAll gone s) := by
  induction gone generalizing s with
  | nil => rfl
  | cons e rest ih => exact ((queueRules_holdSame i).leaveEffects e s).trans (ih _)

theorem holdSame_turnQueue (s : State) (g : Seg) : HoldSame i s (turnQueue s g) := by
  unfold turnQueue
  exact ((queueRules_holdSame i).modSeg s g _).trans (holdSame_leaveAll _ _)

theorem holdSame_turnPending (slots : List Slot) (s : State) : HoldSame i s (turnPending slots s) := by
  induction slots generalizing s with
  | nil => rfl
  | cons j rest ih =>
    unfold turnPending
    split
    · exact ih s
    · split
      · exact ih s
      · split
        · exact ((queueRules_holdSame i).pending j _ s).trans (ih _)
        · exact ih s

theorem holdSame_lostTurned (s : State) : HoldSame i s (lostTurned s) :=
  (foldl_related (R := HoldSame i) (fun _ => rfl) .trans holdSame_turnQueue Seg.all s).trans
    (holdSame_turnPending allSlots _)

/-- The open-outlet rule at another slot. -/
theorem holdSame_applyOutletRule (s : State) (h : j ≠ i) : HoldSame i s (applyOutletRule j s) := by
  have reason (x : Bool) : HoldSame i s (setReason j .noOutlet x s) := holdSame_modWell s j _ fun e => absurd e h
  unfold applyOutletRule
  split
  · split
    · split
      · split
        · exact reason _
        · rfl
      · split
        · rfl
        · dsimp only
          split
          · exact (reason _).trans (holdSame_makeProt _ _ _)
          · exact reason _
    · rfl
  · rfl

end Sys2Proof.Machine
end

section
/-! PROOF. The protective command of one slot through the operations on the queues (R154 to R158), for O44. -/

-- One theorem at a time: the one-text build of the package runs out of threads otherwise.
set_option Elab.async false

namespace Sys2Proof.Machine

variable {s t : State} {i j : Slot} {w : Well}

/-! ## The command of a lawful slot -/

/-- Slot `i`'s entries are PROTECTIVE and no pending field stands, or none is PROTECTIVE (R153, R157). -/
def Lawful (i : Slot) (s : State) : Prop :=
  ∀ w, s.well i = some w →
    (entriesOf i (s.seg w.cfg.seg).queue ≠ [] ∧ (∀ x ∈ entriesOf i (s.seg w.cfg.seg).queue, x.isProt = true) ∧
        w.pendingProt = none) ∨
      ∀ x ∈ entriesOf i (s.seg w.cfg.seg).queue, x.isProt = false

/-- From `s` to `t` slot `i`, where lawful, stays so and keeps its protective command. -/
def CommandSame (i : Slot) (s t : State) : Prop := Lawful i s → Lawful i t ∧ t.protCommand i = s.protCommand i

theorem CommandSame.refl (s : State) : CommandSame i s s := fun h => ⟨h, rfl⟩

theorem CommandSame.trans {u : State} (a : CommandSame i s t) (b : CommandSame i t u) : CommandSame i s u := fun h =>
  have ⟨ht, hc⟩ := a h
  have ⟨hu, hc'⟩ := b ht
  ⟨hu, hc'.trans hc⟩

theorem protCommand_free (hw : s.well i = some w) (h : ∀ x ∈ entriesOf i (s.seg w.cfg.seg).queue, x.isProt = false) :
    s.protCommand i = w.pendingProt := by
  cases he : (s.seg w.cfg.seg).entryOf i with
  | none => exact protCommand_of_pending hw he
  | some e =>
    have hmem : e ∈ entriesOf i (s.seg w.cfg.seg).queue := List.mem_of_head? ((Segment.entryOf_eq_head? _ _).symm.trans he)
    have hentry : s.entryOf i = some e := (entryOf_well hw).trans he
    unfold State.protCommand State.protEntryOf
    rw [hentry, Option.filter_some, if_neg (by simpa [Entry.isProt] using h e hmem), hw]
    rfl

theorem protCommand_head {e : Entry} {rest : List Entry} (hw : s.well i = some w)
    (he : entriesOf i (s.seg w.cfg.seg).queue = e :: rest) (hp : e.isProt = true) :
    s.protCommand i = some ⟨e.target, e.outlet⟩ := by
  refine protCommand_of_entry hw ?_ (isProt_iff.mp hp)
  rw [Segment.entryOf_eq_head?, he]
  rfl

/-- PROTECTIVE entries of a queue stay, and none comes where none is. -/
structure Mild (i : Slot) (q q' : List Entry) : Prop where
  stay : entriesOf i q ≠ [] → (∀ x ∈ entriesOf i q, x.isProt = true) → entriesOf i q' = entriesOf i q
  free : (∀ x ∈ entriesOf i q, x.isProt = false) → ∀ x ∈ entriesOf i q', x.isProt = false

theorem Mild.of_eq {q q' : List Entry} (h : entriesOf i q' = entriesOf i q) : Mild i q q' := ⟨fun _ _ => h, fun hq => by rwa [h]⟩

theorem commandSame_of_mild (hwell : t.well i = s.well i) (hqueue : ∀ g, Mild i (s.seg g).queue (t.seg g).queue) :
    CommandSame i s t := by
  intro h
  cases hw : s.well i with
  | none =>
    have ht := hwell.trans hw
    refine ⟨fun v hv => (nomatch hv.symm.trans ht), ?_⟩
    unfold State.protCommand State.protEntryOf State.entryOf
    rw [ht, hw]
    rfl
  | some w =>
    have ht := hwell.trans hw
    have hmild := hqueue w.cfg.seg
    rcases h w hw with ⟨hne, hprot, hpending⟩ | hfree
    · have hsame := hmild.stay hne hprot
      refine ⟨fun v hv => ?_, ?_⟩
      · rw [← Option.some.inj (ht.symm.trans hv), hsame]
        exact .inl ⟨hne, hprot, hpending⟩
      · obtain ⟨e, rest, he⟩ := List.exists_cons_of_ne_nil hne
        have hp := hprot e (he ▸ List.mem_cons_self)
        rw [protCommand_head hw he hp, protCommand_head ht (hsame.trans he) hp]
    · have hfree' := hmild.free hfree
      refine ⟨fun v hv => ?_, ?_⟩
      · rw [← Option.some.inj (ht.symm.trans hv)]
        exact .inr hfree'
      · rw [protCommand_free hw hfree, protCommand_free ht hfree']

theorem commandSame_of_same (wells : t.wells = s.wells) (segs : t.segs = s.segs) : CommandSame i s t :=
  commandSame_of_mild (by unfold State.well; rw [wells]) fun g => .of_eq (by unfold State.seg; rw [segs])

theorem Reports.commandSame (h : Reports s t) : CommandSame i s t := by
  rw [h]
  exact commandSame_of_same rfl rfl

theorem commandSame_modSeg {g : Seg} {f : Segment → Segment} (h : Mild i (s.seg g).queue (f (s.seg g)).queue) :
    CommandSame i s (s.modSeg g f) := by
  refine commandSame_of_mild rfl fun k => ?_
  rw [State.seg_modSeg]
  split
  · next e => rw [e]; exact h
  · exact .of_eq rfl

/-- What decides of a record: its segment and its pending field. -/
theorem commandSame_modWell (s : State) (j : Slot) (f : Well → Well)
    (h : j = i → ∀ w, (f w).cfg = w.cfg ∧ (f w).pendingProt = w.pendingProt) : CommandSame i s (modWell s j f) := by
  have hseg (g : Seg) : (modWell s j f).seg g = s.seg g := by
    unfold modWell
    split
    · rw [putWell_seg]
    · rfl
  by_cases hj : j = i
  · subst hj
    intro hl
    cases hw : s.well j with
    | none =>
      have hsame : modWell s j f = s := by
        unfold modWell
        rw [hw]
      rw [hsame]
      exact ⟨hl, rfl⟩
    | some w =>
      obtain ⟨hcfg, hpending⟩ := h rfl w
      have ht : (modWell s j f).well j = some (f w) := by
        rw [modWell_well, hw, Option.map_some, if_pos rfl]
      have hqueue : entriesOf j ((modWell s j f).seg (f w).cfg.seg).queue = entriesOf j (s.seg w.cfg.seg).queue := by
        rw [hseg, hcfg]
      refine ⟨fun v hv => ?_, ?_⟩
      · rw [← Option.some.inj (ht.symm.trans hv), hqueue, hpending]
        exact hl w hw
      · rcases hl w hw with ⟨hne, hprot, -⟩ | hfree
        · obtain ⟨e, rest, he⟩ := List.exists_cons_of_ne_nil hne
          have hp := hprot e (he ▸ List.mem_cons_self)
          rw [protCommand_head hw he hp, protCommand_head ht (hqueue.trans he) hp]
        · rw [protCommand_free hw hfree, protCommand_free ht (hqueue ▸ hfree), hpending]
  · refine commandSame_of_mild ?_ fun g => .of_eq (by rw [hseg])
    simp [modWell_well, Ne.symm hj]

theorem commandSame_endBalancing (r : Ending) (s : State) : CommandSame i s (endBalancing r s) := by
  unfold endBalancing
  split
  · exact commandSame_of_same rfl rfl
  · exact .refl s

theorem commandSame_leaveEffects (e : Entry) (s : State) : CommandSame i s (leaveEffects e s) := by
  unfold leaveEffects
  split
  · exact commandSame_endBalancing _ _
  · exact .refl s

theorem mild_dropSlot {q : List Entry} {v : Entry} (hmem : v ∈ q) (hnot : v.isProt = false) : Mild i q (dropSlot v.slot q) := by
  by_cases hv : v.slot = i
  · refine ⟨fun _ hprot => ?_, fun _ => ?_⟩
    · have hv' := hprot v (mem_entriesOf.mpr ⟨hmem, hv⟩)
      rw [hnot] at hv'
      exact nomatch hv'
    · rw [hv, entriesOf_dropSlot_self]
      exact nofun
  · exact .of_eq (entriesOf_dropSlot hv q)

theorem Mild.joinProt {q q' : List Entry} (h : Mild i q q') {e : Entry} (he : e.slot ≠ i) : Mild i q (joinProt e q') := by
  refine ⟨fun hne hprot => (entriesOf_joinProt he q').trans (h.stay hne hprot), fun hfree => ?_⟩
  rw [entriesOf_joinProt he]
  exact h.free hfree

theorem commandSame_protEnter {g : Seg} {e : Entry} (he : e.slot ≠ i) (h : protEnter g e s = some t) : CommandSame i s t := by
  unfold protEnter at h
  split at h
  · cases h
    exact commandSame_modSeg ((Mild.of_eq rfl).joinProt he)
  · split at h
    · next v hv =>
      cases h
      obtain ⟨hmem, hnot⟩ := lastEvictable_other hv
      exact (commandSame_modSeg ((mild_dropSlot hmem hnot).joinProt he)).trans (commandSame_leaveEffects _ _)
    · exact nomatch h

theorem commandSame_protReplace (g : Seg) (old : Entry) {e : Entry} (s : State) (he : e.slot ≠ i) :
    CommandSame i s (protReplace g old e s) := by
  refine (commandSame_modSeg ?_).trans (commandSame_leaveEffects _ _)
  dsimp only
  split
  · exact .of_eq (entriesOf_replaceSlot he he _)
  · exact .of_eq ((entriesOf_joinProt he _).trans (entriesOf_dropSlot he _))

theorem commandSame_setPending (p : Option PendingProt) (s : State) (h : j ≠ i) : CommandSame i s (setPending j p s) :=
  commandSame_modWell s j _ fun e => absurd e h

/-! ## A protective arrival at the slot -/

/-- With PROTECTIVE entries alone, all equal to `e`, and no pending field, the slot is lawful and its command is `e`'s. -/
theorem commanded_of_entries {e : Entry} (hw : s.well i = some w) (hne : entriesOf i (s.seg w.cfg.seg).queue ≠ [])
    (hall : ∀ x ∈ entriesOf i (s.seg w.cfg.seg).queue, x = e) (hp : e.isProt = true) (hpending : w.pendingProt = none) :
    Lawful i s ∧ s.protCommand i = some ⟨e.target, e.outlet⟩ := by
  refine ⟨fun v hv => ?_, ?_⟩
  · rw [← Option.some.inj (hw.symm.trans hv)]
    exact .inl ⟨hne, fun x hx => hall x hx ▸ hp, hpending⟩
  · obtain ⟨x, rest, hx⟩ := List.exists_cons_of_ne_nil hne
    have hxe : x = e := hall x (hx ▸ List.mem_cons_self)
    rw [protCommand_head hw hx (hxe ▸ hp), hxe]

theorem mem_entriesOf_replaceSlot {e x : Entry} {q : List Entry} (h : x ∈ entriesOf i (replaceSlot i e q)) : x = e := by
  obtain ⟨hx, hslot⟩ := mem_entriesOf.mp h
  obtain ⟨y, -, hy⟩ := List.mem_map.mp hx
  split at hy
  · exact hy.symm
  · next hne => exact absurd (hy ▸ hslot) hne

/-- A replacement leaves the slot no entry but the new one. -/
theorem protReplace_entries {g : Seg} {old e : Entry} (hold : (s.seg g).entryOf e.slot = some old) :
    entriesOf e.slot ((protReplace g old e s).seg g).queue ≠ [] ∧
      ∀ x ∈ entriesOf e.slot ((protReplace g old e s).seg g).queue, x = e := by
  unfold protReplace
  rw [leaveEffects_seg, State.seg_modSeg, if_pos rfl]
  dsimp only
  split
  · refine ⟨List.ne_nil_of_mem (a := e) (mem_entriesOf.mpr ⟨?_, rfl⟩), fun x => mem_entriesOf_replaceSlot⟩
    obtain ⟨hmem, hslot⟩ := Segment.entryOf_some hold
    exact List.mem_map.mpr ⟨old, hmem, if_pos hslot⟩
  · rw [entriesOf_joinProt_self (entriesOf_dropSlot_self _ _)]
    exact ⟨List.cons_ne_nil _ _, fun x hx => List.mem_singleton.mp hx⟩

theorem protReplace_well (g : Seg) (old e : Entry) (s : State) (j : Slot) : (protReplace g old e s).well j = s.well j :=
  leaveEffects_well _ _ _

/-- An arrival that has entered the queue leaves the slot lawful with its command. -/
theorem commanded_of_entered {n : Nat} {o : Line} (hw : t.well i = some w)
    (hne : entriesOf i (t.seg w.cfg.seg).queue ≠ [])
    (hall : ∀ x ∈ entriesOf i (t.seg w.cfg.seg).queue, x = ⟨i, n, o, .protective, false⟩) :
    Lawful i (setPending i none t) ∧ (setPending i none t).protCommand i = some ⟨n, o⟩ :=
  commanded_of_entries (e := ⟨i, n, o, .protective, false⟩) (setPending_well hw none)
    (by rw [setPending_seg]; exact hne) (by rw [setPending_seg]; exact hall) rfl rfl

/-! ## Examinations -/

/-- The examination of the pending fields keeps the command: a pending one that enters stands in the queue. -/
theorem commandSame_examineFrom (g : Seg) (slots : List Slot) (s : State) : CommandSame i s (examineFrom g slots s) := by
  induction slots generalizing s with
  | nil => exact .refl s
  | cons j rest ih =>
    unfold examineFrom
    split
    · exact ih s
    · next w hw =>
      split
      · next hg =>
        have hseg : w.cfg.seg = g := of_decide_eq_true (Bool.and_eq_true_iff.mp hg).1
        split
        · exact ih s
        · next p hp =>
          dsimp only
          by_cases hj : j = i
          · subst hj
            intro hl
            have hfree : ∀ x ∈ entriesOf j (s.seg w.cfg.seg).queue, x.isProt = false :=
              (hl w hw).resolve_left fun h => nomatch h.2.2.symm.trans hp
            have hcommand : s.protCommand j = some p := (protCommand_free hw hfree).trans hp
            have onward {u : State} (hu : Lawful j u ∧ u.protCommand j = some p) :
                Lawful j (examineFrom g rest u) ∧ (examineFrom g rest u).protCommand j = s.protCommand j := by
              obtain ⟨hlaw, hcom⟩ := ih u hu.1
              exact ⟨hlaw, hcom.trans (hu.2.trans hcommand.symm)⟩
            split
            · next old hold =>
              obtain ⟨hne, hall⟩ := protReplace_entries (e := ⟨j, p.target, p.outlet, .protective, false⟩) hold
              exact onward (commanded_of_entered ((protReplace_well _ _ _ _ _).trans hw) (hseg ▸ hne) (hseg ▸ hall))
            · next hold =>
              split
              · next u hu =>
                have hentries := protEnter_entries hu (Segment.entryOf_eq_none_iff.mp hold)
                refine onward (commanded_of_entered ((protEnter_well hu j).trans hw) ?_ ?_) <;> rw [hseg, hentries]
                · exact List.cons_ne_nil _ _
                · exact fun x hx => List.mem_singleton.mp hx
              · exact ⟨hl, rfl⟩
          · split
            · exact ((commandSame_protReplace g _ s hj).trans (commandSame_setPending none _ hj)).trans (ih _)
            · split
              · next u hu => exact ((commandSame_protEnter hj hu).trans (commandSame_setPending none u hj)).trans (ih _)
              · exact .refl s
      · exact ih s

theorem commandSame_examinePending (g : Seg) (s : State) : CommandSame i s (examinePending g s) := by
  unfold examinePending
  split
  · exact commandSame_examineFrom g _ s
  · exact .refl s

theorem commandSame_examineAll (s : State) : CommandSame i s (examineAll s) :=
  (((commandSame_examinePending .a s).trans (commandSame_examinePending .b _)).trans (commandSame_examinePending .c _)).trans
    (commandSame_examinePending .d _)

theorem commandSame_departed (g : Seg) (e : Entry) (s : State) : CommandSame i s (departed g e s) :=
  (commandSame_leaveEffects e s).trans (commandSame_examinePending g _)

/-! ## Arrivals -/

theorem commandSame_arriveProt (n : Nat) (o : Line) (s : State) (h : j ≠ i) : CommandSame i s (arriveProt j n o s) := by
  unfold arriveProt
  split
  · exact .refl s
  · dsimp only
    split
    · exact commandSame_setPending _ _ h
    · split
      · exact ((commandSame_protReplace _ _ s h).trans (commandSame_setPending none _ h)).trans (commandSame_examinePending _ _)
      · split
        · exact commandSame_setPending _ _ h
        · split
          · next u hu =>
            have entered := (commandSame_protEnter h hu).trans (commandSame_setPending none u h)
            split
            · exact entered
            · exact entered.trans (commandSame_examinePending _ _)
          · exact commandSame_setPending _ _ h

/-- In DUTY a protective arrival leaves the slot lawful with the command that arrived. -/
theorem arriveProt_commands {n : Nat} {o : Line} (hd : s.isDuty = true) (hw : s.well i = some w) :
    Lawful i (arriveProt i n o s) ∧ (arriveProt i n o s).protCommand i = some ⟨n, o⟩ := by
  have onward {u : State} (hu : Lawful i u ∧ u.protCommand i = some ⟨n, o⟩) :
      Lawful i (examinePending w.cfg.seg u) ∧ (examinePending w.cfg.seg u).protCommand i = some ⟨n, o⟩ := by
    obtain ⟨hlaw, hcom⟩ := commandSame_examinePending w.cfg.seg u hu.1
    exact ⟨hlaw, hcom.trans hu.2⟩
  unfold arriveProt
  rw [hw]
  dsimp only
  rw [hd]
  rw [Bool.not_true, if_neg Bool.false_ne_true]
  split
  · next old hold =>
    obtain ⟨hne, hall⟩ := protReplace_entries (e := ⟨i, n, o, .protective, false⟩) hold
    exact onward (commanded_of_entered ((protReplace_well _ _ _ _ _).trans hw) hne hall)
  · next hnone =>
    have hnil := Segment.entryOf_eq_none_iff.mp hnone
    have held : Lawful i (setPending i (some ⟨n, o⟩) s) ∧ (setPending i (some ⟨n, o⟩) s).protCommand i = some ⟨n, o⟩ := by
      have hwell := setPending_well hw (some ⟨n, o⟩)
      have hfree : ∀ x ∈ entriesOf i ((setPending i (some ⟨n, o⟩) s).seg w.cfg.seg).queue, x.isProt = false := by
        rw [setPending_seg, hnil]
        exact nofun
      refine ⟨fun v hv => ?_, protCommand_free hwell hfree⟩
      rw [← Option.some.inj (hwell.symm.trans hv)]
      exact .inr hfree
    split
    · exact held
    · split
      · next u hu =>
        have hentries := protEnter_entries hu hnil
        have entered := commanded_of_entered (n := n) (o := o) ((protEnter_well hu i).trans hw)
          (by rw [hentries]; exact List.cons_ne_nil _ _) (by rw [hentries]; exact fun x hx => List.mem_singleton.mp hx)
        split
        · exact entered
        · exact onward entered
      · exact held

theorem commandSame_makeProt (n : Nat) (s : State) (h : j ≠ i) : CommandSame i s (makeProt j n s) := by
  unfold makeProt
  split
  · exact (commandSame_of_same (t := s.countProt) rfl rfl).trans (commandSame_arriveProt _ _ _ h)
  · exact .refl s

theorem commandSame_setReason (j : Slot) (r : Reason) (x : Bool) (s : State) : CommandSame i s (setReason j r x s) :=
  commandSame_modWell s j _ fun _ _ => ⟨rfl, rfl⟩

theorem commandSame_applyOutletRule (s : State) (h : j ≠ i) : CommandSame i s (applyOutletRule j s) := by
  unfold applyOutletRule
  split
  · split
    · split
      · split
        · exact commandSame_setReason _ _ _ _
        · exact .refl s
      · split
        · exact .refl s
        · dsimp only
          split
          · exact (commandSame_setReason _ _ _ _).trans (commandSame_makeProt _ _ h)
          · exact commandSame_setReason _ _ _ _
    · exact .refl s
  · exact .refl s

/-- An arrival of another class neither takes nor brings a PROTECTIVE entry. -/
theorem commandSame_arriveOther {cls : Cls} (hc : cls ≠ .protective) (j : Slot) (n : Nat) (o : Line) (s : State) :
    CommandSame i s (arriveOther j n o cls s) := by
  have hnot : Entry.isProt ⟨j, n, o, cls, false⟩ = false := decide_eq_false hc
  unfold arriveOther
  split
  · exact .refl s
  · next w hw =>
    dsimp only
    split
    · next old hold =>
      split
      · exact commandSame_leaveEffects _ _
      · next hprot =>
        refine (commandSame_modSeg ?_).trans (commandSame_departed _ _ _)
        dsimp only
        by_cases hj : j = i
        · subst hj
          obtain ⟨hmem, hslot⟩ := Segment.entryOf_some hold
          refine ⟨fun _ hall => absurd (hall old (mem_entriesOf.mpr ⟨hmem, hslot⟩)) hprot, fun _ x hx => ?_⟩
          rw [mem_entriesOf_replaceSlot hx]
          exact hnot
        · exact .of_eq (entriesOf_replaceSlot hj hj _)
    · next hnone =>
      split
      · refine commandSame_modSeg ⟨fun hne hall => ?_, fun hfree x hx => ?_⟩
        · by_cases hj : j = i
          · subst hj
            exact absurd (Segment.entryOf_eq_none_iff.mp hnone) hne
          · exact entriesOf_append hj _
        · obtain ⟨hx', hslot⟩ := mem_entriesOf.mp hx
          rcases List.mem_append.mp hx' with hx' | hx'
          · exact hfree x (mem_entriesOf.mpr ⟨hx', hslot⟩)
          · rw [List.mem_singleton.mp hx']
            exact hnot
      · exact (commandSame_modSeg (.of_eq rfl)).trans (commandSame_departed _ _ _)

theorem commandSame_evaluateLine (l : Line) (s : State) : CommandSame i s (evaluateLine l s) := by
  have treated : CommandSame i s (treated l s) :=
    (commandSame_of_same (t := s.setLine l (s.recordAt l)) rfl rfl).trans (reports_treatLine l _ _).commandSame
  rw [evaluateLine_eq]
  generalize Machine.treated l s = u at treated
  split
  · unfold balancingPass
    split
    · next b _ =>
      exact (treated.trans (commandSame_of_same (t := u.modBalancer fun x => { x with move := some b }) rfl rfl)).trans
        (commandSame_arriveOther (by decide) _ _ _ _)
    · exact treated
  · exact treated

end Sys2Proof.Machine
end

section
/-! PROOF. The open-outlet rule at one roster member (R100), for O44. -/

-- One theorem at a time: the one-text build of the package runs out of threads otherwise.
set_option Elab.async false

namespace Sys2Proof.Machine

variable {s t : State} {i j : Slot} {w : Well} {l : Line}

/-! ## The branches of the rule -/

theorem applyOutletRule_of_open (hw : s.well i = some w) (hm : (s.stateOf i).onRoster = true) (hr : s.routing i = some l)
    (ho : s.isOpen l = true) : applyOutletRule i s = if w.holds.noOutlet then setReason i .noOutlet false s else s := by
  have hm' : (wellState (some w)).onRoster = true := hw ▸ hm
  unfold applyOutletRule
  rw [hw, hr]
  dsimp only
  rw [if_pos hm', if_pos ho]

theorem applyOutletRule_of_closed (hw : s.well i = some w) (hm : (s.stateOf i).onRoster = true) (hr : s.routing i = some l)
    (ho : s.isOpen l = false) :
    applyOutletRule i s =
      if w.holds.noOutlet then s
      else if s.isDuty then makeProt i w.cfg.pmin (setReason i .noOutlet true s) else setReason i .noOutlet true s := by
  have hm' : (wellState (some w)).onRoster = true := hw ▸ hm
  have hduty : (setReason i .noOutlet true s).isDuty = s.isDuty := ((outletRules_bodySame i).reason i true s).isDuty
  unfold applyOutletRule
  rw [hw, hr]
  dsimp only
  rw [if_pos hm', ho, hduty]
  rfl

/-! ## The outlet of a protective SET (R48) -/

theorem setReason_segs (i : Slot) (r : Reason) (x : Bool) (s : State) : (setReason i r x s).segs = s.segs := by
  unfold setReason modWell
  split
  · rw [putWell_frame]
  · rfl

theorem setReason_protMade (i : Slot) (r : Reason) (x : Bool) (s : State) : (setReason i r x s).protMade = s.protMade := by
  unfold setReason modWell
  split
  · rw [putWell_frame]
  · rfl

theorem setReason_protCommand (hw : s.well i = some w) (r : Reason) (x : Bool) :
    (setReason i r x s).protCommand i = s.protCommand i := by
  have ht := setReason_well hw r x
  unfold State.protCommand State.protEntryOf
  rw [entryOf_well ht, entryOf_well hw, ht, hw]
  unfold State.seg
  rw [setReason_segs]
  rfl

/-- The outlet of R48 in terms of the command, the record and line-lost status. -/
theorem protOutlet_eq (hw : s.well i = some w) :
    s.protOutlet i =
      if decide (((s.protCommand i).elim w.outlet (·.outlet)) = .engine) && s.balancer.lineLost then
        (if w.cfg.permitted.allows .flare then some .flare else none)
      else some ((s.protCommand i).elim w.outlet (·.outlet)) := by
  unfold State.protOutlet
  rw [hw]
  cases s.protCommand i <;> rfl

theorem setReason_protOutlet (hw : s.well i = some w) (r : Reason) (x : Bool) :
    (setReason i r x s).protOutlet i = s.protOutlet i := by
  have hlost : (setReason i r x s).balancer = s.balancer := modWell_balancer s i _
  rw [protOutlet_eq hw, protOutlet_eq (setReason_well hw r x), setReason_protCommand hw, hlost]

theorem makeProt_some {o : Line} (h : s.protOutlet i = some o) (n : Nat) : makeProt i n s = arriveProt i n o s.countProt := by
  unfold makeProt
  rw [h]

theorem makeProt_none (h : s.protOutlet i = none) (n : Nat) : makeProt i n s = s := by
  unfold makeProt
  rw [h]

/-! ## What the rule does -/

/-- At a closed routing the rule leaves NO OUTLET held. -/
theorem applyOutletRule_closed_holds (hw : s.well i = some w) (hm : (s.stateOf i).onRoster = true) (hr : s.routing i = some l)
    (ho : s.isOpen l = false) : ((applyOutletRule i s).well i).map (·.holds) = some (w.holds.put .noOutlet true) := by
  have reason : ((setReason i .noOutlet true s).well i).map (·.holds) = some (w.holds.put .noOutlet true) := by
    rw [setReason_well hw]
    rfl
  rw [applyOutletRule_of_closed hw hm hr ho]
  split
  · next h =>
    rw [hw]
    have hput : w.holds.put .noOutlet true = w.holds := by
      unfold Holds.put
      dsimp only
      rw [← h]
    rw [hput]
    rfl
  · split
    · exact Eq.trans (holdSame_makeProt (i := i) i w.cfg.pmin _) reason
    · exact reason

theorem applyOutletRule_cases (hw : s.well i = some w) (hm : (s.stateOf i).onRoster = true) (hr : s.routing i = some l) :
    (s.isOpen l = true → w.holds.noOutlet = true →
        (applyOutletRule i s).well i = some { w with holds := w.holds.put .noOutlet false } ∧
          (applyOutletRule i s).segs = s.segs) ∧
      (s.isOpen l = true → w.holds.noOutlet = false → applyOutletRule i s = s) ∧
      (s.isOpen l = false → w.holds.noOutlet = true → applyOutletRule i s = s) ∧
      (s.isOpen l = false → w.holds.noOutlet = false →
        ((applyOutletRule i s).well i).map (·.holds) = some (w.holds.put .noOutlet true) ∧
        (s.unit.role = .standby → (applyOutletRule i s).segs = s.segs ∧ (applyOutletRule i s).protMade = s.protMade) ∧
        (s.unit.role = .duty → s.protOutlet i = none →
          (applyOutletRule i s).segs = s.segs ∧ (applyOutletRule i s).protMade = s.protMade) ∧
        ∀ o, s.unit.role = .duty → s.protOutlet i = some o →
          (applyOutletRule i s).protCommand i = some ⟨w.cfg.pmin, o⟩) := by
  have reason := setReason_segs i .noOutlet true s
  have made := setReason_protMade i .noOutlet true s
  refine ⟨fun ho hn => ?_, fun ho hn => ?_, fun ho hn => ?_, fun ho hn => ⟨applyOutletRule_closed_holds hw hm hr ho, fun hd => ?_,
    fun hd hp => ?_, fun o hd hp => ?_⟩⟩
  · rw [applyOutletRule_of_open hw hm hr ho, if_pos hn]
    exact ⟨setReason_well hw _ _, setReason_segs _ _ _ _⟩
  · rw [applyOutletRule_of_open hw hm hr ho, hn]
    rfl
  · rw [applyOutletRule_of_closed hw hm hr ho, if_pos hn]
  · have hstandby : s.isDuty = false := by
      unfold State.isDuty
      rw [hd]
      rfl
    rw [applyOutletRule_of_closed hw hm hr ho, hn, hstandby]
    exact ⟨reason, made⟩
  · have hduty : s.isDuty = true := by
      unfold State.isDuty
      rw [hd]
      rfl
    rw [applyOutletRule_of_closed hw hm hr ho, hn, hduty, if_neg Bool.false_ne_true, if_pos rfl,
      makeProt_none ((setReason_protOutlet hw _ _).trans hp)]
    exact ⟨reason, made⟩
  · have hduty : s.isDuty = true := by
      unfold State.isDuty
      rw [hd]
      rfl
    have hduty' : (setReason i .noOutlet true s).countProt.isDuty = true :=
      ((outletRules_bodySame i).reason i true s).isDuty.trans hduty
    rw [applyOutletRule_of_closed hw hm hr ho, hn, hduty, if_neg Bool.false_ne_true, if_pos rfl,
      makeProt_some ((setReason_protOutlet hw _ _).trans hp)]
    exact (arriveProt_commands (s := (setReason i .noOutlet true s).countProt) hduty' (setReason_well hw _ _)).2

end Sys2Proof.Machine
end

section
/-! PROOF. The open-outlet rule over the roster members, seen from one slot (R100), for O44. -/

-- One theorem at a time: the one-text build of the package runs out of threads otherwise.
set_option Elab.async false

namespace Sys2Proof.Machine

variable {s t : State} {i j : Slot} {w : Well} {l : Line} {b : Bool}

/-! ## What follows from body and command -/

theorem onRoster_iff : (s.stateOf i).onRoster = true ↔ (rosterLine (s.well i)).isSome = true := by
  unfold State.stateOf rosterLine
  cases s.well i with
  | none => simp [wellState, WellState.onRoster]
  | some w =>
    dsimp only
    split <;> simp_all

theorem BodySame.rosterLine (a : BodySame i s t) : Machine.rosterLine (t.well i) = Machine.rosterLine (s.well i) := by
  cases hw : s.well i with
  | none =>
    have h := a.body
    rw [hw] at h
    rw [Option.map_eq_none_iff.mp h]
  | some w =>
    obtain ⟨v, hv, hbody⟩ := a.well hw
    rw [hv]
    exact rosterLine_key (body_key hbody)

theorem BodySame.onRoster (a : BodySame i s t) (h : (s.stateOf i).onRoster = true) : (t.stateOf i).onRoster = true := by
  rw [onRoster_iff] at h ⊢
  rw [a.rosterLine]
  exact h

theorem sentProt_eq (hw : s.well i = some w) :
    s.sentProt i = (s.seg w.cfg.seg).sentCopy.filter fun c => c.slot = i && c.cls = .protective := by
  unfold State.sentProt
  rw [hw]
  dsimp only
  cases (s.seg w.cfg.seg).sentCopy with
  | none => rfl
  | some c => rw [Option.filter_some]

theorem routing_eq (hw : s.well i = some w) :
    s.routing i = some ((s.protCommand i).elim ((s.sentProt i).elim w.outlet (·.outlet)) (·.outlet)) := by
  unfold State.routing
  rw [hw]
  dsimp only
  cases s.protCommand i with
  | some p => rfl
  | none => cases s.sentProt i <;> rfl

theorem BodySame.sentProt (a : BodySame i s t) (hw : s.well i = some w) : t.sentProt i = s.sentProt i := by
  obtain ⟨v, hv, hbody⟩ := a.well hw
  rw [sentProt_eq hw, sentProt_eq hv, body_cfg hbody, a.copy]

/-- From `s` to `t` slot `i` is lawful and keeps its command and the body of its record. -/
structure Standing (i : Slot) (s t : State) : Prop where
  body : BodySame i s t
  lawful : Lawful i t
  command : t.protCommand i = s.protCommand i

namespace Standing

theorem of_lawful (h : Lawful i s) : Standing i s s := ⟨.refl s, h, rfl⟩

theorem after {u : State} (a : Standing i s t) (body : BodySame i t u) (command : CommandSame i t u) : Standing i s u :=
  have ⟨hlaw, hc⟩ := command a.lawful
  ⟨a.body.trans body, hlaw, hc.trans a.command⟩

theorem trans {u : State} (a : Standing i s t) (b : Standing i t u) : Standing i s u :=
  ⟨a.body.trans b.body, b.lawful, b.command.trans a.command⟩

theorem routing (a : Standing i s t) (hw : s.well i = some w) : t.routing i = s.routing i := by
  obtain ⟨v, hv, hbody⟩ := a.body.well hw
  rw [routing_eq hw, routing_eq hv, a.command, a.body.sentProt hw, body_outlet hbody]

theorem protOutlet (a : Standing i s t) (hw : s.well i = some w) : t.protOutlet i = s.protOutlet i := by
  obtain ⟨v, hv, hbody⟩ := a.body.well hw
  rw [protOutlet_eq hw, protOutlet_eq hv, a.command, body_outlet hbody, body_cfg hbody, a.body.lineLost]

theorem diverts (a : BodySame i s t) (hw : s.well i = some w) : t.diverts i = s.diverts i := by
  obtain ⟨v, hv, hbody⟩ := a.well hw
  unfold State.diverts
  rw [hw, hv]
  dsimp only
  rw [body_cfg hbody, body_hot hbody]

theorem diversionTarget (a : Standing i s t) (hw : s.well i = some w) : t.diversionTarget i = s.diversionTarget i := by
  obtain ⟨v, hv, hbody⟩ := a.body.well hw
  unfold State.diversionTarget
  rw [a.command, hw, hv]
  dsimp only
  rw [body_cfg hbody, body_target hbody]

/-- The open-outlet rule at another slot. -/
theorem otherRule (a : Standing i s t) (h : j ≠ i) : Standing i s (applyOutletRule j t) :=
  a.after ((outletRules_bodySame i).applyOutletRule j t) (commandSame_applyOutletRule t h)

theorem reason (a : Standing i s t) (x : Bool) : Standing i s (setReason i .noOutlet x t) :=
  a.after ((outletRules_bodySame i).reason i x t) (commandSame_setReason i _ x t)

end Standing

/-! ## The rule over a list -/

/-- Slot `i` holds NO OUTLET, or does not. -/
def NoOutletIs (i : Slot) (b : Bool) (s : State) : Prop := (s.well i).map (·.holds.noOutlet) = some b

theorem HoldSame.noOutletIs (a : HoldSame i s t) (h : NoOutletIs i b s) : NoOutletIs i b t := by
  have e := congrArg (Option.map Holds.noOutlet) a
  rw [Option.map_map, Option.map_map] at e
  exact e.trans h

theorem noOutletIs_setReason (hw : s.well i = some w) (b : Bool) : NoOutletIs i b (setReason i .noOutlet b s) := by
  unfold NoOutletIs
  rw [setReason_well hw]
  rfl

/-- What each application of the rule keeps, and its own application reaches, holds behind a list with the slot in it. -/
theorem applyOutletRules_settles {P : State → Prop} (other : ∀ s j, j ≠ i → P s → P (applyOutletRule j s))
    (own : ∀ s, P s → P (applyOutletRule i s) ∧ NoOutletIs i b (applyOutletRule i s)) (slots : List Slot) (h : P s) :
    P (applyOutletRules slots s) ∧ (i ∈ slots ∨ NoOutletIs i b s → NoOutletIs i b (applyOutletRules slots s)) := by
  induction slots generalizing s with
  | nil => exact ⟨h, fun hb => hb.resolve_left List.not_mem_nil⟩
  | cons j rest ih =>
    unfold applyOutletRules
    by_cases hj : j = i
    · subst hj
      obtain ⟨hp, hq⟩ := own s h
      obtain ⟨hp', hq'⟩ := ih hp
      exact ⟨hp', fun _ => hq' (.inr hq)⟩
    · obtain ⟨hp', hq'⟩ := ih (other s j hj h)
      refine ⟨hp', fun hb => hq' (hb.imp (fun hm => ?_) (holdSame_applyOutletRule s hj).noOutletIs)⟩
      exact (List.mem_cons.mp hm).resolve_left (Ne.symm hj)

/-- At an open routing the rule takes NO OUTLET away and keeps the command. -/
theorem applyOutletRules_open (hw : s.well i = some w) (hl : Lawful i s) (hm : (s.stateOf i).onRoster = true)
    (hr : s.routing i = some l) (ho : s.isOpen l = true) (slots : List Slot) :
    Standing i s (applyOutletRules slots s) ∧ (i ∈ slots → NoOutletIs i false (applyOutletRules slots s)) := by
  have settles := applyOutletRules_settles (i := i) (b := false) (P := Standing i s) (fun t j hj a => a.otherRule hj)
    (fun t a => ?_) slots (.of_lawful hl)
  · exact ⟨settles.1, fun hi => settles.2 (.inl hi)⟩
  · obtain ⟨v, hv, -⟩ := a.body.well hw
    rw [applyOutletRule_of_open hv (a.body.onRoster hm) ((a.routing hw).trans hr) ((a.body.isOpen l).trans ho)]
    split
    · exact ⟨a.reason false, noOutletIs_setReason hv false⟩
    · next h =>
      refine ⟨a, ?_⟩
      unfold NoOutletIs
      rw [hv]
      exact congrArg some (Bool.eq_false_iff.mpr h)

/-- At a closed routing for which R48 gives no outlet the rule adds NO OUTLET and makes no command. -/
theorem applyOutletRules_shut (hw : s.well i = some w) (hl : Lawful i s) (hm : (s.stateOf i).onRoster = true)
    (hr : s.routing i = some l) (ho : s.isOpen l = false) (hp : s.protOutlet i = none) (slots : List Slot) :
    Standing i s (applyOutletRules slots s) ∧ (i ∈ slots → NoOutletIs i true (applyOutletRules slots s)) := by
  have settles := applyOutletRules_settles (i := i) (b := true) (P := Standing i s) (fun t j hj a => a.otherRule hj)
    (fun t a => ?_) slots (.of_lawful hl)
  · exact ⟨settles.1, fun hi => settles.2 (.inl hi)⟩
  · obtain ⟨v, hv, -⟩ := a.body.well hw
    have hmade : makeProt i v.cfg.pmin (setReason i .noOutlet true t) = setReason i .noOutlet true t :=
      makeProt_none ((setReason_protOutlet hv _ _).trans ((a.protOutlet hw).trans hp)) _
    rw [applyOutletRule_of_closed hv (a.body.onRoster hm) ((a.routing hw).trans hr) ((a.body.isOpen l).trans ho), hmade, ite_self]
    split
    · next h =>
      refine ⟨a, ?_⟩
      unfold NoOutletIs
      rw [hv]
      exact congrArg some h
    · exact ⟨a.reason true, noOutletIs_setReason hv true⟩

/-- With both lines closed the rule leaves NO OUTLET held. -/
theorem applyOutletRules_closed (hw : s.well i = some w) (hm : (s.stateOf i).onRoster = true) (he : s.isOpen .engine = false)
    (hf : s.isOpen .flare = false) {slots : List Slot} (hi : i ∈ slots) : NoOutletIs i true (applyOutletRules slots s) := by
  have settles := applyOutletRules_settles (i := i) (b := true) (P := BodySame i s)
    (fun t j _ a => a.trans ((outletRules_bodySame i).applyOutletRule j t)) (fun t a => ?_) slots (.refl s)
  · exact settles.2 (.inl hi)
  · obtain ⟨v, hv, -⟩ := a.well hw
    have hclosed (k : Line) : t.isOpen k = false := by
      rw [a.isOpen]
      cases k
      · exact he
      · exact hf
    have hholds := applyOutletRule_closed_holds hv (a.onRoster hm) (routing_eq hv) (hclosed _)
    refine ⟨a.trans ((outletRules_bodySame i).applyOutletRule i t), ?_⟩
    have e := congrArg (Option.map Holds.noOutlet) hholds
    rw [Option.map_map] at e
    exact e

/-- A slot with an open routing or with NO OUTLET held keeps its command under the rule. -/
theorem applyOutletRules_stands (hw : s.well i = some w) (hl : Lawful i s) (hm : (s.stateOf i).onRoster = true)
    (hr : s.routing i = some l) (h : s.isOpen l = true ∨ NoOutletIs i true s) (slots : List Slot) :
    Standing i s (applyOutletRules slots s) := by
  rcases h with ho | hn
  · exact (applyOutletRules_open hw hl hm hr ho slots).1
  · by_cases ho : s.isOpen l = true
    · exact (applyOutletRules_open hw hl hm hr ho slots).1
    · have hclosed : s.isOpen l = false := Bool.eq_false_iff.mpr ho
      have settles := applyOutletRules_settles (i := i) (b := true) (P := fun t => Standing i s t ∧ NoOutletIs i true t)
        (fun t j hj a => ⟨a.1.otherRule hj, (holdSame_applyOutletRule t hj).noOutletIs a.2⟩) (fun t a => ?_) slots
        ⟨.of_lawful hl, hn⟩
      · exact settles.1.1
      · obtain ⟨stands, held⟩ := a
        obtain ⟨v, hv, -⟩ := stands.body.well hw
        have hheld : v.holds.noOutlet = true := by
          unfold NoOutletIs at held
          rw [hv] at held
          exact Option.some.inj held
        rw [applyOutletRule_of_closed hv (stands.body.onRoster hm) ((stands.routing hw).trans hr)
          ((stands.body.isOpen l).trans hclosed), if_pos hheld]
        exact ⟨⟨stands, held⟩, held⟩

end Sys2Proof.Machine
end

section
/-! PROOF. The diversion and the turning of the queues, seen from one slot (R95, R96), for O44. -/

-- One theorem at a time: the one-text build of the package runs out of threads otherwise.
set_option Elab.async false

namespace Sys2Proof.Machine

variable {s t : State} {i j : Slot} {w : Well} {l : Line} {p : PendingProt}

/-! ## The diversion (R96) -/

/-- A slot the diversion does not take keeps its command. -/
theorem divertAll_stands (hw : s.well i = some w) (hl : Lawful i s) (hd : s.diverts i = false) (slots : List Slot) :
    Standing i s (divertAll slots s) := by
  suffices h : ∀ t, Standing i s t → Standing i s (divertAll slots t) from h s (.of_lawful hl)
  induction slots with
  | nil => exact fun t a => a
  | cons j rest ih =>
    intro t a
    unfold divertAll
    refine ih _ ?_
    split
    · next hj =>
      have hne : j ≠ i := fun e => by
        rw [e, Standing.diverts a.body hw, hd] at hj
        exact nomatch hj
      exact a.after (((outletRules_bodySame i).count t).trans ((outletRules_bodySame i).arriveProt _ _ _ _))
        ((commandSame_of_same (t := t.countProt) rfl rfl).trans (commandSame_arriveProt _ _ _ hne))
    · exact a

/-- A slot whose command is to FLARE keeps it under a diversion. -/
theorem divertAll_aimed (hw : s.well i = some w) (hl : Lawful i s) (hduty : s.isDuty = true)
    (hc : s.protCommand i = some p) (hp : p.outlet = .flare) (slots : List Slot) : Standing i s (divertAll slots s) := by
  suffices h : ∀ t, Standing i s t → Standing i s (divertAll slots t) from h s (.of_lawful hl)
  induction slots with
  | nil => exact fun t a => a
  | cons j rest ih =>
    intro t a
    have body : BodySame i t (arriveProt j (t.diversionTarget j) .flare t.countProt) :=
      ((outletRules_bodySame i).count t).trans ((outletRules_bodySame i).arriveProt _ _ _ _)
    unfold divertAll
    refine ih _ ?_
    split
    · by_cases hj : j = i
      · subst hj
        obtain ⟨v, hv, -⟩ := a.body.well hw
        have hcommand := a.command.trans hc
        have htarget : t.diversionTarget j = p.target := by
          unfold State.diversionTarget
          rw [hcommand]
        obtain ⟨hlaw, hcom⟩ := arriveProt_commands (n := t.diversionTarget j) (o := .flare) (s := t.countProt)
          (a.body.isDuty.trans hduty) hv
        refine ⟨a.body.trans body, hlaw, hcom.trans (Eq.trans ?_ hc.symm)⟩
        rw [htarget, ← hp]
      · exact a.after body ((commandSame_of_same (t := t.countProt) rfl rfl).trans (commandSame_arriveProt _ _ _ hj))
    · exact a

/-- A slot the diversion takes is commanded to FLARE. -/
theorem divertAll_takes (hw : s.well i = some w) (hl : Lawful i s) (hduty : s.isDuty = true) (hd : s.diverts i = true)
    {slots : List Slot} (hi : i ∈ slots) :
    BodySame i s (divertAll slots s) ∧ Lawful i (divertAll slots s) ∧
      (divertAll slots s).protCommand i = some ⟨s.diversionTarget i, .flare⟩ := by
  suffices h : ∀ t, Standing i s t → BodySame i s (divertAll slots t) ∧ Lawful i (divertAll slots t) ∧
      (divertAll slots t).protCommand i = some ⟨s.diversionTarget i, .flare⟩ from h s (.of_lawful hl)
  induction slots with
  | nil => exact absurd hi List.not_mem_nil
  | cons j rest ih =>
    intro t a
    obtain ⟨v, hv, -⟩ := a.body.well hw
    have body : BodySame i t (arriveProt j (t.diversionTarget j) .flare t.countProt) :=
      ((outletRules_bodySame i).count t).trans ((outletRules_bodySame i).arriveProt _ _ _ _)
    unfold divertAll
    by_cases hj : j = i
    · subst hj
      rw [if_pos ((Standing.diverts a.body hw).trans hd)]
      obtain ⟨hlaw, hcom⟩ := arriveProt_commands (n := t.diversionTarget j) (o := .flare) (s := t.countProt)
        (a.body.isDuty.trans hduty) hv
      rw [a.diversionTarget hw] at hlaw hcom body ⊢
      obtain ⟨x, hx, -⟩ := (a.body.trans body).well hw
      have rest' := divertAll_aimed hx hlaw ((a.body.trans body).isDuty.trans hduty) hcom rfl rest
      exact ⟨(a.body.trans body).trans rest'.body, rest'.lawful, rest'.command.trans hcom⟩
    · refine ih ((List.mem_cons.mp hi).resolve_left (Ne.symm hj)) _ ?_
      split
      · exact a.after body ((commandSame_of_same (t := t.countProt) rfl rfl).trans (commandSame_arriveProt _ _ _ hj))
      · exact a

/-! ## The turning (R95 step 4) -/

theorem turnEntry_slot {e x : Entry} (h : s.turnEntry e = some x) : x.slot = e.slot ∧ x.isProt = e.isProt := by
  unfold State.turnEntry at h
  split at h
  · cases h
    exact ⟨rfl, rfl⟩
  · split at h
    · cases h
      exact ⟨rfl, rfl⟩
    · exact nomatch h

theorem turnEntry_flare {e x : Entry} (h : s.turnEntry e = some x) : x.outlet = .flare := by
  unfold State.turnEntry at h
  split at h
  · next ho => cases h; exact ho
  · split at h
    · cases h
      rfl
    · exact nomatch h

theorem entriesOf_filterMap {f : Entry → Option Entry} (h : ∀ e x, f e = some x → x.slot = e.slot) (i : Slot) (q : List Entry) :
    entriesOf i (q.filterMap f) = (entriesOf i q).filterMap f := by
  unfold entriesOf
  rw [List.filter_filterMap, List.filterMap_filter]
  refine List.filterMap_congr fun e _ => ?_
  cases hf : f e with
  | none => simp
  | some x =>
    have hx := h e x hf
    by_cases he : e.slot = i
    · simp [he, hx]
    · simp [he, hx]

theorem leaveAll_seg (gone : List Entry) (s : State) (g : Seg) : (leaveAll gone s).seg g = s.seg g := by
  rw [leaveAll_eq]
  rfl

theorem leaveAll_well (gone : List Entry) (s : State) (j : Slot) : (leaveAll gone s).well j = s.well j := by
  rw [leaveAll_eq]
  rfl

theorem turnQueue_seg (s : State) (g k : Seg) :
    ((turnQueue s g).seg k).queue = if k = g then (s.seg g).queue.filterMap s.turnEntry else (s.seg k).queue := by
  unfold turnQueue
  dsimp only
  rw [leaveAll_seg, State.seg_modSeg]
  split <;> rfl

theorem turnQueue_well (s : State) (g : Seg) (j : Slot) : (turnQueue s g).well j = s.well j := by
  unfold turnQueue
  dsimp only
  rw [leaveAll_well]
  rfl

/-- A slot without a command to ENGINE keeps its command while a queue is turned. -/
theorem commandSame_turnQueue (s : State) (g : Seg) (h : ∀ p, s.protCommand i = some p → p.outlet = .flare) :
    CommandSame i s (turnQueue s g) := by
  intro hl
  have hslot (e x : Entry) (hx : s.turnEntry e = some x) := (turnEntry_slot hx).1
  have hwell : (turnQueue s g).well i = s.well i := turnQueue_well s g i
  cases hw : s.well i with
  | none =>
    have ht := hwell.trans hw
    refine ⟨fun v hv => (nomatch hv.symm.trans ht), ?_⟩
    unfold State.protCommand State.protEntryOf State.entryOf
    rw [ht, hw]
    rfl
  | some w =>
    have ht := hwell.trans hw
    have hentries : entriesOf i ((turnQueue s g).seg w.cfg.seg).queue =
        if w.cfg.seg = g then (entriesOf i (s.seg w.cfg.seg).queue).filterMap s.turnEntry
        else entriesOf i (s.seg w.cfg.seg).queue := by
      rw [turnQueue_seg]
      split
      · next e => rw [entriesOf_filterMap hslot, e]
      · rfl
    rcases hl w hw with ⟨hne, hprot, hpending⟩ | hfree
    · obtain ⟨e, rest, he⟩ := List.exists_cons_of_ne_nil hne
      have hp := hprot e (he ▸ List.mem_cons_self)
      have hcommand := protCommand_head hw he hp
      have hstays : s.turnEntry e = some e := if_pos (h _ hcommand)
      have hhead : ∃ rest', entriesOf i ((turnQueue s g).seg w.cfg.seg).queue = e :: rest' := by
        rw [hentries, he, List.filterMap_cons, hstays]
        split
        · exact ⟨_, rfl⟩
        · exact ⟨_, rfl⟩
      obtain ⟨rest', he'⟩ := hhead
      refine ⟨fun v hv => ?_, (protCommand_head ht he' hp).trans hcommand.symm⟩
      rw [← Option.some.inj (ht.symm.trans hv)]
      refine .inl ⟨by rw [he']; exact List.cons_ne_nil _ _, fun x hx => ?_, hpending⟩
      rw [hentries] at hx
      split at hx
      · obtain ⟨y, hy, hyx⟩ := List.mem_filterMap.mp hx
        rw [(turnEntry_slot hyx).2]
        exact hprot y hy
      · exact hprot x hx
    · have hfree' : ∀ x ∈ entriesOf i ((turnQueue s g).seg w.cfg.seg).queue, x.isProt = false := by
        intro x hx
        rw [hentries] at hx
        split at hx
        · obtain ⟨y, hy, hyx⟩ := List.mem_filterMap.mp hx
          rw [(turnEntry_slot hyx).2]
          exact hfree y hy
        · exact hfree x hx
      refine ⟨fun v hv => ?_, (protCommand_free ht hfree').trans (protCommand_free hw hfree).symm⟩
      rw [← Option.some.inj (ht.symm.trans hv)]
      exact .inr hfree'

theorem standing_turnQueues (hp : ∀ p, s.protCommand i = some p → p.outlet = .flare) (hl : Lawful i s) (segs : List Seg) :
    Standing i s (segs.foldl turnQueue s) := by
  suffices h : ∀ t, Standing i s t → Standing i s (segs.foldl turnQueue t) from h s (.of_lawful hl)
  induction segs with
  | nil => exact fun t a => a
  | cons g rest ih =>
    exact fun t a => ih _ (a.after (bodySame_turnQueue t g)
      (commandSame_turnQueue t g fun p hc => hp p (a.command.symm.trans hc)))

theorem standing_turnPending (hp : ∀ p, s.protCommand i = some p → p.outlet = .flare) (hl : Lawful i s) (slots : List Slot) :
    Standing i s (turnPending slots s) := by
  suffices h : ∀ t, Standing i s t → Standing i s (turnPending slots t) from h s (.of_lawful hl)
  induction slots with
  | nil => exact fun t a => a
  | cons j rest ih =>
    intro t a
    unfold turnPending
    refine ih _ ?_
    split
    · exact a
    · next v hv =>
      split
      · exact a
      · next q hq =>
        split
        · next hengine =>
          have hj : j ≠ i := fun e => by
            subst e
            have hfree := (a.lawful v hv).resolve_left fun h => (nomatch h.2.2.symm.trans hq)
            have hflare := hp q (a.command.symm.trans ((protCommand_free hv hfree).trans hq))
            rw [hengine] at hflare
            exact nomatch hflare
          exact a.after ((outletRules_bodySame i).pending j _ t) (commandSame_setPending _ t hj)
        · exact a

/-- A slot without a command to ENGINE keeps its command at line-lost onset's turning and the examinations behind it. -/
theorem standing_lostTurned (hp : ∀ p, s.protCommand i = some p → p.outlet = .flare) (hl : Lawful i s) :
    Standing i s (examineAll (lostTurned s)) := by
  have queues := standing_turnQueues hp hl Seg.all
  have pendings := standing_turnPending (s := Seg.all.foldl turnQueue s) (fun p hc => hp p (queues.command.symm.trans hc))
    queues.lawful allSlots
  have turned : Standing i s (lostTurned s) := queues.trans pendings
  exact turned.after ((outletRules_bodySame i).examineAll _) (commandSame_examineAll _)

/-! ## What follows the rule -/

theorem standing_reports (h : Reports s t) (hl : Lawful i s) : Standing i s t :=
  (Standing.of_lawful hl).after h.bodySame h.commandSame

theorem standing_evaluateLine (l : Line) (hl : Lawful i s) : Standing i s (evaluateLine l s) :=
  (Standing.of_lawful hl).after ((evalRules_bodySame i).evaluateLine l s) (commandSame_evaluateLine l s)

/-- An evaluation and a LINE summary behind the examination of the site leave slot `i`'s command and its NO OUTLET. -/
theorem standing_reported (l : Line) (b : Bool) (hl : Lawful i s) :
    Standing i s (offerLine (evaluateLine l (examineSite b s))) := by
  have site := standing_reports (reports_examineSite b s) hl
  have evaluated := site.trans (standing_evaluateLine l site.lawful)
  exact evaluated.trans (standing_reports (reports_offerLine _) evaluated.lawful)

theorem holdSame_reported (l : Line) (b : Bool) (s : State) : HoldSame i s (offerLine (evaluateLine l (examineSite b s))) :=
  ((reports_examineSite b s).holdSame.trans ((evalRules_holdSame i).evaluateLine l _)).trans (reports_offerLine _).holdSame

theorem bodySame_reported (l : Line) (b : Bool) (s : State) : BodySame i s (offerLine (evaluateLine l (examineSite b s))) :=
  ((reports_examineSite b s).bodySame.trans ((evalRules_bodySame i).evaluateLine l _)).trans (reports_offerLine _).bodySame

end Sys2Proof.Machine
end

section
/-! PROOF. With line-lost status set no command to ENGINE comes (R48, R89, R95), for O44. -/

-- One theorem at a time: the one-text build of the package runs out of threads otherwise.
set_option Elab.async false

namespace Sys2Proof.Machine

variable {s t : State} {i j : Slot} {w : Well}

/-- Every entry and every pending field names FLARE. -/
structure AllFlare (s : State) : Prop where
  queued : ∀ (g : Seg), ∀ e ∈ (s.seg g).queue, e.outlet = .flare
  pending : ∀ (i : Slot) (w : Well) (p : PendingProt), s.well i = some w → w.pendingProt = some p → p.outlet = .flare

theorem AllFlare.of_same (h : AllFlare s) (wells : t.wells = s.wells) (segs : t.segs = s.segs) : AllFlare t := by
  refine ⟨fun g e he => ?_, fun i w p hw hp => ?_⟩
  · unfold State.seg at he
    rw [segs] at he
    exact h.queued g e he
  · unfold State.well at hw
    rw [wells] at hw
    exact h.pending i w p hw hp

theorem AllFlare.reports (h : AllFlare s) (r : Reports s t) : AllFlare t := by
  rw [r]
  exact h.of_same rfl rfl

theorem AllFlare.modSeg (h : AllFlare s) (g : Seg) (f : Segment → Segment)
    (hf : ∀ e ∈ (f (s.seg g)).queue, e ∈ (s.seg g).queue ∨ e.outlet = .flare) : AllFlare (s.modSeg g f) := by
  refine ⟨fun k e he => ?_, h.pending⟩
  rw [State.seg_modSeg] at he
  split at he
  · next hk => exact (hf e he).elim (h.queued g e) id
  · exact h.queued k e he

theorem AllFlare.modWell (h : AllFlare s) (j : Slot) (f : Well → Well)
    (hf : ∀ w p, (f w).pendingProt = some p → w.pendingProt = some p ∨ p.outlet = .flare) : AllFlare (modWell s j f) := by
  cases hj : s.well j with
  | none =>
    have hsame : Machine.modWell s j f = s := by
      unfold Machine.modWell
      rw [hj]
    rw [hsame]
    exact h
  | some v =>
    rw [modWell_some hj]
    refine ⟨fun g e he => ?_, fun i w p hw hp => ?_⟩
    · rw [putWell_seg] at he
      exact h.queued g e he
    · rw [putWell_well] at hw
      split at hw
      · cases hw
        exact (hf v p hp).elim (h.pending j v p hj) id
      · exact h.pending i w p hw hp

theorem AllFlare.setPending (h : AllFlare s) (j : Slot) {o : Option PendingProt} (ho : ∀ p, o = some p → p.outlet = .flare) :
    AllFlare (setPending j o s) := h.modWell j _ fun _ p hp => .inr (ho p hp)

theorem AllFlare.setReason (h : AllFlare s) (j : Slot) (r : Reason) (x : Bool) : AllFlare (setReason j r x s) :=
  h.modWell j _ fun _ _ hp => .inl hp

theorem AllFlare.leaveEffects (h : AllFlare s) (e : Entry) : AllFlare (leaveEffects e s) := by
  rw [leaveEffects_eq]
  exact h.of_same rfl rfl

theorem mem_dropSlot {v : Slot} {e : Entry} {q : List Entry} (h : e ∈ dropSlot v q) : e ∈ q := (List.mem_filter.mp h).1

theorem AllFlare.protEnter (h : AllFlare s) {g : Seg} {e : Entry} (he : e.outlet = .flare) (ht : protEnter g e s = some t) :
    AllFlare t := by
  have joined {x : Entry} {q : List Entry} (hx : x ∈ joinProt e q) : x ∈ q ∨ x.outlet = .flare :=
    (mem_joinProt hx).elim (fun e => .inr (e ▸ he)) .inl
  unfold Machine.protEnter at ht
  split at ht
  · cases ht
    exact h.modSeg g _ fun _ => joined
  · split at ht
    · cases ht
      exact (h.modSeg g _ fun x hx => (joined hx).imp_left mem_dropSlot).leaveEffects _
    · exact nomatch ht

theorem AllFlare.protReplace (h : AllFlare s) (g : Seg) (old : Entry) {e : Entry} (he : e.outlet = .flare) :
    AllFlare (protReplace g old e s) := by
  refine (h.modSeg g _ fun x hx => ?_).leaveEffects _
  dsimp only at hx
  split at hx
  · obtain ⟨y, hy, hyx⟩ := List.mem_map.mp hx
    split at hyx
    · exact .inr (hyx ▸ he)
    · exact .inl (hyx ▸ hy)
  · exact (mem_joinProt hx).elim (fun e => .inr (e ▸ he)) fun hx => .inl (mem_dropSlot hx)

theorem AllFlare.examineFrom (h : AllFlare s) (g : Seg) (slots : List Slot) : AllFlare (examineFrom g slots s) := by
  induction slots generalizing s with
  | nil => exact h
  | cons j rest ih =>
    unfold Machine.examineFrom
    split
    · exact ih h
    · next w hw =>
      split
      · split
        · exact ih h
        · next p hp =>
          have hflare : p.outlet = .flare := h.pending j w p hw hp
          dsimp only
          split
          · exact ih ((h.protReplace _ _ hflare).setPending j (o := none) (fun _ hp => nomatch hp))
          · split
            · next u hu => exact ih ((h.protEnter hflare hu).setPending j (o := none) (fun _ hp => nomatch hp))
            · exact h
      · exact ih h

theorem AllFlare.examinePending (h : AllFlare s) (g : Seg) : AllFlare (examinePending g s) := by
  unfold Machine.examinePending
  split
  · exact h.examineFrom g _
  · exact h

theorem AllFlare.examineAll (h : AllFlare s) : AllFlare (examineAll s) :=
  (((h.examinePending .a).examinePending .b).examinePending .c).examinePending .d

theorem AllFlare.departed (h : AllFlare s) (g : Seg) (e : Entry) : AllFlare (departed g e s) :=
  (h.leaveEffects e).examinePending g

theorem AllFlare.arriveProt (h : AllFlare s) (j : Slot) (n : Nat) : AllFlare (arriveProt j n .flare s) := by
  have held : AllFlare (Machine.setPending j (some ⟨n, .flare⟩) s) := h.setPending j fun p hp => by cases hp; rfl
  unfold Machine.arriveProt
  split
  · exact h
  · dsimp only
    split
    · exact held
    · split
      · exact ((h.protReplace (e := ⟨j, n, .flare, .protective, false⟩) _ _ rfl).setPending j (o := none) (fun _ hp => nomatch hp)).examinePending _
      · split
        · exact held
        · split
          · next u hu =>
            have entered := (h.protEnter (e := ⟨j, n, .flare, .protective, false⟩) rfl hu).setPending j (o := none) (fun _ hp => nomatch hp)
            split
            · exact entered
            · exact entered.examinePending _
          · exact held

theorem AllFlare.arriveOther (h : AllFlare s) (j : Slot) (n : Nat) (cls : Cls) : AllFlare (arriveOther j n .flare cls s) := by
  unfold Machine.arriveOther
  split
  · exact h
  · dsimp only
    split
    · split
      · exact h.leaveEffects _
      · refine (h.modSeg _ _ fun x hx => ?_).departed _ _
        obtain ⟨y, hy, hyx⟩ := List.mem_map.mp hx
        split at hyx
        · exact .inr (hyx ▸ rfl)
        · exact .inl (hyx ▸ hy)
    · split
      · refine h.modSeg _ _ fun x hx => (List.mem_append.mp hx).imp_right fun hx => ?_
        rw [List.mem_singleton.mp hx]
      · exact (h.modSeg _ _ fun x hx => .inl hx).departed _ _

/-! ## With line-lost status set -/

/-- A protective SET names FLARE where its command does and ENGINE is lost. -/
theorem protOutlet_lost {o : Line} (hl : s.balancer.lineLost = true) (h : s.protOutlet j = some o) : o = .flare := by
  cases hw : s.well j with
  | none =>
    unfold State.protOutlet at h
    rw [hw] at h
    exact nomatch h
  | some w =>
    rw [protOutlet_eq hw, hl, Bool.and_true] at h
    split at h
    · split at h
      · exact (Option.some.inj h).symm
      · exact nomatch h
    · next hne =>
      rw [← Option.some.inj h]
      have hne' := of_decide_eq_false (Bool.eq_false_iff.mpr hne)
      generalize (s.protCommand j).elim w.outlet (·.outlet) = k at hne'
      cases k
      · exact absurd rfl hne'
      · rfl

theorem AllFlare.makeProt (h : AllFlare s) (hl : s.balancer.lineLost = true) (j : Slot) (n : Nat) : AllFlare (makeProt j n s) := by
  unfold Machine.makeProt
  split
  · next o ho =>
    rw [protOutlet_lost hl ho]
    exact (h.of_same (t := s.countProt) rfl rfl).arriveProt j n
  · exact h

theorem AllFlare.applyOutletRule (h : AllFlare s) (hl : s.balancer.lineLost = true) (j : Slot) : AllFlare (applyOutletRule j s) := by
  have lost : (Machine.setReason j .noOutlet true s).balancer.lineLost = true :=
    ((outletRules_bodySame j).reason j true s).lineLost.trans hl
  unfold Machine.applyOutletRule
  split
  · split
    · split
      · split
        · exact h.setReason _ _ _
        · exact h
      · split
        · exact h
        · dsimp only
          split
          · exact (h.setReason _ _ _).makeProt lost _ _
          · exact h.setReason _ _ _
    · exact h
  · exact h

theorem AllFlare.applyOutletRules (h : AllFlare s) (hl : s.balancer.lineLost = true) (slots : List Slot) :
    AllFlare (applyOutletRules slots s) := by
  induction slots generalizing s with
  | nil => exact h
  | cons j rest ih =>
    exact ih (h.applyOutletRule hl j) (((outletRules_bodySame j).applyOutletRule j s).lineLost.trans hl)

/-- With ENGINE lost a balancing pass names FLARE. -/
theorem chooseBalance_lost {b : BalMove} (hl : s.balancer.lineLost = true) (h : s.chooseBalance = some b) : b.outlet = .flare := by
  obtain ⟨-, w, c, -, triggered⟩ := State.chooseBalance_chosen h
  cases triggered with
  | o2Excess _ outlet => exact outlet
  | blendLow _ _ outlet => exact outlet
  | promotion _ _ _ _ _ _ trigger =>
    have hnot := (State.promotionTrigger_true trigger).1
    rw [hl] at hnot
    exact nomatch hnot
  | throttle _ _ _ _ outlet => exact outlet

theorem AllFlare.evaluateLine (h : AllFlare s) (hl : s.balancer.lineLost = true) (l : Line) : AllFlare (evaluateLine l s) := by
  have line : AllFlare (s.setLine l (s.recordAt l)) := h.of_same rfl rfl
  have treated : AllFlare (treated l s) := line.reports (reports_treatLine l _ _)
  have lost : (Machine.treated l s).balancer.lineLost = true := by
    have e := congrArg (fun u => u.balancer.lineLost) (reports_treatLine l (s.recordAt l) (s.setLine l (s.recordAt l)))
    exact e.trans hl
  rw [evaluateLine_eq]
  generalize Machine.treated l s = u at treated lost
  split
  · unfold balancingPass
    split
    · next b hb =>
      rw [chooseBalance_lost lost hb]
      exact (treated.of_same (t := u.modBalancer fun x => { x with move := some b }) rfl rfl).arriveOther _ _ _
    · exact treated
  · exact treated

/-! ## The turning -/

theorem turnQueues_flare (segs : List Seg) (s : State) (h : ∀ g, g ∉ segs → ∀ e ∈ (s.seg g).queue, e.outlet = .flare) (g : Seg) :
    ∀ e ∈ ((segs.foldl turnQueue s).seg g).queue, e.outlet = .flare := by
  induction segs generalizing s with
  | nil => exact h g List.not_mem_nil
  | cons k rest ih =>
    refine ih (turnQueue s k) fun m hm e he => ?_
    rw [turnQueue_seg] at he
    split at he
    · obtain ⟨x, -, hx⟩ := List.mem_filterMap.mp he
      exact turnEntry_flare hx
    · next hne => exact h m (fun hmem => (List.mem_cons.mp hmem).elim hne hm) e he

theorem turnPending_seg (slots : List Slot) (s : State) (g : Seg) : (turnPending slots s).seg g = s.seg g := by
  induction slots generalizing s with
  | nil => rfl
  | cons j rest ih =>
    unfold turnPending
    rw [ih]
    split
    · rfl
    · split
      · rfl
      · split
        · exact setPending_seg _ _ _ _
        · rfl

theorem turnPending_flare (slots : List Slot) (s : State)
    (h : ∀ i, i ∉ slots → ∀ w p, s.well i = some w → w.pendingProt = some p → p.outlet = .flare) (i : Slot) (w : Well)
    (p : PendingProt) (hw : (turnPending slots s).well i = some w) (hp : w.pendingProt = some p) : p.outlet = .flare := by
  induction slots generalizing s with
  | nil => exact h i List.not_mem_nil w p hw hp
  | cons j rest ih =>
    unfold turnPending at hw
    refine ih _ (fun k hk v q hv hq => ?_) hw
    by_cases hkj : k = j
    · subst hkj
      split at hv
      · next hnone => exact nomatch hv.symm.trans hnone
      · next x hx =>
        split at hv
        · next hnone =>
          rw [Option.some.inj (hx.symm.trans hv), hq] at hnone
          exact nomatch hnone
        · next r hr =>
          split at hv
          · rw [setPending_well hx] at hv
            cases hv
            dsimp only at hq
            split at hq
            · cases hq
              rfl
            · exact nomatch hq
          · next hne =>
            rw [Option.some.inj (hx.symm.trans hv), hq] at hr
            rw [← Option.some.inj hr] at hne
            cases ho : q.outlet
            · exact absurd ho hne
            · rfl
    · have hv' : s.well k = some v := by
        split at hv
        · exact hv
        · split at hv
          · exact hv
          · split at hv
            · unfold setPending at hv
              rw [modWell_well] at hv
              simpa [hkj] using hv
            · exact hv
      exact h k (fun hm => (List.mem_cons.mp hm).elim hkj hk) v q hv' hq

theorem lostTurned_flare (s : State) : AllFlare (lostTurned s) := by
  unfold lostTurned
  refine ⟨fun g e he => ?_, turnPending_flare allSlots _ fun i hi => absurd (List.mem_finRange i) hi⟩
  rw [turnPending_seg] at he
  exact turnQueues_flare Seg.all s (fun g hg => absurd (by cases g <;> decide) hg) g e he

end Sys2Proof.Machine
end

section
/-! PROOF. Line-lost onset seen from one slot (R95, R96, R101), for O44. -/

-- One theorem at a time: the one-text build of the package runs out of threads otherwise.
set_option Elab.async false

namespace Sys2Proof.Machine

variable {s t : State} {i j : Slot} {w : Well} {l : Line}

/-! ## The state before the rule of the onset -/

/-- Line-lost onset up to its fourth step. -/
def lostReady (s : State) : State := examineAll (lostTurned (lostDiverted (lostRaised s)))

theorem lineLostOnset_ready (s : State) :
    lineLostOnset s =
      offerLine (evaluateLine .engine (examineSite true (applyOutletRules (lostReady s).members (lostReady s)))) := rfl

theorem bodySame_lostDiverted (s : State) : BodySame i s (lostDiverted s) := by
  unfold lostDiverted
  split
  · exact (outletRules_bodySame i).diversion s
  · exact .refl s

theorem bodySame_lostReady (s : State) : BodySame i (lostRaised s) (lostReady s) :=
  ((bodySame_lostDiverted _).trans (bodySame_lostTurned _)).trans ((outletRules_bodySame i).examineAll _)

theorem lostRaised_reports (s : State) : Reports (s.modBalancer fun b => { b with lineLost := true }) (lostRaised s) :=
  reports_raiseCond _ _ _ _ _

theorem lostRaised_wells (s : State) : (lostRaised s).wells = s.wells := by
  have e := congrArg State.wells (lostRaised_reports s)
  exact e

theorem lostRaised_segs (s : State) : (lostRaised s).segs = s.segs := by
  have e := congrArg State.segs (lostRaised_reports s)
  exact e

theorem lostRaised_rosters (s : State) : (lostRaised s).rosters = s.rosters := by
  have e := congrArg State.rosters (lostRaised_reports s)
  exact e

theorem lostRaised_unit (s : State) : (lostRaised s).unit = s.unit := by
  have e := congrArg State.unit (lostRaised_reports s)
  exact e

theorem lostRaised_well (s : State) (i : Slot) : (lostRaised s).well i = s.well i := by
  unfold State.well
  rw [lostRaised_wells]

theorem lostRaised_seg (s : State) (g : Seg) : (lostRaised s).seg g = s.seg g := by
  unfold State.seg
  rw [lostRaised_segs]

/-! ## Membership -/

theorem rosterLaw_of_same (h : RosterLaw s) (wells : t.wells = s.wells) (rosters : t.rosters = s.rosters) : RosterLaw t := by
  unfold RosterLaw State.well
  rw [wells, rosters]
  exact h

theorem inner_lostReady (s : State) : Inner False (lostRaised s) (lostReady s) := by
  have diverted : Inner False (lostRaised s) (lostDiverted (lostRaised s)) := by
    unfold lostDiverted
    split
    · exact inner_diversion _
    · exact .refl _
  exact ((diverted.trans (inner_foldSegs _ inner_turnQueue Seg.all _)).trans (inner_turnPending allSlots _)).trans (inner_examineAll _)

theorem Inner.rosters {d : Prop} (a : Inner d s t) (h : RosterLaw s) (l : Line) : t.rosters.get l = s.rosters.get l :=
  SameKeys.roster a.key h (a.keeps.rosterLaw h) l

theorem Inner.members {d : Prop} (a : Inner d s t) (h : RosterLaw s) : t.members = s.members := by
  have hengine := a.rosters h .engine
  have hflare := a.rosters h .flare
  unfold State.members
  exact congrArg₂ (· ++ ·) hengine hflare

theorem lostReady_members (h : RosterLaw s) : (lostReady s).members = s.members := by
  have hraised := rosterLaw_of_same h (lostRaised_wells s) (lostRaised_rosters s)
  rw [(inner_lostReady s).members hraised]
  unfold State.members
  rw [lostRaised_rosters]

theorem member_onRoster (h : RosterLaw s) (hi : i ∈ s.rosters.engine ∨ i ∈ s.rosters.flare) : (s.stateOf i).onRoster = true := by
  rw [onRoster_iff]
  rcases hi with hi | hi
  · rw [((h .engine).2.1 i).mp hi]; rfl
  · rw [((h .flare).2.1 i).mp hi]; rfl

theorem outlet_of_roster (h : RosterLaw s) (hw : s.well i = some w) (hi : i ∈ s.rosters.engine) : w.outlet = .engine := by
  have hline := ((h .engine).2.1 i).mp hi
  rw [hw] at hline
  unfold rosterLine at hline
  dsimp only at hline
  split at hline
  · exact Option.some.inj hline
  · exact nomatch hline

theorem mem_members (hi : i ∈ s.rosters.engine ∨ i ∈ s.rosters.flare) : i ∈ s.members := List.mem_append.mpr hi

/-! ## Lawful slots -/

/-- At most one entry a slot, and an empty pending field beside a PROTECTIVE one, make every slot lawful. -/
theorem lawful_of_laws (hq : QueuesLaw s) (hp : PendingLaw s) (i : Slot) : Lawful i s := by
  intro w hw
  have hnodup := (hq w.cfg.seg).2.1
  cases hes : entriesOf i (s.seg w.cfg.seg).queue with
  | nil => exact .inr nofun
  | cons e rest =>
    have hone : ∀ x ∈ e :: rest, x = e := fun x hx => by
      have hx' := mem_entriesOf.mp (hes ▸ hx)
      have he' := mem_entriesOf.mp (hes ▸ (List.mem_cons_self : e ∈ e :: rest))
      exact List.inj_on_of_nodup_map hnodup hx'.1 he'.1 (hx'.2.trans he'.2.symm)
    cases hprot : e.isProt with
    | false => exact .inr fun x hx => hone x hx ▸ hprot
    | true =>
      have hentry : (s.seg w.cfg.seg).entryOf i = some e := by
        rw [Segment.entryOf_eq_head?, hes]
        rfl
      have hstands := protEntryOf_some hw hentry (isProt_iff.mp hprot)
      refine .inl ⟨List.cons_ne_nil _ _, fun x hx => hone x hx ▸ hprot, ?_⟩
      exact (hp.2 i w hw).resolve_left fun hnone => (nomatch hstands.symm.trans hnone)

theorem lawful_of_same (h : Lawful i s) (wells : t.wells = s.wells) (segs : t.segs = s.segs) : Lawful i t :=
  (commandSame_of_same wells segs h).1

theorem protCommand_of_same (h : Lawful i s) (wells : t.wells = s.wells) (segs : t.segs = s.segs) :
    t.protCommand i = s.protCommand i := (commandSame_of_same wells segs h).2

/-! ## A slot SHUT by NO OUTLET -/

theorem stateOf_shut (hm : (s.stateOf i).onRoster = true) (hn : NoOutletIs i true s) : s.stateOf i = .shut := by
  obtain ⟨w, hw, hheld⟩ := Option.map_eq_some_iff.mp hn
  unfold State.stateOf at hm ⊢
  rw [hw] at hm ⊢
  unfold wellState at hm ⊢
  dsimp only at hm ⊢
  rw [hheld, Bool.or_true] at hm ⊢
  split at hm
  · exact nomatch hm
  · split at hm
    · exact nomatch hm
    · split at hm
      · exact nomatch hm
      · next h1 h2 h3 => rw [if_neg h1, if_neg h2, if_neg h3, if_pos rfl]

end Sys2Proof.Machine
end

section
/-! PROOF. The wells at line-lost onset and at the end of flare fault status (R95, R96, R99 to R101): O44. -/

-- One theorem at a time: the one-text build of the package runs out of threads otherwise.
set_option Elab.async false

namespace Sys2Proof.Machine

variable {s t : State} {i j : Slot} {w : Well} {l : Line} {p : PendingProt}

/-! ## Onset (R95) -/

theorem lostReady_lineLost (s : State) : (lostReady s).balancer.lineLost = true :=
  (bodySame_lostReady (i := 0) s).lineLost.trans (lostRaised_status s).1

theorem lostReady_isOpen (s : State) (l : Line) : (lostReady s).isOpen l = (lostRaised s).isOpen l :=
  (bodySame_lostReady (i := 0) s).isOpen l

theorem lostRaised_engine (s : State) : (lostRaised s).isOpen .engine = false := by
  unfold State.isOpen
  rw [(lostRaised_status s).1]
  rfl

theorem lostRaised_flare (s : State) : (lostRaised s).isOpen .flare = s.isOpen .flare := by
  unfold State.isOpen
  rw [(lostRaised_status s).2]

theorem applyOutletRules_lineLost (slots : List Slot) (s : State) :
    (applyOutletRules slots s).balancer.lineLost = s.balancer.lineLost :=
  ((outletRules_bodySame 0).applyOutletRules slots s).lineLost

/-- Behind the onset no entry and no pending field names ENGINE. -/
theorem lineLostOnset_flare (s : State) : AllFlare (lineLostOnset s) := by
  have ready : AllFlare (lostReady s) := (lostTurned_flare _).examineAll
  have ruled := ready.applyOutletRules (lostReady_lineLost s) (lostReady s).members
  have lost := (applyOutletRules_lineLost (lostReady s).members (lostReady s)).trans (lostReady_lineLost s)
  rw [lineLostOnset_ready]
  generalize applyOutletRules (lostReady s).members (lostReady s) = y at ruled lost
  have examined := ruled.reports (reports_examineSite true y)
  have lost' : (examineSite true y).balancer.lineLost = true := (reports_examineSite true y).bodySame (i := 0) |>.lineLost.trans lost
  exact (examined.evaluateLine lost' .engine).reports (reports_offerLine _)

/-- What the diversion and the turning leave of a slot the diversion takes. -/
theorem lostReady_diverted (hw : s.well i = some w) (hl : Lawful i s) (hduty : s.isDuty = true) (ho : s.isOpen .flare = true)
    (hd : s.diverts i = true) (hi : i ∈ s.rosters.engine) :
    Lawful i (lostReady s) ∧ (lostReady s).protCommand i = some ⟨s.diversionTarget i, .flare⟩ := by
  have wells := lostRaised_wells s
  have segs := lostRaised_segs s
  have raised : CommandSame i s (lostRaised s) := commandSame_of_same wells segs
  obtain ⟨hlaw, hcommand⟩ := raised hl
  have hwell : (lostRaised s).well i = some w := (lostRaised_well s i).trans hw
  have hduty' : (lostRaised s).isDuty = true := by
    unfold State.isDuty
    rw [lostRaised_unit]
    exact hduty
  have hdiverts : (lostRaised s).diverts i = true := by
    rw [← hd]
    unfold State.diverts
    rw [lostRaised_well]
  have htarget : (lostRaised s).diversionTarget i = s.diversionTarget i := by
    unfold State.diversionTarget
    rw [hcommand, lostRaised_well]
  have hmem : i ∈ (lostRaised s).rosters.engine := by
    rw [lostRaised_rosters]
    exact hi
  have hopen := (lostRaised_flare s).trans ho
  unfold lostReady lostDiverted
  rw [hduty', hopen, if_pos (by decide)]
  generalize lostRaised s = r at hlaw hwell hduty' hdiverts htarget hmem
  obtain ⟨-, hlaw', hcommand'⟩ := divertAll_takes hwell hlaw hduty' hdiverts hmem
  have turned : Standing i (diversion r) (examineAll (lostTurned (diversion r))) :=
    standing_lostTurned (fun p hp => by rw [← Option.some.inj (hcommand'.symm.trans hp)]) hlaw'
  exact ⟨turned.lawful, turned.command.trans (hcommand'.trans (by rw [htarget]))⟩

/-- A slot without a command that the diversion does not take stands as it stood. -/
theorem lostReady_stands (hw : s.well i = some w) (hl : Lawful i s) (hd : s.diverts i = false) (hc : s.protCommand i = none) :
    Standing i (lostRaised s) (lostReady s) := by
  obtain ⟨hlaw, hcommand⟩ := commandSame_of_same (i := i) (lostRaised_wells s) (lostRaised_segs s) hl
  have hwell : (lostRaised s).well i = some w := (lostRaised_well s i).trans hw
  have hdiverts : (lostRaised s).diverts i = false := by
    rw [← hd]
    unfold State.diverts
    rw [lostRaised_well]
  have hnone := hcommand.trans hc
  unfold lostReady
  generalize lostRaised s = r at hlaw hwell hdiverts hnone
  have diverted : Standing i r (lostDiverted r) := by
    unfold lostDiverted
    split
    · exact divertAll_stands hwell hlaw hdiverts _
    · exact .of_lawful hlaw
  refine diverted.trans (standing_lostTurned (fun p hp => ?_) diverted.lawful)
  exact nomatch (diverted.command.trans hnone).symm.trans hp

theorem lostRaised_onRoster (h : (s.stateOf i).onRoster = true) : ((lostRaised s).stateOf i).onRoster = true := by
  unfold State.stateOf
  rw [lostRaised_well]
  exact h

/-- The routing of a command. -/
theorem routing_commanded (hw : s.well i = some w) (hc : s.protCommand i = some p) : s.routing i = some p.outlet := by
  rw [routing_eq hw, hc]
  rfl

/-- An ENGINE member the diversion takes is commanded and routed to FLARE behind the onset, without NO OUTLET. -/
theorem lineLostOnset_diverts (hr : RosterLaw s) (hw : s.well i = some w) (hl : Lawful i s) (hduty : s.isDuty = true)
    (ho : s.isOpen .flare = true) (hd : s.diverts i = true) (hi : i ∈ s.rosters.engine) :
    (lineLostOnset s).routing i = some .flare ∧ NoOutletIs i false (lineLostOnset s) ∧
      (lineLostOnset s).protCommand i = some ⟨s.diversionTarget i, .flare⟩ := by
  obtain ⟨hlaw, hcommand⟩ := lostReady_diverted hw hl hduty ho hd hi
  obtain ⟨v, hv, -⟩ := (bodySame_lostReady (i := i) s).well ((lostRaised_well s i).trans hw)
  have hm := (bodySame_lostReady (i := i) s).onRoster (lostRaised_onRoster (member_onRoster hr (.inl hi)))
  have hopen : (lostReady s).isOpen .flare = true := (lostReady_isOpen s .flare).trans ((lostRaised_flare s).trans ho)
  have hmem : i ∈ (lostReady s).members := by
    rw [lostReady_members hr]
    exact mem_members (.inl hi)
  rw [lineLostOnset_ready]
  generalize lostReady s = x at hlaw hcommand hv hm hopen hmem
  obtain ⟨ruled, hno⟩ := applyOutletRules_open hv hlaw hm (routing_commanded hv hcommand) hopen x.members
  have done := ruled.trans (standing_reported .engine true ruled.lawful)
  have held := (holdSame_reported .engine true _).noOutletIs (hno hmem)
  have hend := done.command.trans hcommand
  obtain ⟨z, hz, -⟩ := done.body.well hv
  exact ⟨routing_commanded hz hend, held, hend⟩

/-- An ENGINE member not permitted FLARE and without a command is SHUT by NO OUTLET behind the onset. -/
theorem lineLostOnset_shuts (hr : RosterLaw s) (hw : s.well i = some w) (hl : Lawful i s)
    (hf : w.cfg.permitted.allows .flare = false) (hi : i ∈ s.rosters.engine) (hc : s.protCommand i = none)
    (hsent : s.sentProt i = none) :
    (lineLostOnset s).stateOf i = .shut ∧ NoOutletIs i true (lineLostOnset s) := by
  have hdiverts : s.diverts i = false := by
    unfold State.diverts
    rw [hw]
    dsimp only
    rw [hf, Bool.false_and]
  have stands := lostReady_stands hw hl hdiverts hc
  have hwell : (lostRaised s).well i = some w := (lostRaised_well s i).trans hw
  have hnone : (lostRaised s).protCommand i = none := (protCommand_of_same hl (lostRaised_wells s) (lostRaised_segs s)).trans hc
  have hsent' : (lostRaised s).sentProt i = none := by
    rw [sentProt_eq hwell, lostRaised_seg, ← sentProt_eq hw, hsent]
  have houtlet := outlet_of_roster hr hw hi
  have hrouting : (lostReady s).routing i = some .engine := by
    rw [stands.routing hwell, routing_eq hwell, hnone, hsent']
    exact congrArg some houtlet
  have hprot : (lostReady s).protOutlet i = none := by
    rw [stands.protOutlet hwell, protOutlet_eq hwell, hnone, (lostRaised_status s).1]
    rw [show (none : Option PendingProt).elim w.outlet (·.outlet) = .engine from houtlet, hf]
    rfl
  obtain ⟨v, hv, -⟩ := stands.body.well hwell
  have hm := stands.body.onRoster (lostRaised_onRoster (member_onRoster hr (.inl hi)))
  have hclosed := (lostReady_isOpen s .engine).trans (lostRaised_engine s)
  have hmem : i ∈ (lostReady s).members := by
    rw [lostReady_members hr]
    exact mem_members (.inl hi)
  have hlaw := stands.lawful
  rw [lineLostOnset_ready]
  generalize lostReady s = x at hlaw hrouting hprot hv hm hclosed hmem
  obtain ⟨ruled, hno⟩ := applyOutletRules_shut hv hlaw hm hrouting hclosed hprot x.members
  have done := ruled.trans (standing_reported .engine true ruled.lawful)
  have held := (holdSame_reported .engine true _).noOutletIs (hno hmem)
  exact ⟨stateOf_shut (done.body.onRoster hm) held, held⟩

/-! ## With FLARE closed (R101) -/

theorem noOutletCount_pos (h : NoOutletIs i true s) : 0 < s.noOutletCount := by
  obtain ⟨w, hw, hheld⟩ := Option.map_eq_some_iff.mp h
  unfold State.noOutletCount
  refine List.length_pos_of_mem (a := i) (List.mem_filter.mpr ⟨List.mem_finRange i, ?_⟩)
  rw [hw]
  exact hheld

/-- With both lines closed and NO OUTLET held the site's condition stands behind the examination. -/
theorem hasRec_examineSite (he : s.isOpen .engine = false) (hf : s.isOpen .flare = false) (h : NoOutletIs i true s) (b : Bool) :
    (examineSite b s).hasRec .noOutlet 98 = true := by
  have hpos := noOutletCount_pos h
  unfold examineSite
  rw [he, hf, if_pos (by simp [hpos])]
  split
  · next hrec =>
    split
    · rw [hasRec_bumpRec]
      exact hrec
    · exact hrec
  · exact hasRec_raiseCond _ _ _ _ _

theorem noOutlet_not_line : CondKind.noOutlet ≠ .lineOxygenHigh ∧ CondKind.noOutlet ≠ .engineBlendLow ∧
    CondKind.noOutlet ≠ .flareBlendLow := by decide

/-- With FLARE closed a roster member is SHUT by NO OUTLET behind the onset, and the site's NO OUTLET stands. -/
theorem lineLostOnset_closed (hr : RosterLaw s) (ho : s.isOpen .flare = false) (hi : i ∈ s.rosters.engine ∨ i ∈ s.rosters.flare) :
    (lineLostOnset s).stateOf i = .shut ∧ NoOutletIs i true (lineLostOnset s) ∧ (lineLostOnset s).hasRec .noOutlet 98 = true := by
  have ready := bodySame_lostReady (i := i) s
  have hm := ready.onRoster (lostRaised_onRoster (member_onRoster hr hi))
  have hengine := (lostReady_isOpen s .engine).trans (lostRaised_engine s)
  have hflare := (lostReady_isOpen s .flare).trans ((lostRaised_flare s).trans ho)
  have hmem : i ∈ (lostReady s).members := by
    rw [lostReady_members hr]
    exact mem_members hi
  rw [lineLostOnset_ready]
  generalize lostReady s = x at hm hengine hflare hmem
  obtain ⟨v, hv⟩ : ∃ v, x.well i = some v := by
    rw [onRoster_iff] at hm
    cases hx : x.well i with
    | none => rw [hx] at hm; exact nomatch hm
    | some v => exact ⟨v, rfl⟩
  have ruled := applyOutletRules_closed hv hm hengine hflare hmem
  have body : BodySame i x (applyOutletRules x.members x) := (outletRules_bodySame i).applyOutletRules _ x
  have held := (holdSame_reported .engine true _).noOutletIs ruled
  have hrec := hasRec_examineSite ((body.isOpen .engine).trans hengine) ((body.isOpen .flare).trans hflare) ruled true
  have hrec' := (evalRules_keepsRec noOutlet_not_line).evaluateLine .engine _ hrec
  exact ⟨stateOf_shut ((body.trans (bodySame_reported .engine true _)).onRoster hm) held, held, hrec'⟩

end Sys2Proof.Machine
end

section
/-! PROOF. The end of flare fault status, the events of the trip inputs, and O44. -/

-- One theorem at a time: the one-text build of the package runs out of threads otherwise.
set_option Elab.async false

namespace Sys2Proof.Machine

variable {s t x : State} {i : Slot} {w : Well} {k : Trip} {c : Instr}

/-! ## The end of flare fault status (R99) -/

/-- An ENGINE member the diversion takes, with a command to FLARE or with NO OUTLET, is commanded and routed to FLARE behind the end of
flare fault status, without NO OUTLET. -/
theorem flareFaultEnds_diverts (hr : RosterLaw s) (hw : s.well i = some w) (hl : Lawful i s) (hduty : s.isDuty = true)
    (hlost : s.balancer.lineLost = true) (hfault : s.balancer.flareFault = true) (hnow : s.trips.flareFault.accepted = false)
    (hd : s.diverts i = true) (hi : i ∈ s.rosters.engine)
    (h : NoOutletIs i true s ∨ ∃ p, s.protCommand i = some p ∧ p.outlet = .flare) :
    (flareFaultChanged s).routing i = some .flare ∧ NoOutletIs i false (flareFaultChanged s) ∧
      (flareFaultChanged s).protCommand i = some ⟨s.diversionTarget i, .flare⟩ := by
  have hchange : s.trips.flareFault.accepted ≠ s.balancer.flareFault := by
    rw [hnow, hfault]
    decide
  have hopen : (faultSet s).isOpen .flare = true := congrArg (!·) hnow
  have hm : ((faultSet s).stateOf i).onRoster = true := member_onRoster hr (.inl hi)
  have hrosters := (inner_outletRuleAll (d := False) true (faultSet s)).rosters hr .engine
  have hroute : (faultSet s).routing i = some _ := routing_eq hw
  have hpath : (faultSet s).isOpen (((faultSet s).protCommand i).elim
      (((faultSet s).sentProt i).elim w.outlet (·.outlet)) (·.outlet)) = true ∨ NoOutletIs i true (faultSet s) := by
    rcases h with hn | ⟨p, hp, hflare⟩
    · exact .inr hn
    · left
      rw [show (faultSet s).protCommand i = some p from hp]
      exact (congrArg (faultSet s).isOpen hflare).trans hopen
  have ruled : Standing i (faultSet s) (outletRuleAll true (faultSet s)) :=
    have rules := applyOutletRules_stands (s := faultSet s) hw hl hm hroute hpath (faultSet s).members
    rules.trans (standing_reports (reports_examineSite true _) rules.lawful)
  have hy : (outletRuleAll true (faultSet s)).balancer.lineLost = true := ruled.body.lineLost.trans hlost
  have hyduty : (outletRuleAll true (faultSet s)).isDuty = true := ruled.body.isDuty.trans hduty
  have hyopen := (ruled.body.isOpen .flare).trans hopen
  have hydiverts : (outletRuleAll true (faultSet s)).diverts i = true := (Standing.diverts ruled.body hw).trans hd
  have hytarget : (outletRuleAll true (faultSet s)).diversionTarget i = s.diversionTarget i := ruled.diversionTarget hw
  have hyroster : i ∈ (outletRuleAll true (faultSet s)).rosters.engine :=
    (congrArg (i ∈ ·) hrosters).mpr hi
  have hylaw := ruled.lawful
  have hym := ruled.body.onRoster hm
  obtain ⟨v, hv, -⟩ := ruled.body.well hw
  rw [flareFaultChanged_eq hchange, hnow]
  generalize outletRuleAll true (faultSet s) = y at hy hyduty hyopen hydiverts hytarget hyroster hylaw hym hv
  have hdiverted : faultDiverted false y = freeDiverted (y.rosters.engine.filter y.diverts) (diversion y) := by
    unfold faultDiverted
    rw [hy, hyduty]
    rfl
  rw [hdiverted]
  unfold freeDiverted
  have htaken : i ∈ y.rosters.engine.filter y.diverts := List.mem_filter.mpr ⟨hyroster, hydiverts⟩
  obtain ⟨body, hlaw, hcommand⟩ := divertAll_takes hv hylaw hyduty hydiverts hyroster
  have hcommand' : (diversion y).protCommand i = some ⟨s.diversionTarget i, .flare⟩ := hcommand.trans (by rw [hytarget])
  obtain ⟨z, hz, -⟩ := body.well hv
  have hlaw' : Lawful i (diversion y) := hlaw
  have hz' : (diversion y).well i = some z := hz
  have hzopen : (diversion y).isOpen .flare = true := (body.isOpen .flare).trans hyopen
  have hzm : ((diversion y).stateOf i).onRoster = true := body.onRoster hym
  generalize diversion y = d at hcommand' hlaw' hz' hzopen hzm
  obtain ⟨freed, hno⟩ := applyOutletRules_open hz' hlaw' hzm (routing_commanded hz' hcommand') hzopen
    (y.rosters.engine.filter y.diverts)
  have done := freed.trans (standing_reported .flare false freed.lawful)
  have held := (holdSame_reported .flare false _).noOutletIs (hno htaken)
  have hend := done.command.trans hcommand'
  obtain ⟨q, hq, -⟩ := done.body.well hz'
  exact ⟨routing_commanded hq hend, held, hend⟩

/-! ## The events of the trip inputs -/

/-- State `x` is `s` at another time with the filter of input `k` changed. -/
structure Tripped (k : Trip) (s x : State) : Prop where
  state : x = { s with timeBase := x.timeBase, trips := x.trips }
  others : ∀ m, m ≠ k → x.trips.get m = s.trips.get m

theorem tripEvent_exec (hheld : s.held = false) (h : TripEvent s k c) :
    ∃ x, exec c s = .next (tripsChanged s.combination x) ∧ Tripped k s x := by
  rcases h with ⟨rfl, hon⟩ | ⟨high, rfl, hoff⟩
  · obtain ⟨ms, hms⟩ := Option.ne_none_iff_exists'.mp (mt (ms_eq_none_iff _).mp hon)
    refine ⟨_, (Event.exec_free (.tripFilterExpiry k) hheld).trans (congrArg _ (filterExpiry_some hms)), ?_, fun m hm => ?_⟩
    · rw [State.advanceTo_eq]
      rfl
    · rw [State.advanceTo_eq, trips_modTrip, if_neg hm]
  · refine ⟨_, (Event.exec_eq (.tripInputChange k high) s).trans (congrArg _ (inputChange_off hheld hoff)), rfl, fun m hm => ?_⟩
    rw [trips_modTrip, if_neg hm, trips_modTrip, if_neg hm]

namespace Tripped

variable (a : Tripped k s x)
include a

theorem wells : x.wells = s.wells := by
  have e := congrArg State.wells a.state
  exact e

theorem segs : x.segs = s.segs := by
  have e := congrArg State.segs a.state
  exact e

theorem rosters : x.rosters = s.rosters := by
  have e := congrArg State.rosters a.state
  exact e

theorem balancer : x.balancer = s.balancer := by
  have e := congrArg State.balancer a.state
  exact e

theorem unit : x.unit = s.unit := by
  have e := congrArg State.unit a.state
  exact e

theorem conds : x.conds = s.conds := by
  have e := congrArg State.conds a.state
  exact e

theorem limits : x.limits = s.limits := by
  have e := congrArg State.limits a.state
  exact e

theorem well (i : Slot) : x.well i = s.well i := by
  unfold State.well
  rw [a.wells]

theorem seg (g : Seg) : x.seg g = s.seg g := by
  unfold State.seg
  rw [a.segs]

theorem isDuty (h : s.unit.role = .duty) : x.isDuty = true := by
  unfold State.isDuty
  rw [a.unit, h]
  rfl

theorem rosterLaw (h : RosterLaw s) : RosterLaw x := rosterLaw_of_same h a.wells a.rosters

theorem lawful (hq : QueuesLaw s) (hp : PendingLaw s) (i : Slot) : Lawful i x :=
  lawful_of_same (lawful_of_laws hq hp i) a.wells a.segs

theorem protCommand (hq : QueuesLaw s) (hp : PendingLaw s) (i : Slot) : x.protCommand i = s.protCommand i :=
  protCommand_of_same (lawful_of_laws hq hp i) a.wells a.segs

theorem sentProt (hw : s.well i = some w) : x.sentProt i = s.sentProt i := by
  rw [sentProt_eq hw, sentProt_eq ((a.well i).trans hw), a.seg]

/-- The four inputs of the combination alone decide it. -/
theorem combination (hk : k = .flareFault) : x.combination = s.combination := by
  have h0 := a.others .trip0 (by rw [hk]; decide)
  have h1 := a.others .trip1 (by rw [hk]; decide)
  have h2 := a.others .trip2 (by rw [hk]; decide)
  have h3 := a.others .trip3 (by rw [hk]; decide)
  unfold PerTrip.get at h0 h1 h2 h3
  unfold State.combination combinationOf
  rw [a.limits]
  dsimp only at h0 h1 h2 h3
  rw [h0, h1, h2, h3]

theorem diverts (i : Slot) : x.diverts i = s.diverts i := by
  unfold State.diverts
  rw [a.well]

end Tripped

theorem diverts_of (hw : s.well i = some w) (hf : w.cfg.permitted.allows .flare = true) (hh : w.holds.hot = false) :
    s.diverts i = true := by
  unfold State.diverts
  rw [hw]
  dsimp only
  rw [hf, hh]
  rfl

theorem diversionTarget_of (hw : s.well i = some w) :
    s.diversionTarget i =
      (s.protCommand i).elim (clampNat w.cfg.pmin w.cfg.pmax (w.target.getD w.cfg.pmin)) (·.target) := by
  unfold State.diversionTarget
  rw [hw]
  cases s.protCommand i <;> rfl

theorem Tripped.diversionTarget (a : Tripped k s x) (hq : QueuesLaw s) (hp : PendingLaw s) (hw : s.well i = some w) :
    x.diversionTarget i = s.diversionTarget i := by
  rw [diversionTarget_of hw, diversionTarget_of ((a.well i).trans hw), a.protCommand hq hp]

/-- An event that satisfies the combination is the onset. -/
theorem tripsChanged_onset (a : Tripped k s x) (hs : s.combination = false) (hl : s.balancer.lineLost = false)
    (hf : s.balancer.flareFault = s.trips.flareFault.accepted) (hu : (tripsChanged s.combination x).combination = true) :
    tripsChanged s.combination x = lineLostOnset x := by
  have all := inner_tripsChanged (d := False) s.combination x
  have hx : x.combination = true := (combination_congr all.keeps.limits all.trips).symm.trans hu
  have honset : combinationChanged s.combination x = lineLostOnset x := by
    rw [hs]
    exact combinationChanged_onset hx (by rw [a.balancer]; exact hl)
  have hk : k ≠ .flareFault := fun hk => by
    rw [a.combination hk, hs] at hx
    exact nomatch hx
  have haccepted : x.trips.flareFault = s.trips.flareFault := a.others .flareFault (Ne.symm hk)
  unfold tripsChanged
  rw [honset]
  refine flareFaultChanged_same ?_
  rw [(inner_lineLostOnset (d := False) x).trips, (lineLostOnset_status x).2, a.balancer, haccepted]
  exact hf.symm

/-- An event of FLARE FAULT with ENGINE LINE LOST in force changes flare fault status alone. -/
theorem tripsChanged_fault (a : Tripped .flareFault s x) (hrec : s.hasRec .engineLineLost 96 = true) :
    tripsChanged s.combination x = flareFaultChanged x := by
  unfold tripsChanged
  refine congrArg flareFaultChanged (combinationChanged_stays ?_)
  have hx := a.combination rfl
  cases hs : s.combination with
  | true => exact .inl ⟨rfl, hx.trans hs⟩
  | false =>
    refine .inr ⟨hx.trans hs, .inl ?_⟩
    unfold State.hasRec at hrec ⊢
    rw [a.conds]
    exact hrec

/-- Settles O44: the rule by `applyOutletRule_cases`, the onset by what it leaves of one slot, the end of flare fault status by
`flareFaultEnds_diverts`. -/
theorem lineLostDivertsTheEngineWells : Obligations.LineLostDivertsTheEngineWells := by
  unfold Obligations.LineLostDivertsTheEngineWells
  refine ⟨fun s i w l hw hm hr => applyOutletRule_cases hw hm hr,
    fun s k c hheld hduty hrosters hqueues hpendings hevent hs hl hf => ?_,
    fun s c hheld hduty hrosters hqueues hpendings hevent hl hrec hf => ?_⟩
  · obtain ⟨x, hexec, a⟩ := tripEvent_exec hheld hevent
    refine ⟨_, hexec, fun hu => ?_⟩
    rw [tripsChanged_onset a hs hl hf hu]
    have flare := lineLostOnset_flare x
    refine ⟨flare.queued, flare.pending, fun i w hi hw hopen => ⟨fun hpermitted hhot => ?_, fun hpermitted hc hsent => ?_⟩,
      fun hfault i hi hc hsent => ?_⟩
    · have hxopen : x.isOpen .flare = true := by
        unfold State.isOpen
        rw [a.balancer, hopen]
        rfl
      obtain ⟨hrouting, hno, hcommand⟩ := lineLostOnset_diverts (a.rosterLaw hrosters) ((a.well i).trans hw)
        (a.lawful hqueues hpendings i) (a.isDuty hduty) hxopen ((a.diverts i).trans (diverts_of hw hpermitted hhot))
        (by rw [a.rosters]; exact hi)
      refine ⟨hrouting, hno, ?_⟩
      rw [hcommand, a.diversionTarget hqueues hpendings hw, diversionTarget_of hw]
      cases s.protCommand i <;> rfl
    · exact lineLostOnset_shuts (a.rosterLaw hrosters) ((a.well i).trans hw) (a.lawful hqueues hpendings i) hpermitted
        (by rw [a.rosters]; exact hi) ((a.protCommand hqueues hpendings i).trans hc) ((a.sentProt hw).trans hsent)
    · have hxclosed : x.isOpen .flare = false := by
        unfold State.isOpen
        rw [a.balancer, hfault]
        rfl
      exact lineLostOnset_closed (a.rosterLaw hrosters) hxclosed (by rw [a.rosters]; exact hi)
  · obtain ⟨x, hexec, a⟩ := tripEvent_exec hheld hevent
    refine ⟨_, hexec, fun hnow => ?_⟩
    rw [tripsChanged_fault a hrec] at hnow ⊢
    have hxnow : x.trips.flareFault.accepted = false := by
      rw [(inner_flareFaultChanged (d := False) x).trips] at hnow
      exact hnow
    refine ⟨(flareFaultChanged_after x).flareFault.trans hxnow, fun i w hi hw hpermitted hhot hstanding => ?_⟩
    have hstands : NoOutletIs i true x ∨ ∃ p, x.protCommand i = some p ∧ p.outlet = .flare := by
      rw [a.protCommand hqueues hpendings]
      refine hstanding.imp_left fun hheld => ?_
      unfold NoOutletIs
      rw [a.well, hw]
      exact congrArg some hheld
    obtain ⟨hrouting, hno, hcommand⟩ := flareFaultEnds_diverts (a.rosterLaw hrosters) ((a.well i).trans hw)
      (a.lawful hqueues hpendings i) (a.isDuty hduty) (by rw [a.balancer]; exact hl) (by rw [a.balancer]; exact hf) hxnow
      ((a.diverts i).trans (diverts_of hw hpermitted hhot)) (by rw [a.rosters]; exact hi) hstands
    refine ⟨hrouting, hno, ?_⟩
    rw [hcommand, a.diversionTarget hqueues hpendings hw, diversionTarget_of hw]
    cases s.protCommand i <;> rfl

end Sys2Proof.Machine
end
